-- ==== Sys2Proof/Word.lean ====
section
/-! DEFINITION. The word types of the VX9 (spec 00 R3, R8): names for the bit-vector widths the manual uses. -/

namespace Sys2Proof

/-- A byte of memory (R3). -/
abbrev Byte := BitVec 8
/-- A compact instruction, or a 16-bit memory value (R34). -/
abbrev Half := BitVec 16
/-- A vector or uniform register (R118, R119). -/
abbrev Word := BitVec 32
/-- A register pair, an address or a program counter (R3, R35). -/
abbrev Dword := BitVec 64
/-- A set of lanes 0-63, bit l for lane l (R86). -/
abbrev LaneSet := BitVec 64
/-- A register number as an instruction field holds it (R43). -/
abbrev RegNum := BitVec 7

end Sys2Proof
end

