-- ==== Sys2Proof/Syntax.lean ====
section
/-! DEFINITION. Instructions as syntax: one constructor per row of the opcode table (spec 02 R54; 95_what_each_step_holds.md
for the events and commands, which have no word). A thread's instruction carries the fields of its layout (R39, R43) and, when
a modifier word follows, that word (R47): so the length of R34 is read off the constructor. -/

namespace Sys2Proof

/-- The modifier word of R47, but for its reserved bits 31:28, which the decoder refuses unless zero. -/
structure Mods where
  rnd : BitVec 3
  scale : BitVec 5
  abs : BitVec 3
  neg : BitVec 3
  clamp : Bool
  sat : Bool
  gneg : Bool
  guard : BitVec 3
  c : BitVec 8
  deriving DecidableEq, Repr

/-- R47: the word 0x0000_0700, which holds every default. -/
def Mods.default : Mods :=
  { rnd := 0, scale := 0, abs := 0, neg := 0, clamp := false, sat := false, gneg := false, guard := 7, c := 0 }

/-- Layout R of R43. -/
structure OpR where
  b : RegNum
  bk : Bool
  a : RegNum
  d : RegNum
  m : Option Mods
  deriving DecidableEq, Repr
/-- Layout U of R43; the function F is the constructor. -/
structure OpU where
  b : RegNum
  bk : Bool
  d : RegNum
  m : Option Mods
  deriving DecidableEq, Repr
/-- Layouts I and M of R43. -/
structure OpI where
  imm : BitVec 8
  a : RegNum
  d : RegNum
  m : Option Mods
  deriving DecidableEq, Repr
/-- Layout T of R43. -/
structure OpT where
  dt : BitVec 4
  st : BitVec 4
  a : RegNum
  d : RegNum
  m : Option Mods
  deriving DecidableEq, Repr
/-- Layout SI of R43; the sub-operation is the constructor. -/
structure OpSI where
  imm : BitVec 5
  a : RegNum
  d : RegNum
  m : Option Mods
  deriving DecidableEq, Repr
/-- Layout F8 of R43; the function is the constructor. -/
structure OpF8 where
  a : RegNum
  d : RegNum
  m : Option Mods
  deriving DecidableEq, Repr
/-- Layout J of R43. -/
structure OpJ where
  off : BitVec 22
  m : Option Mods
  deriving DecidableEq, Repr
/-- Layout Z of R43 where a modifier word may follow. -/
structure OpZ where
  m : Option Mods
  deriving DecidableEq, Repr
/-- OP 0x01 with its literal word (R50, R134). -/
structure OpL where
  d : RegNum
  lit : Word
  deriving DecidableEq, Repr
/-- A compact halfword (R39). -/
structure OpC where
  b : BitVec 5
  d : BitVec 6
  deriving DecidableEq, Repr
/-- The compact branch (R39, R41). -/
structure OpCB where
  off : BitVec 11
  deriving DecidableEq, Repr

/-- Names a page-table entry (R256): the context, the table (0-3 the dies' tables of space 0x0, 4 the table of space 0x1),
the level 1-3 and the index, which is OFF shifted down to the level's page size. -/
structure EntryKey where
  ctx : Nat
  table : Nat
  level : Nat
  index : Nat
  deriving DecidableEq, Repr
/-- Names an L1 line (R193): the translation context and the address divided by 128. -/
structure LineKey where
  ctx : Nat
  line : Nat
  deriving DecidableEq, Repr
/-- What MIGRATE moves a page to (R261, R263, R437). -/
inductive MoveTarget where
  | frame (fdie addr : Nat)   -- another frame of this device
  | toHost (addr : Nat)       -- back to the host
  | toDevice (fdie addr : Nat)
  | pageOut
  deriving DecidableEq, Repr
/-- The name of a member of a .net communicator (R470): its IPv6 address and job identifier. -/
structure NetName where
  ip : BitVec 128
  job : Nat
  deriving DecidableEq, Repr
/-- A member of a communicator (R308): a block of a launch on a device, and its name on the network. -/
structure Member where
  dev : Nat
  launch : Nat
  blkidx : Nat
  net : Option NetName
  deriving DecidableEq, Repr
/-- A target of the access tables (R471). -/
inductive AclTarget where
  | hbm (die : Nat)
  | slices (die : Nat)
  | control
  | horaris (port : Nat)
  | ethernet (port : Nat)
  deriving DecidableEq, Repr
/-- A group as the debug port names it (R458). -/
structure GroupName where
  core : Nat
  sched : Nat
  slot : Nat
  deriving DecidableEq, Repr
/-- The debug port of a partition, as a master of R471 uses it (R458). -/
structure DbgPort where
  part : Nat
  master : Nat
  deriving DecidableEq, Repr
/-- An item of a halted group that the debug port reads or writes (R458). -/
inductive DbgItem where
  | v (n : Nat)
  | s (n : Nat)
  | p (n : Nat)
  | k (n : Nat)
  | acc (t i j : Nat)
  | pc
  | region
  | fpenv
  | fpflags
  | trapResume
  | trapRegion
  /-- word i of the trapped thread's record -/
  | trapRecord (i : Nat)
  deriving DecidableEq, Repr
/-- A host CXL.mem access (R462). -/
inductive HostAccess where
  | read (len : Nat)
  | write (bytes : List Byte)
  deriving DecidableEq, Repr
/-- A host PCIe AtomicOp that the device completes (R461). -/
inductive HostAtomic where
  | fetchAdd (x : Dword)
  | swap (x : Dword)
  | cas (compare new : Dword)
  deriving DecidableEq, Repr
/-- A request of another device of the pod (R242). -/
inductive PodAccess where
  | read (len : Nat)
  | write (bytes : List Byte)
  /-- ATOM with op as R252 numbers it -/
  | atom (op : Nat) (wide : Bool) (x : Dword)
  | cas (wide : Bool) (compare new : Dword)
  deriving DecidableEq, Repr

/-- The operands of an event or a command (which have no word, so that nothing encodes their operands): which block, group,
lane, store, line, entry, queue or partition the row acts on, or the arguments of R437, R458 and R473. State.subject holds
the subject of the row being executed. -/
inductive Subject where
  | none
  /-- what an event that does not happen leaves: it changes nothing else -/
  | idle
  | block (blk : Nat)
  | group (blk grp : Nat)
  | mask (blk grp k : Nat)
  | wait (blk grp : Nat) (pc : Dword)
  | lane (blk grp lane : Nat)
  | load (blk grp id : Nat)
  | core (core : Nat)
  | op (core handle : Nat)
  | store (core id : Nat)
  | line (core : Nat) (line : LineKey)
  | entry (key : EntryKey)
  | part (part : Nat)
  | queue (queue : Nat)
  | launch (launch : Nat)
  | round (part comm round : Nat) (outside : List (Nat × List Byte))
  | arming (arming line : Nat)
  | port (port : Nat)
  | device (dev : Nat)
  | reservation (part queue : Nat)
  | clockStep (die : Nat) (raise : Bool)
  | index (index : Nat)
  /-- TAIL of a queue, written by a master of R471 -/
  | tail (queue master : Nat) (tail : Word)
  | register (offset : Nat) (value : Word)
  | host (hpa : Nat) (access : HostAccess)
  | snoop (hpa : Nat)
  | atomicOp (hpa : Nat) (wide : Bool) (op : HostAtomic)
  /-- from another device, with the master number and context it carries -/
  | pod (master ctx : Nat) (ea : Dword) (access : PodAccess)
  | digests (own peer : BitVec 512) (peerErrors : Bool)
  | partSet (mask : BitVec 48) (part : Nat)
  | qCreate (part ctx : Nat) (qbase : Dword) (qsize : Nat)
  | qConfig (queue prio wgt wdog : Nat) (serial lok : Bool)
  | budget (part kind : Nat) (limit : Dword)
  | partParam (part pt agestep capacity : Nat)
  | preempt (part n : Nat)
  | xlate (key : EntryKey) (value : Dword)
  | migrate (key : EntryKey) (target : MoveTarget)
  | comm (part number : Nat) (scope : BitVec 3) (members : List Member) (timeoutMs : Option Nat)
  | commNumber (part number : Nat)
  | evlog (base size : Nat)
  | replica (peer : Nat) (schedule : List Nat)
  | flag (on : Bool)
  | podSet (dev p : Nat) (routes : List (Nat × BitVec 36))
  | acl (target : AclTarget) (index : Nat) (entry : BitVec 128)
  | watts (watts : Nat)
  | ecc (cls die : Nat) (clear : Bool)
  | selftest (part : Nat) (failures : List Nat)
  /-- a firmware image in the package's HBM, by its frame address -/
  | image (address length : Nat)
  | attest (nonce : BitVec 256) (buffer : Nat)
  | net (port : Nat) (ip : BitVec 128)
  | dbgen (port : DbgPort) (on : Bool)
  | brk (port : DbgPort) (index : Nat) (address : Dword)
  | dbg (port : DbgPort) (name : GroupName)
  | resume (port : DbgPort) (name : GroupName) (block : Bool)
  | dbgRead (port : DbgPort) (name : GroupName) (lane : Nat) (item : DbgItem)
  | dbgWrite (port : DbgPort) (name : GroupName) (lane : Nat) (item : DbgItem) (value : Dword)
  deriving DecidableEq, Repr

/-- The rows of the opcode table: first the instructions of threads, then the events and commands, whose operands are a
Subject. (Lean's runtime numbers at most 244 constructors that carry data; hence this order.) -/
inductive Instr where
  /-- Compact MOV: copies vector register vb into vd (R40). -/
  | cMov (o : OpC)
  /-- Compact MOVI: writes the sign-extended imm5 to vd (R40). -/
  | cMovi (o : OpC)
  /-- Compact IADD: vd := vd + vb, modulo 2^32 (R40). -/
  | cIadd (o : OpC)
  /-- Compact IADD with immediate: vd := vd + Sext(imm5) (R40). -/
  | cIaddImm (o : OpC)
  /-- Compact ISUB: vd := vd - vb (R40). -/
  | cIsub (o : OpC)
  /-- Compact IMUL: vd := low 32 bits of vd times vb (R40). -/
  | cImul (o : OpC)
  /-- Compact AND: vd := vd & vb (R40). -/
  | cAnd (o : OpC)
  /-- Compact OR: vd := vd | vb (R40). -/
  | cOr (o : OpC)
  /-- Compact XOR: vd := vd ^ vb (R40). -/
  | cXor (o : OpC)
  /-- Compact SHL by an immediate amount (R40). -/
  | cShl (o : OpC)
  /-- Compact SHR by an immediate amount (R40). -/
  | cShr (o : OpC)
  /-- Compact FADD under the thread's FP environment (R40). -/
  | cFadd (o : OpC)
  /-- Compact FSUB under the thread's FP environment (R40). -/
  | cFsub (o : OpC)
  /-- Compact FMUL under the thread's FP environment (R40). -/
  | cFmul (o : OpC)
  /-- Compact FMAX (R40). -/
  | cFmax (o : OpC)
  /-- Short unguarded branch by a signed 11-bit halfword offset (R41). -/
  | cBra (o : OpCB)
  /-- Copies operand B into vD (R135). -/
  | mov (o : OpU)
  /-- Writes the bitwise complement of B to vD (R135). -/
  | not (o : OpU)
  /-- Writes the number of 1 bits of B to vD (R135). -/
  | popc (o : OpU)
  /-- Writes the count of leading zeros of B to vD (R135). -/
  | clz (o : OpU)
  /-- Writes the count of trailing zeros of B to vD (R135). -/
  | ctz (o : OpU)
  /-- Writes the bit-reversed B to vD (R135). -/
  | brev (o : OpU)
  /-- Packs predicates p0 to p6 into vD (R135). -/
  | p2v (o : OpU)
  /-- Sets the predicates selected by mask m from the bits of B (R135). -/
  | v2p (o : OpU)
  /-- Writes B to uniform register sD, once for the set (R135). -/
  | smov (o : OpU)
  /-- Writes a 32-bit literal to vD (R134). -/
  | movi (o : OpL)
  /-- Writes a 32-bit literal to uniform register sD (R134). -/
  | smovi (o : OpL)
  /-- A group member arrives at a whole-group register reallocation (R124). -/
  | allot (o : OpR)
  /-- Reads a system register into v or s (R129). -/
  | srd (o : OpR)
  /-- Writes a system register from v or s (R130). -/
  | swr (o : OpR)
  /-- Integer add (R136). -/
  | iadd (o : OpR)
  /-- Integer subtract (R136). -/
  | isub (o : OpR)
  /-- Integer add with carry predicate in and out (R138). -/
  | iadc (o : OpR)
  /-- Integer subtract with borrow predicate in and out (R138). -/
  | isbb (o : OpR)
  /-- Integer multiply, low 32 bits (R136). -/
  | imul (o : OpR)
  /-- High 32 bits of the signed product (R136). -/
  | imulhI32 (o : OpR)
  /-- High 32 bits of the unsigned product (R136). -/
  | imulhN32 (o : OpR)
  /-- Integer multiply-add (R136). -/
  | imad (o : OpR)
  /-- Signed widening multiply-add into a 64-bit pair (R137). -/
  | imadwI32 (o : OpR)
  /-- Unsigned widening multiply-add into a 64-bit pair (R137). -/
  | imadwN32 (o : OpR)
  /-- Signed division toward zero (R140). -/
  | idivI32 (o : OpR)
  /-- Unsigned division (R140). -/
  | idivN32 (o : OpR)
  /-- Signed remainder (R140). -/
  | iremI32 (o : OpR)
  /-- Unsigned remainder (R140). -/
  | iremN32 (o : OpR)
  /-- Signed minimum (R141). -/
  | iminI32 (o : OpR)
  /-- Unsigned minimum (R141). -/
  | iminN32 (o : OpR)
  /-- Signed maximum (R141). -/
  | imaxI32 (o : OpR)
  /-- Unsigned maximum (R141). -/
  | imaxN32 (o : OpR)
  /-- Bitwise AND (R141). -/
  | and (o : OpR)
  /-- Bitwise OR (R141). -/
  | or (o : OpR)
  /-- Bitwise XOR (R141). -/
  | xor (o : OpR)
  /-- a & ~b (R141). -/
  | andn (o : OpR)
  /-- Shift left by a register amount (R142). -/
  | shl (o : OpR)
  /-- Logical shift right by a register amount (R142). -/
  | shr (o : OpR)
  /-- Arithmetic shift right by a register amount (R142). -/
  | sar (o : OpR)
  /-- Rotate left by a register amount (R142). -/
  | rol (o : OpR)
  /-- Rotate right by a register amount (R142). -/
  | ror (o : OpR)
  /-- Shift left by imm5 (R142). -/
  | shlImm (o : OpSI)
  /-- Logical shift right by imm5 (R142). -/
  | shrImm (o : OpSI)
  /-- Arithmetic shift right by imm5 (R142). -/
  | sarImm (o : OpSI)
  /-- Rotate left by imm5 (R142). -/
  | rolImm (o : OpSI)
  /-- Rotate right by imm5 (R142). -/
  | rorImm (o : OpSI)
  /-- Funnel shift left of a:c (R143). -/
  | fshl (o : OpR)
  /-- Bit-field extract (R144). -/
  | bfe (o : OpR)
  /-- Bit-field insert (R144). -/
  | bfi (o : OpR)
  /-- Byte permutation of c:a (R144). -/
  | byteperm (o : OpR)
  /-- 64-bit base plus shifted index (R145). -/
  | lea (o : OpR)
  /-- 64-bit add of pairs (R139). -/
  | iadd64 (o : OpR)
  /-- 64-bit subtract of pairs (R139). -/
  | isub64 (o : OpR)
  /-- Uniform add (R150). -/
  | sadd (o : OpF8)
  /-- Uniform subtract (R150). -/
  | ssub (o : OpF8)
  /-- Uniform multiply (R150). -/
  | smul (o : OpF8)
  /-- Uniform AND (R150). -/
  | sand (o : OpF8)
  /-- Uniform OR (R150). -/
  | sor (o : OpF8)
  /-- Uniform XOR (R150). -/
  | sxor (o : OpF8)
  /-- Uniform shift left (R150). -/
  | sshl (o : OpF8)
  /-- Uniform logical shift right (R150). -/
  | sshr (o : OpF8)
  /-- Uniform compare into a predicate of each guard-true thread (R151). -/
  | ssetp (cmp : BitVec 4) (o : OpF8)
  /-- Integer compare, optionally combined with a predicate (R148). -/
  | setp (o : OpR)
  /-- Selects a or b by a predicate (R149). -/
  | sel (o : OpR)
  /-- Predicate logic by a 4-bit table (R149). -/
  | plop (o : OpR)
  /-- Signed 8-bit four-way dot product with accumulate (R146). -/
  | idot4I8 (o : OpR)
  /-- Unsigned 8-bit dot product with accumulate (R146). -/
  | idot4N8 (o : OpR)
  /-- Signed 4-bit dot product with accumulate (R146). -/
  | idot4I4 (o : OpR)
  /-- Unsigned 4-bit dot product with accumulate (R146). -/
  | idot4N4 (o : OpR)
  /-- FP32 add, rounded once (R167). -/
  | fadd (o : OpR)
  /-- FP32 subtract (R167). -/
  | fsub (o : OpR)
  /-- FP32 multiply (R167). -/
  | fmul (o : OpR)
  /-- FP32 fused multiply-add (R167). -/
  | ffma (o : OpR)
  /-- FP32 minimumNumber (R168). -/
  | fmin (o : OpR)
  /-- FP32 maximumNumber (R168). -/
  | fmax (o : OpR)
  /-- FP32 divide (R167). -/
  | fdiv (o : OpR)
  /-- FP32 square root, correctly rounded (R169). -/
  | fsqrt (o : OpU)
  /-- Approximate FP32 reciprocal (R170). -/
  | frcp (o : OpU)
  /-- Approximate FP32 reciprocal square root (R170). -/
  | frsq (o : OpU)
  /-- Approximate 2^b (R170). -/
  | fex2 (o : OpU)
  /-- Approximate log2 b (R170). -/
  | flg2 (o : OpU)
  /-- Approximate sine (R170). -/
  | fsin (o : OpU)
  /-- Approximate cosine (R170). -/
  | fcos (o : OpU)
  /-- Approximate hyperbolic tangent (R170). -/
  | ftanh (o : OpU)
  /-- Rounds to an integral FP32 value (R171). -/
  | frnd (o : OpU)
  /-- Writes the class mask of b (R172). -/
  | fclass (o : OpU)
  /-- FP32 compare into a predicate (R174). -/
  | fsetp (o : OpR)
  /-- a times 2^b, rounded once (R175). -/
  | fscale (o : OpR)
  /-- Splits a into fraction and exponent (R176). -/
  | frexp (o : OpR)
  /-- FP64 add (R177). -/
  | dadd (o : OpR)
  /-- FP64 subtract (R177). -/
  | dsub (o : OpR)
  /-- FP64 multiply (R177). -/
  | dmul (o : OpR)
  /-- FP64 fused multiply-add (R177). -/
  | dfma (o : OpR)
  /-- FP64 minimumNumber (R177). -/
  | dmin (o : OpR)
  /-- FP64 maximumNumber (R177). -/
  | dmax (o : OpR)
  /-- FP64 divide (R177). -/
  | ddiv (o : OpR)
  /-- FP64 square root (R177). -/
  | dsqrt (o : OpU)
  /-- Approximate FP64 reciprocal (R170). -/
  | drcp (o : OpU)
  /-- Rounds to an integral FP64 value (R171). -/
  | drnd (o : OpU)
  /-- FP64 compare into a predicate (R174). -/
  | dsetp (o : OpR)
  /-- Packed FP16 add (R178). -/
  | pkaddF16 (o : OpR)
  /-- Packed BF16 add (R178). -/
  | pkaddBf16 (o : OpR)
  /-- Packed FP16 multiply (R178). -/
  | pkmulF16 (o : OpR)
  /-- Packed BF16 multiply (R178). -/
  | pkmulBf16 (o : OpR)
  /-- Packed FP16 fused multiply-add (R178). -/
  | pkfmaF16 (o : OpR)
  /-- Packed BF16 fused multiply-add (R178). -/
  | pkfmaBf16 (o : OpR)
  /-- Packed FP16 minimum (R178). -/
  | pkminF16 (o : OpR)
  /-- Packed BF16 minimum (R178). -/
  | pkminBf16 (o : OpR)
  /-- Packed FP16 maximum (R178). -/
  | pkmaxF16 (o : OpR)
  /-- Packed BF16 maximum (R178). -/
  | pkmaxBf16 (o : OpR)
  /-- Packed FP16 compare into two predicates (R174). -/
  | pksetpF16 (o : OpR)
  /-- Packed BF16 compare into two predicates (R174). -/
  | pksetpBf16 (o : OpR)
  /-- Converts between integer and FP types (R179). -/
  | cvt (o : OpT)
  /-- Converts two values and packs them (R181). -/
  | pack (o : OpT)
  /-- Unpacks and widens two elements exactly (R182). -/
  | unpk (o : OpT)
  /-- Quantises a block of 32 values into an MX block (R183). -/
  | mxq (o : OpT)
  /-- Dequantises an MX block (R184). -/
  | mxdq (o : OpT)
  /-- Updates selected FPENV fields and returns the old value (R186). -/
  | fenv (o : OpR)
  /-- Reads and clears selected FP flags (R187). -/
  | fflg (o : OpR)
  /-- Moves between mask registers and uniform pairs (R106). -/
  | kmov (o : OpR)
  /-- Mask register logic, operation in the modifier C field (R107). -/
  | kop (o : OpR)
  /-- Popcount or lowest set lane of a mask (R108). -/
  | kpop (o : OpR)
  /-- Sets the guard-true threads' bits in a mask (R109). -/
  | join (o : OpR)
  /-- Clears the guard-true threads' bits in a mask (R109). -/
  | leave (o : OpR)
  /-- Thread becomes member-waiting on mask k (R110). -/
  | waitk (o : OpR)
  /-- A set arrives at a predicate vote across members (R112). -/
  | vote (o : OpR)
  /-- A set arrives at a cross-lane shuffle (R113). -/
  | shfl (o : OpR)
  /-- A set arrives at a cross-lane reduction (R114). -/
  | redux (o : OpR)
  /-- A set arrives at a cross-lane value match (R115). -/
  | matchLanes (o : OpR)
  /-- A set arrives at a cross-lane prefix scan (R114). -/
  | scan (o : OpR)
  /-- A set arrives at an election of the lowest contributor (R115). -/
  | elect (o : OpR)
  /-- Branch by off22, optionally guarded (R98). -/
  | bra (o : OpJ)
  /-- Branch of the whole issue set on any or all of a predicate (R99). -/
  | brc (o : OpJ)
  /-- Jump to an address in a pair (R100). -/
  | jmp (o : OpR)
  /-- Call with link in a register pair (R100). -/
  | call (o : OpJ)
  /-- Indirect call (R100). -/
  | calli (o : OpR)
  /-- Return to the link pair (R100). -/
  | ret (o : OpZ)
  /-- Thread exits after its stores are checked; the last exit ends the block (R101). -/
  | exit (o : OpZ)
  /-- Sets the region-entry PC (R102). -/
  | region
  /-- Thread sleeps briefly and its group becomes youngest (R103). -/
  | yield (o : OpZ)
  /-- Advances the PC (R102). -/
  | nop
  /-- Thread sleeps until an absolute GTIME deadline (R104). -/
  | sleep (o : OpI)
  /-- Zero-extending byte load (R212). -/
  | ldN8 (o : OpI)
  /-- Sign-extending byte load (R212). -/
  | ldI8 (o : OpI)
  /-- Zero-extending halfword load (R212). -/
  | ldN16 (o : OpI)
  /-- Sign-extending halfword load (R212). -/
  | ldI16 (o : OpI)
  /-- Word load (R212). -/
  | ldB32 (o : OpI)
  /-- Doubleword load into a pair (R212). -/
  | ldB64 (o : OpI)
  /-- 16-byte load into a quad (R212). -/
  | ldB128 (o : OpI)
  /-- Byte store (R213). -/
  | stB8 (o : OpI)
  /-- Halfword store (R213). -/
  | stB16 (o : OpI)
  /-- Word store (R213). -/
  | stB32 (o : OpI)
  /-- Doubleword store (R213). -/
  | stB64 (o : OpI)
  /-- 16-byte store (R213). -/
  | stB128 (o : OpI)
  /-- Private-memory load by word index (R214). -/
  | ldp (o : OpI)
  /-- Private-memory store by word index (R214). -/
  | stp (o : OpI)
  /-- Prefetches a line into L1, L2 or a replica (R215). -/
  | pref (o : OpI)
  /-- Writes back a range and invalidates instruction-cache lines, registering the range (R216). -/
  | cctlIi (o : OpR)
  /-- Writes back dirty bytes of a range (R216). -/
  | cctlWb (o : OpR)
  /-- Writes back then invalidates a range (R216). -/
  | cctlInv (o : OpR)
  /-- Writes back every dirty byte of the core's L1 (R216). -/
  | cctlWbAll (o : OpR)
  /-- Writes back and invalidates the whole L1 (R216). -/
  | cctlInvAll (o : OpR)
  /-- Drops the launch's replicas of a range (R216). -/
  | cctlRodrop (o : OpR)
  /-- Release then acquire fence at a scope (R249). -/
  | fenceAr (o : OpR)
  /-- Acquire fence at a scope (R249). -/
  | fenceAcq (o : OpR)
  /-- Release fence at a scope (R249). -/
  | fenceRel (o : OpR)
  /-- Sequentially consistent fence at a scope (R249). -/
  | fenceSc (o : OpR)
  /-- 32-bit atomic read-modify-write (R252). -/
  | atomB32 (o : OpR)
  /-- 64-bit atomic read-modify-write (R252). -/
  | atomB64 (o : OpR)
  /-- 32-bit compare-and-swap (R253). -/
  | casB32 (o : OpR)
  /-- 64-bit compare-and-swap (R253). -/
  | casB64 (o : OpR)
  /-- 32-bit acquire load (R250). -/
  | ldacqB32 (o : OpI)
  /-- 64-bit acquire load (R250). -/
  | ldacqB64 (o : OpI)
  /-- 32-bit release store (R251). -/
  | strelB32 (o : OpI)
  /-- 64-bit release store (R251). -/
  | strelB64 (o : OpI)
  /-- Waits until every earlier store of the thread is checked, delivering pending records (R254). -/
  | drainst (o : OpZ)
  /-- Requests the pages of a range (R284). -/
  | pgreq (o : OpR)
  /-- Logs a page-placement hint event (R285). -/
  | pghint (o : OpR)
  /-- Tile-store word load (R301). -/
  | ldtB32 (o : OpI)
  /-- Tile-store 16-byte load (R301). -/
  | ldtB128 (o : OpI)
  /-- Tile-store word store (R301). -/
  | sttB32 (o : OpI)
  /-- Tile-store 16-byte store (R301). -/
  | sttB128 (o : OpI)
  /-- Zeroes a tile-store range (R302). -/
  | tzero (o : OpR)
  /-- Arms a sync word with a target and clears its flags (R303). -/
  | syncarm (o : OpR)
  /-- Thread waits for a sync-word generation (R304). -/
  | syncwait (o : OpR)
  /-- Issues a copy engine operation (R305). -/
  | acopy (o : OpR)
  /-- Issues a quantising copy into the tile store (R306). -/
  | acopyQuant (o : OpR)
  /-- Issues an indexed gather into the tile store (R307). -/
  | agath (o : OpR)
  /-- Issues an indexed scatter from the tile store (R307). -/
  | ascat (o : OpR)
  /-- Issues a collective on a communicator (R310). -/
  | acoll (o : OpR)
  /-- Issues a SHAKE256 digest operation (R311). -/
  | adigest (o : OpR)
  /-- Thread waits for a completion object's count (R312). -/
  | await (o : OpR)
  /-- Cancels an engine operation of the block (R313). -/
  | acancel (o : OpR)
  /-- A group member arrives at a matrix multiply-accumulate (R326). -/
  | mma (o : OpR)
  /-- A group member arrives at a sparse matrix multiply-accumulate (R327). -/
  | mmasp (o : OpR)
  /-- Zeroes an accumulator tile (R329). -/
  | accz (o : OpR)
  /-- Loads a tile from the tile store (R330). -/
  | accld (o : OpR)
  /-- Stores a converted tile to memory, one row per lane (R331). -/
  | accst (o : OpR)
  /-- Moves a column group of a tile into registers (R332). -/
  | accrd (o : OpR)
  /-- Moves registers into a column group of a tile (R332). -/
  | accwr (o : OpR)
  /-- Reads and clears selected MMAFLAGS (R333). -/
  | mmaflg (o : OpR)
  /-- Tightens a monitor threshold of the attempt (R362). -/
  | monset (o : OpR)
  /-- Reads the doomed bit or a monitor count (R363). -/
  | trxchk (o : OpR)
  /-- Dooms the monitored attempt by escalation (R364). -/
  | trxesc (o : OpZ)
  /-- Issues a traverse operation (R379). -/
  | trav (o : OpR)
  /-- Issues a traverse that writes the state after k steps (R380). -/
  | travst (o : OpR)
  /-- Sets a barrier's expected count (R384). -/
  | barinit (o : OpR)
  /-- Group arrives at a barrier and receives its phase (R386). -/
  | bararr (o : OpR)
  /-- Thread waits for a barrier phase (R387). -/
  | barwait (o : OpR)
  /-- Group arrives at a barrier and waits for its phase (R386). -/
  | bar (o : OpR)
  /-- Thread waits for the ticket counter (R391). -/
  | tkwait (o : OpR)
  /-- Passes the block's ticket (R390). -/
  | tkpass (o : OpR)
  /-- Enqueues a child launch with part of the held weight (R395). -/
  | spawn (o : OpR)
  /-- Returns weight to the root (R396). -/
  | wret (o : OpR)
  /-- Thread waits until a word differs from an expected value (R398). -/
  | mwait (o : OpR)
  /-- Adds into an exact reduction image (R401). -/
  | red (o : OpR)
  /-- Drains the block's atomic buffer entries (R402). -/
  | redfl (o : OpR)
  /-- Arms update units with an update record (R405). -/
  | redarm (o : OpR)
  /-- Sets an ownership range of the block (R413). -/
  | ownset (o : OpR)
  /-- Appends a launch record to a queue (R439). -/
  | launch (o : OpR)
  /-- Raises TRAPI with an immediate detail (R452). -/
  | trap (o : OpI)
  /-- Raises BKPT, trapping or halting the group (R453). -/
  | bkpt
  /-- Returns from a trap handler (R454). -/
  | tret
  /-- Kills every thread of the group (R455). -/
  | killg (o : OpZ)
  /-- Kills every thread of the block (R455). -/
  | killb (o : OpZ)
  /-- Reads half of the thread's last fault record (R456). -/
  | fltrd (o : OpR)
  /-- All WAITK waiters on k are released when every lane of k waits there (R110). -/
  | waitkRelease
  /-- Once every lane of the snapshot has arrived, the cross-lane or whole-group instruction completes for all arrived threads (R87). -/
  | memberWaitComplete
  /-- No wait can complete and nothing else can run; member-waiting threads take MASKFLT detail 3 (R89). -/
  | unsatisfiableWait
  /-- A sleeping thread becomes runnable on its deadline or the next issue opportunity (R103). -/
  | sleepEnd
  /-- The awaited generation is reached; writes status or delivers the engine fault, then acquires (R304). -/
  | syncwaitComplete
  /-- Once all members' contributions are read, the round combines and writes each member's destination (R310). -/
  | collectiveRound
  /-- The count is reached; writes CNT or delivers ENGFLT, then acquires (R312). -/
  | awaitComplete
  /-- An engine operation reports performed bytes, an error or cancellation to a sync word, which may advance GEN (R290). -/
  | syncWordArrival
  /-- An engine operation's completion object is updated atomically at its home (R294). -/
  | engineCompletionUpdate
  /-- An MMA or MMASP finishes its summation tree, writes the tile, flags and monitor counts (R320). -/
  | matrixOpComplete
  /-- Within 64 cycles the doomed block stops, discards its attempt and is re-queued one rung higher (R352). -/
  | ladderAbort
  /-- A committing block, once its pages are present, performs its deferred writes, updates the Gazetteer and returns weight (R345). -/
  | ladderCommit
  /-- In a DET launch with all shadow-holding blocks stalled, the youngest is aborted and re-queued (R360). -/
  | shadowStallResolve
  /-- A traverse has performed its outputs and makes its single 128-byte arrival (R379). -/
  | traverseComplete
  /-- After the previous phase completes, a group's arrival is counted and the phase tested (R385). -/
  | barrierArrive
  /-- The awaited phase is reached and the waiting thread acquires (R387). -/
  | barwaitComplete
  /-- The counter reaches n; the thread acquires and reads the void bit (R391). -/
  | tkwaitComplete
  /-- A write performed at the line's home re-reads the word and may release the waiter (R398). -/
  | mwaitWake
  /-- A gradient line reaching EXPECT is resolved and its parameters updated once the pages are present (R405). -/
  | updateLineFire
  /-- A queued imprecise record is delivered at the thread's next boundary, DRAINST or EXIT (R444). -/
  | impreciseFaultDelivery
  /-- A load's response arrives and writes its destination, or parks or faults the thread (R209). -/
  | loadResponse
  /-- A pending store's check returns writable, not resident, denied or uncorrectable (R196). -/
  | storeCheckResponse
  /-- A line with dirty bytes within 256 ticks of lease expiry is written back (R195). -/
  | leaseWriteback
  /-- The owning slice accepts a write-back and the line's dirty bits clear (R195). -/
  | writebackAccept
  /-- A line's lease expires and it stops serving hits (R197). -/
  | leaseExpiry
  /-- A translation change completes after its longest lease and old accesses end (R244). -/
  | translationChangeComplete
  /-- A MOVING page finishes its copy and change and takes its new state (R261). -/
  | pageMoveComplete
  /-- A settled page's 10 ms expires and SETTLED clears (R266). -/
  | settledExpiry
  /-- Every 100,000 ticks each HBM controller logs its candidate list and clears its sketch (R265). -/
  | hotInterval
  /-- A scrub, eviction or write-back finds an uncorrectable error and marks the page FAILED (R31). -/
  | scrubUncorrectable
  /-- A parked block meets the swap conditions and swap-out begins (R272). -/
  | swapTrigger
  /-- The block's context is written, allotments reclaimed and the block enters the Caravan (R273). -/
  | swapout
  /-- The partition's dispatcher takes one decision among Caravan, re-queued and fresh candidates (R421). -/
  | dispatchDecision
  /-- A queue's head record is read and checked, and the launch becomes current or completes (R416). -/
  | launchAccept
  /-- A launch's weight has returned; its completion object is updated and COMPLETE logged (R417). -/
  | launchComplete
  /-- At each 10,000-tick boundary CUR moves to LAST and throttles lift (R425). -/
  | budgetPeriod
  /-- A queue's watchdog reaches its limit and drains the partition (R429). -/
  | wdogExpire
  /-- The chosen cores are empty and the pre-emption reports its status (R427). -/
  | preemptDone
  /-- Firmware advances the log read index, freeing entries and releasing held sources (R434). -/
  | logReadIndexWrite
  /-- A master writes a queue's TAIL, appending records or logging TAIL-ERROR (R419). -/
  | queueTailWrite
  /-- A write to a control register with no row of its own (R5). -/
  | registerWrite
  /-- Moves empty quads into a partition (R437). -/
  | partSet
  /-- Deletes an empty partition (R437). -/
  | partFree
  /-- Creates a queue in state HALTED (R437). -/
  | qCreate
  /-- Sets a queue's priority, weight, watchdog and flags (R437). -/
  | qConfig
  /-- Enables a queue (R437). -/
  | qEnable
  /-- Halts a queue's acceptance (R437). -/
  | qHalt
  /-- Destroys a halted idle queue (R437). -/
  | qDestroy
  /-- Sets a partition's budget limit (R437). -/
  | budgetSet
  /-- Returns a partition's budget counters (R437). -/
  | budgetRead
  /-- Sets park threshold, AGESTEP and Surveyor capacity (R437). -/
  | partParam
  /-- Closes cores of a partition and swaps their blocks out (R427). -/
  | preempt
  /-- Opens a partition's closed cores (R437). -/
  | reopen
  /-- Drains a partition with status DRAINED (R430). -/
  | drain
  /-- Restarts a queue's watchdog (R429). -/
  | kick
  /-- Delivers a new translation entry to every slice of a die (R259). -/
  | xlate
  /-- Starts moving a page's frame or ownership (R263). -/
  | migrate
  /-- Creates a communicator (R308). -/
  | commCreate
  /-- Frees a communicator (R437). -/
  | commFree
  /-- Invalidates a partition's Gazetteer entries (R437). -/
  | gazClear
  /-- Places the event log ring and copies the boot ring (R435). -/
  | evlogSet
  /-- Joins this device to a replica peer (R414). -/
  | replicaSet
  /-- Returns log indexes and the dropped-hint count (R437). -/
  | evlogStat
  /-- Sets DEV, pod size and the route table (R466). -/
  | podSet
  /-- Writes an access-table entry (R473). -/
  | aclSet
  /-- Moves the package to Active or Standby (R476). -/
  | pwrState
  /-- Sets the sustained power cap (R477). -/
  | pwrCap
  /-- Returns and optionally clears corrected-error counts (R478). -/
  | eccRead
  /-- Tests the cores of an empty partition (R479). -/
  | selftest
  /-- Authenticates and loads a firmware image (R474). -/
  | fwLoad
  /-- Writes a signed attestation report (R475). -/
  | attest
  /-- Sets a port's IPv6 address (R469). -/
  | netSet
  /-- At a step boundary the replica service compares digests and acts (R414). -/
  | replicaCompare
  /-- Enables or disables debug for a partition (R458). -/
  | dbgen
  /-- Sets or clears an address breakpoint (R458). -/
  | brk
  /-- Halts a group (R459). -/
  | halt
  /-- Halts every group of a block (R459). -/
  | haltb
  /-- Clears a halt (R458). -/
  | resume
  /-- Lets a halted group take one issue opportunity (R460). -/
  | step
  /-- Reads an item of a halted group (R458). -/
  | dbgRd
  /-- Writes an item of a halted group (R458). -/
  | dbgWr
  /-- A thread reaching a breakpoint address halts its group (R459). -/
  | addressBreakpointHalt
  /-- A host CXL.mem access is performed at the frames' home slices (R462). -/
  | hostCxlMemAccess
  /-- A host snoop is answered as a miss (R463). -/
  | hostSnoop
  /-- A host PCIe AtomicOp is completed by the device (R461). -/
  | hostAtomicop
  /-- A request from another device arrives over Horaris and is performed at its home (R242). -/
  | podRemoteAccess
  /-- A Horaris port fails and is dropped from every route (R467). -/
  | linkDown
  /-- After 100 µs without a port, requests to a device complete with faults (R467). -/
  | deviceUnreachable
  /-- A .net peer fails to acknowledge and the operation completes with an error (R470). -/
  | netAckTimeout
  /-- A CXL.io request wakes the package from Standby (R476). -/
  | standbyWake
  /-- Power-on and full reset bring the package to Active (R476). -/
  | powerOn
  /-- A failed Horaris port to a device returns, and requests to that device are accepted again (R467). -/
  | portReturn
  /-- The main rails go off and the package loses all held state, entering Off (R33). -/
  | powerOff
  /-- Power management lowers or raises a die's arithmetic clock by a 0.1 GHz step to keep within the power limits (R21). -/
  | arithmeticClockStep
  /-- A queue whose effective priority reaches 7 through ageing, with a candidate that fits no core, reserves the open core with the fewest resident groups (R423). -/
  | coreReservation
  /-- A Horaris flit that fails its CRC check is replayed at link level and counted for its port (R466). -/
  | flitReplay
  deriving DecidableEq, Repr

end Sys2Proof
end

