-- ==== Sys2Proof/Config.lean ====
section
/-! DEFINITION. What an implementation fixes and the spec leaves open: constants WITHOUT A BODY, so that no proof can
rest on a value of theirs. Each names the log entry (notes/assumptions) that explains it. -/

namespace Sys2Proof.Config

/-- The approximate one-operand functions of R170. -/
inductive Approx where
  | frcp | frsq | fex2 | flg2 | fsin | fcos | ftanh
  deriving DecidableEq, Repr

/-- R170: "a fixed function of the operand bits ... the same on every VX9-A4"; its values between the exact cases are not
stated (log 8). -/
opaque approx : Approx → Word → Word
/-- R170 for DRCP (log 8). -/
opaque approxDrcp : Dword → Dword
/-- A choice the spec leaves to the device (which event comes next, which way is evicted, which unit an engine moves):
the n-th choice, applied to State.freeCount and reduced modulo the number of alternatives (log 2); a number of replays (R359) as it
stands (log 10). -/
opaque pick : Nat → Nat
/-- R359: the value of bits 1:0 of the significand of the n-th product used by an over-scaled matrix unit (log 10). -/
opaque relaxedBits : Nat → BitVec 2
/-- R359: whether over-scaling is in effect for the n-th product (log 10). -/
opaque overScaled : Nat → Bool
/-- R474: the SHAKE256 digest of the vendor's public key that the boot ROM holds (log 22). -/
opaque romKeyDigest : List Byte
/-- R474: the 64-byte public key in a firmware image, behind a header whose length the spec does not print (log 22). -/
opaque imageKey : List Byte → List Byte
/-- R474: whether the SLH-DSA-SHAKE-256s signature of a firmware image verifies under the key in it (FIPS 205; log 22). -/
opaque signatureOk : List Byte → Bool
/-- R474: the security version number that the header of a firmware image holds, whose layout the spec does not print (log 22). -/
opaque imageVersion : List Byte → Nat
/-- R475: the SHAKE256 measurement of the partition, access-table and pod configuration, whose serialisation the spec does not print,
as a function of their numbers (log 22). -/
opaque configMeasurement : List Nat → List Byte
/-- R475: the signature bytes of a report under the device key fixed at manufacture (log 22). -/
opaque deviceSignature : List Byte → List Byte
/-- R475: the SHAKE256 measurement of the boot ROM, which the spec does not print (log 22). -/
opaque romMeasurement : List Byte
/-- R33, R474: the fuse count of the 64-step monotonic counter as manufacture left it (log 22). -/
opaque fuseCount : Fin 65

/-- R418: the byte offset in the control space of the TAIL word of queue n's descriptor, which the spec does not print (log 61). -/
opaque tailOffset (queue : Nat) : Nat

/-- R464: the command and the operands that the mailbox's argument words give under a code; the spec prints no layout of them, and some
may be no operands (log 62). -/
opaque commandArgs (code : Nat) (words : List (Nat × Word)) : Option (Instr × Subject)
/-- R477: the rail power of a die that the n-th report names, in W (log 66). -/
opaque railPower (die n : Nat) : Nat

/-- R384: LR.groups of a member's launch on another device, which this package cannot read (log 35). -/
opaque remoteGroups (dev launch : Nat) : Nat

/-- R403: the 64 KiB frame of a die's HBM where its slices spill images; the spec states no place (log 65). -/
opaque spillFrame (die : Nat) : Nat

/-- R265: which of its die's four HBM controllers serves a 64 KiB frame; the spec states no interleave (log 11). -/
opaque hbmStack : Nat → Nat

end Sys2Proof.Config
end

