-- ==== Sys2Proof/Machine/Bits.lean ====
section
/-! DEFINITION. Bit fields, byte order, lanes and small list updates (spec 00 R3, R4, R9, R10), used by every family. -/

namespace Sys2Proof.Machine

open Sys2Proof

/-- The n low bytes of x, lowest first (R3). -/
def bytesLE : Nat → Nat → List Byte
  | 0, _ => []
  | n + 1, x => BitVec.ofNat 8 x :: bytesLE n (x / 256)
/-- The value of bytes, lowest first (R3). -/
def ofBytes : List Byte → Nat
  | [] => 0
  | b :: r => b.toNat + 256 * ofBytes r

/-- Bits hi:lo of x (R4). -/
def field (x hi lo : Nat) : Nat := x / 2 ^ lo % 2 ^ (hi + 1 - lo)
def bit (x i : Nat) : Bool := x / 2 ^ i % 2 == 1
/-- Bits hi:lo of x replaced. -/
def setField (x hi lo v : Nat) : Nat := x - field x hi lo * 2 ^ lo + v % 2 ^ (hi + 1 - lo) * 2 ^ lo

/-- x read as a two's complement number of w bits (R8). -/
def signed (w x : Nat) : Int := if x < 2 ^ (w - 1) then (x : Int) else (x : Int) - 2 ^ w
/-- Sat(x, t) of R10 for a signed and an unsigned type of w bits. -/
def satI (w : Nat) (x : Int) : Int := max (-(2 ^ (w - 1) : Int)) (min x (2 ^ (w - 1) - 1))
def satN (w : Nat) (x : Int) : Int := max 0 (min x (2 ^ w - 1))

/-- Insertion into a list in the order that `before` gives. -/
def insertBy {α : Type} (before : α → α → Bool) (x : α) : List α → List α
  | [] => [x]
  | y :: r => if before x y then x :: y :: r else y :: insertBy before x r
/-- A list in that order; equals keep their places. -/
def sortBy {α : Type} (before : α → α → Bool) (l : List α) : List α := l.foldr (insertBy before) []

/-- Lanes(m) of R10. -/
def lanesOf (m : LaneSet) : List Nat := (List.range 64).filter fun l => m.getLsbD l
def laneBit (l : Nat) : LaneSet := BitVec.ofNat 64 (2 ^ l)
/-- The set of the lanes of a list. -/
def laneSet (l : List Nat) : LaneSet := l.foldl (fun m x => m ||| laneBit x) 0
/-- No lane of a is missing in b. -/
def laneSubset (a b : LaneSet) : Bool := a &&& ~~~b == 0

def popCount {w : Nat} (x : BitVec w) : Nat := (List.range w).countP fun i => x.getLsbD i
/-- Leading zeros of a word, 32 for 0 (R135). -/
def clz32 (x : Word) : Nat := ((List.range 32).takeWhile fun i => !x.getLsbD (31 - i)).length
def ctz32 (x : Word) : Nat := ((List.range 32).takeWhile fun i => !x.getLsbD i).length
def bitReverse (x : Word) : Word := (List.range 32).foldl (fun r i => if x.getLsbD i then r ||| BitVec.ofNat 32 (2 ^ (31 - i)) else r) 0

/-- The position of the highest 1 bit, plus one; 0 for 0. -/
def bitLen (x : Nat) : Nat := if x = 0 then 0 else x.log2 + 1

def nat32 (x : Nat) : Word := BitVec.ofNat 32 x
def lo32 (x : Dword) : Word := x.setWidth 32
def hi32 (x : Dword) : Word := (x >>> 32).setWidth 32
/-- Concat(h, l) of R10 for two words. -/
def concat (h l : Word) : Dword := h ++ l
def boolWord (b : Bool) : Word := if b then 1 else 0

/-- Replaces the entries that satisfy p, or appends x where none does. -/
def upsert {α : Type} (p : α → Bool) (x : α) (l : List α) : List α :=
  if l.any p then l.map fun y => if p y then x else y else l ++ [x]

/-- Reads a key of an association list. -/
def assoc {β : Type} (l : List (Nat × β)) (k : Nat) : Option β := (l.find? fun x => x.1 == k).map Prod.snd
def assocD {β : Type} (l : List (Nat × β)) (k : Nat) (d : β) : β := (assoc l k).getD d
def assocSet {β : Type} (l : List (Nat × β)) (k : Nat) (v : β) : List (Nat × β) := upsert (fun x => x.1 == k) (k, v) l

/-- ceil(a / b). -/
def ceilDiv (a b : Nat) : Nat := (a + b - 1) / b

end Sys2Proof.Machine
end

