-- ==== Sys2Proof/Machine/Float.lean ====
section
/-! DEFINITION. Floating-point formats, exact values, rounding and the functions of FP instructions (spec 05 R152-R176), on bit
patterns held as Nat and exact values held as integers scaled by powers of two. -/

namespace Sys2Proof.Machine

open Sys2Proof

/-- A format of R152: widths, whether it has infinities and IEEE NaNs, whether it is .e4m3, and its flush class of R162
(0 none, 1 the 32-bit class, 2 the 16-bit class). -/
structure Fmt where
  ebits : Nat
  fbits : Nat
  inf : Bool
  e4m3 : Bool
  cls : Nat
  deriving DecidableEq, Repr

def fmtF64 : Fmt := { ebits := 11, fbits := 52, inf := true, e4m3 := false, cls := 0 }
def fmtF32 : Fmt := { ebits := 8, fbits := 23, inf := true, e4m3 := false, cls := 1 }
def fmtF16 : Fmt := { ebits := 5, fbits := 10, inf := true, e4m3 := false, cls := 2 }
def fmtBf16 : Fmt := { ebits := 8, fbits := 7, inf := true, e4m3 := false, cls := 2 }
def fmtE4m3 : Fmt := { ebits := 4, fbits := 3, inf := false, e4m3 := true, cls := 0 }
def fmtE5m2 : Fmt := { ebits := 5, fbits := 2, inf := true, e4m3 := false, cls := 0 }
def fmtE2m1 : Fmt := { ebits := 2, fbits := 1, inf := false, e4m3 := false, cls := 0 }
def fmtE2m3 : Fmt := { ebits := 2, fbits := 3, inf := false, e4m3 := false, cls := 0 }
def fmtE3m2 : Fmt := { ebits := 3, fbits := 2, inf := false, e4m3 := false, cls := 0 }

def Fmt.bias (f : Fmt) : Nat := 2 ^ (f.ebits - 1) - 1
/-- The exponent of the smallest normal. -/
def Fmt.emin (f : Fmt) : Int := 1 - (f.bias : Int)
def Fmt.mag (f : Fmt) : Nat := f.ebits + f.fbits
def Fmt.infMag (f : Fmt) : Nat := (2 ^ f.ebits - 1) * 2 ^ f.fbits
/-- The magnitude bits of the largest finite value (R152). -/
def Fmt.maxMag (f : Fmt) : Nat :=
  if f.inf then f.infMag - 1 else if f.e4m3 then 2 ^ f.mag - 2 else 2 ^ f.mag - 1
/-- The canonical NaN (R163). -/
def Fmt.canonical (f : Fmt) : Nat := if f.e4m3 then 2 ^ f.mag - 1 else f.infMag + 2 ^ (f.fbits - 1)
def Fmt.withSign (f : Fmt) (neg : Bool) (mag : Nat) : Nat := (if neg then 2 ^ f.mag else 0) + mag
def Fmt.one (f : Fmt) : Nat := f.bias * 2 ^ f.fbits
def Fmt.isNeg (f : Fmt) (x : Nat) : Bool := bit x f.mag
def Fmt.isSubnormal (f : Fmt) (x : Nat) : Bool := field x (f.mag - 1) f.fbits == 0 && x % 2 ^ f.fbits != 0
def Fmt.isNaN (f : Fmt) (x : Nat) : Bool :=
  let m := x % 2 ^ f.mag
  if f.inf then decide (f.infMag < m) else f.e4m3 && m == 2 ^ f.mag - 1
/-- R153: the single NaN of .e4m3 counts as quiet. -/
def Fmt.isSignalling (f : Fmt) (x : Nat) : Bool := f.inf && f.isNaN x && !bit x (f.fbits - 1)
def Fmt.isInf (f : Fmt) (x : Nat) : Bool := f.inf && x % 2 ^ f.mag == f.infMag
def Fmt.isZero (f : Fmt) (x : Nat) : Bool := x % 2 ^ f.mag == 0

/-- The flags of R160. -/
abbrev Flags := BitVec 6
def fIV : Flags := 0x01
def fDZ : Flags := 0x02
def fOF : Flags := 0x04
def fUF : Flags := 0x08
def fIX : Flags := 0x10
def fDN : Flags := 0x20

/-- A value with its NaN fraction (frac of fb bits) kept for R163. A finite value is m * 2^e with its sign. -/
inductive FVal where
  | nan (neg quiet : Bool) (frac fb : Nat)
  | inf (neg : Bool)
  | fin (neg : Bool) (m : Nat) (e : Int)
  deriving DecidableEq, Repr

def FVal.isNaN : FVal → Bool
  | .nan .. => true
  | _ => false
def FVal.isSignalling : FVal → Bool
  | .nan _ q _ _ => !q
  | _ => false
def FVal.isInf : FVal → Bool
  | .inf _ => true
  | _ => false
def FVal.isZero : FVal → Bool
  | .fin _ m _ => m == 0
  | _ => false
def FVal.neg : FVal → Bool
  | .nan n _ _ _ => n
  | .inf n => n
  | .fin n _ _ => n
def FVal.setNeg (v : FVal) (n : Bool) : FVal :=
  match v with
  | .nan _ q f b => .nan n q f b
  | .inf _ => .inf n
  | .fin _ m e => .fin n m e

/-- R153: the value of bits x in format f. -/
def Fmt.value (f : Fmt) (x : Nat) : FVal :=
  let neg := f.isNeg x
  let fr := x % 2 ^ f.fbits
  let ex := field x (f.mag - 1) f.fbits
  if f.isNaN x then .nan neg (!f.isSignalling x) fr f.fbits
  else if f.isInf x then .inf neg
  else if ex == 0 then .fin neg fr (f.emin - f.fbits)
  else .fin neg (2 ^ f.fbits + fr) ((ex : Int) - f.bias - f.fbits)

/-- An exact real (R9): m * 2^e, or with `sticky` a real strictly between m * 2^e and (m + 1) * 2^e, where m is then large
enough that no format can tell more. -/
structure Exact where
  neg : Bool
  m : Nat
  e : Int
  sticky : Bool
  deriving DecidableEq, Repr

/-- The rounding modes of R10, coded as in R159. -/
inductive RMode where
  | rne | rtz | rup | rdn | rna
  deriving DecidableEq, Repr
def RMode.ofCode (c : Nat) : RMode :=
  match c with
  | 2 => .rtz
  | 3 => .rup
  | 4 => .rdn
  | 5 => .rna
  | _ => .rne

/-- m * 2^-k rounded to an integer (R157), and whether that is inexact. -/
def roundShift (mode : RMode) (neg : Bool) (m : Nat) (k : Int) (sticky : Bool) : Nat × Bool :=
  if k ≤ 0 then (m <<< (-k).toNat, sticky)
  else if (bitLen m : Int) + 1 < k then
    -- below a quarter of the last place
    let inexact := m != 0 || sticky
    let up := match mode with | .rup => !neg && inexact | .rdn => neg && inexact | _ => false
    (if up then 1 else 0, inexact)
  else
    let n := k.toNat
    let i := m >>> n
    let r := m % 2 ^ n
    let half := 2 ^ (n - 1)
    let inexact := r != 0 || sticky
    let up := match mode with
      | .rtz => false
      | .rup => !neg && inexact
      | .rdn => neg && inexact
      | .rne => decide (half < r) || (r == half && (sticky || i % 2 == 1))
      | .rna => decide (half ≤ r)
    (if up then i + 1 else i, inexact)

/-- Round(x, fmt, mode) of R157 with the flags of R158; `satE` is SAT into .e4m3 (R179). -/
def roundTo (f : Fmt) (mode : RMode) (satE : Bool) (x : Exact) : Nat × Flags :=
  if x.m == 0 && !x.sticky then (f.withSign x.neg 0, 0)
  else
    let top : Int := x.e + (bitLen x.m : Int) - 1
    let qU := top - f.fbits
    let qB := max top f.emin - f.fbits
    let iU := (roundShift mode x.neg x.m (qU - x.e) x.sticky).1
    let rB := roundShift mode x.neg x.m (qB - x.e) x.sticky
    let enc := ((qB - (f.emin - f.fbits)).toNat) * 2 ^ f.fbits + rB.1
    if f.maxMag < enc then
      let toInf := match mode with
        | .rtz => false
        | .rup => !x.neg
        | .rdn => x.neg
        | _ => true
      let mag :=
        if f.inf then (if toInf then f.infMag else f.maxMag)
        else if f.e4m3 && !satE then f.canonical
        else f.maxMag
      (f.withSign x.neg mag, fOF ||| fIX)
    else
      let tiny := decide (top < f.emin) && !(top == f.emin - 1 && iU == 2 ^ (f.fbits + 1))
      (f.withSign x.neg enc, if rB.2 then (if tiny then fUF ||| fIX else fIX) else 0)

/-! ## The environment -/

/-- What R164 reads of FPENV and the modifier word. -/
structure FpEnv where
  mode : RMode
  fz32i : Bool
  fz32o : Bool
  fz16i : Bool
  fz16o : Bool
  dnan : Bool
  te : Flags
  clamp : Bool
  sat : Bool
  scale : Int
  deriving DecidableEq, Repr

def FpEnv.flushIn (e : FpEnv) (f : Fmt) : Bool := if f.cls == 1 then e.fz32i else if f.cls == 2 then e.fz16i else false
def FpEnv.flushOut (e : FpEnv) (f : Fmt) : Bool := if f.cls == 1 then e.fz32o else if f.cls == 2 then e.fz16o else false

/-- An operand of R164: DN, input flush, ABS and NEG. -/
def fpOperand (f : Fmt) (env : FpEnv) (abs neg : Bool) (x : Nat) : FVal × Flags :=
  let sub := f.isSubnormal x
  let v := if sub && env.flushIn f then FVal.fin (f.isNeg x) 0 0 else f.value x
  let v := if abs then v.setNeg false else v
  (if neg then v.setNeg (!v.neg) else v, if sub then fDN else 0)

/-- R163 step 3: a NaN operand in the destination format, quieted; a wider format takes the fraction at its top (log 79). -/
def nanInto (f : Fmt) : FVal → Nat
  | .nan neg _ frac fb =>
    if f.e4m3 then f.withSign neg f.canonical
    else
      let fr := if fb ≤ f.fbits then frac <<< (f.fbits - fb) else frac >>> (fb - f.fbits)
      let top := 2 ^ (f.fbits - 1)
      f.withSign neg (f.infMag + (if fr / top % 2 == 1 then fr else fr + top))
  | _ => f.canonical

/-- R163 for operands of which some is NaN. -/
def nanResult (f : Fmt) (env : FpEnv) (ops : List FVal) : Nat :=
  if env.dnan then f.canonical
  else match ops.find? FVal.isSignalling with
    | some v => nanInto f v
    | none => match ops.find? FVal.isNaN with
      | some v => nanInto f v
      | none => f.canonical

/-- What a function answers for operands of which none is NaN. -/
inductive FpRes where
  | invalid
  | divZero (neg : Bool)
  | inf (neg : Bool)
  | zero (neg : Bool)
  | real (x : Exact)
  /-- a result given as bits with its flags (R170) -/
  | bits (x : Nat) (fl : Flags)
  deriving DecidableEq, Repr

structure FpOut where
  bits : Nat
  flags : Flags
  deriving DecidableEq, Repr

/-- The tail of R164: CLAMP, SAT, output flush. -/
def fpTail (f : Fmt) (env : FpEnv) (r : Nat) (fl : Flags) : FpOut :=
  let r :=
    if env.clamp then
      if f.isNaN r || f.isNeg r then 0 else if f.one < r then f.one else r
    else if env.sat && f.isInf r then f.withSign (f.isNeg r) f.maxMag
    else r
  if env.flushOut f && f.isSubnormal r then { bits := f.withSign (f.isNeg r) 0, flags := fl ||| (fUF ||| fIX) }
  else { bits := r, flags := fl }

/-- R164 after the operands are read: `ops` are the values in the order A, B, C, `fl` the flags so far, `inv` an invalid case
that holds beside a NaN operand (R163, FFMA), `r` the function's answer where none is NaN. -/
def fpFinish (f : Fmt) (env : FpEnv) (ops : List FVal) (fl : Flags) (inv : Bool) (r : FpRes) : FpOut :=
  if ops.any FVal.isNaN then
    fpTail f env (nanResult f env ops) (if ops.any FVal.isSignalling || inv then fl ||| fIV else fl)
  else match r with
    | .invalid => fpTail f env f.canonical (fl ||| fIV)
    | .divZero neg => fpTail f env (f.withSign neg f.infMag) (fl ||| fDZ)
    | .inf neg => fpTail f env (if f.inf then f.withSign neg f.infMag else if env.sat then f.withSign neg f.maxMag else f.withSign neg f.canonical) fl
    | .zero neg => fpTail f env (f.withSign neg 0) fl
    | .real x => let y := roundTo f env.mode env.sat { x with e := x.e + env.scale }; fpTail f env y.1 (fl ||| y.2)
    | .bits x g => fpTail f env x (fl ||| g)

/-! ## Exact functions -/

/-- The exact sum of two finite values, with the sign of an exact zero (R157). -/
def exactAdd (mode : RMode) (n1 : Bool) (m1 : Nat) (e1 : Int) (n2 : Bool) (m2 : Nat) (e2 : Int) : FpRes :=
  let e := min e1 e2
  let x : Int := ((m1 <<< (e1 - e).toNat : Nat) : Int)
  let y : Int := ((m2 <<< (e2 - e).toNat : Nat) : Int)
  let s := (if n1 then -x else x) + (if n2 then -y else y)
  if s == 0 then .zero (if n1 == n2 then n1 else mode == .rdn)
  else .real { neg := decide (s < 0), m := s.natAbs, e := e, sticky := false }

def fnAdd (mode : RMode) (a b : FVal) : FpRes :=
  match a, b with
  | .inf x, .inf y => if x == y then .inf x else .invalid
  | .inf x, _ => .inf x
  | _, .inf y => .inf y
  | .fin n1 m1 e1, .fin n2 m2 e2 => exactAdd mode n1 m1 e1 n2 m2 e2
  | _, _ => .invalid

def fnMul (a b : FVal) : FpRes :=
  let s := a.neg != b.neg
  match a, b with
  | .inf _, v => if v.isZero then .invalid else .inf s
  | v, .inf _ => if v.isZero then .invalid else .inf s
  | .fin _ m1 e1, .fin _ m2 e2 => if m1 * m2 == 0 then .zero s else .real { neg := s, m := m1 * m2, e := e1 + e2, sticky := false }
  | _, _ => .invalid

/-- a * b is 0 * inf (R163, R167). -/
def zeroTimesInf (a b : FVal) : Bool := (a.isZero && b.isInf) || (a.isInf && b.isZero)

def fnFma (mode : RMode) (a b c : FVal) : FpRes :=
  let s := a.neg != b.neg
  if zeroTimesInf a b then .invalid
  else if a.isInf || b.isInf then
    match c with
    | .inf n => if n == s then .inf s else .invalid
    | _ => .inf s
  else match a, b, c with
    | _, _, .inf n => .inf n
    | .fin _ m1 e1, .fin _ m2 e2, .fin n3 m3 e3 => exactAdd mode s (m1 * m2) (e1 + e2) n3 m3 e3
    | _, _, _ => .invalid

/-- A quotient with at least 70 bits (R9: exact up to what any format can tell). -/
def exactDiv (neg : Bool) (m1 : Nat) (e1 : Int) (m2 : Nat) (e2 : Int) : Exact :=
  let k := 70 + bitLen m2 - bitLen m1
  let n := m1 <<< k
  { neg := neg, m := n / m2, e := e1 - e2 - k, sticky := n % m2 != 0 }

def fnDiv (a b : FVal) : FpRes :=
  let s := a.neg != b.neg
  match a, b with
  | .inf _, .inf _ => .invalid
  | .inf _, _ => .inf s
  | _, .inf _ => .zero s
  | .fin _ m1 e1, .fin _ m2 e2 =>
    if m2 == 0 then (if m1 == 0 then .invalid else .divZero s)
    else if m1 == 0 then .zero s
    else .real (exactDiv s m1 e1 m2 e2)
  | _, _ => .invalid

/-- The integer square root, bit by bit from bit n - 1. -/
def isqrt (n x : Nat) : Nat :=
  match n with
  | 0 => 0
  | k + 1 =>
    -- the root of x with its low bit decided last
    let r := 2 * isqrt k (x / 4)
    if (r + 1) * (r + 1) ≤ x then r + 1 else r

def fnSqrt (b : FVal) : FpRes :=
  match b with
  | .inf n => if n then .invalid else .inf false
  | .fin n m e =>
    if m == 0 then .zero n
    else if n then .invalid
    else
      let k := 140 - bitLen m
      let k := if (e - k) % 2 == 0 then k else k + 1
      let x := m <<< k
      let r := isqrt 72 x
      .real { neg := false, m := r, e := (e - k) / 2, sticky := r * r != x }
  | _ => .invalid

/-! ## Comparison, minimum, maximum (R168, R173) -/

/-- The order of two values that are not NaN, -0 below +0 only where `zeros` says so. -/
def fvalLt (zeros : Bool) (a b : FVal) : Bool :=
  match a, b with
  | .inf x, .inf y => x && !y
  | .inf x, _ => x
  | _, .inf y => !y
  | .fin n1 m1 e1, .fin n2 m2 e2 =>
    if m1 == 0 && m2 == 0 then zeros && n1 && !n2
    else
      let e := min e1 e2
      let x : Int := ((m1 <<< (e1 - e).toNat : Nat) : Int)
      let y : Int := ((m2 <<< (e2 - e).toNat : Nat) : Int)
      decide ((if n1 then -x else x) < (if n2 then -y else y))
  | _, _ => false

/-- A value that is an operand written back to its format: exact. -/
def valueBits (f : Fmt) (v : FVal) : Nat :=
  match v with
  | .nan .. => nanInto f v
  | .inf n => f.withSign n f.infMag
  | .fin n m e => if m == 0 then f.withSign n 0 else (roundTo f .rne false { neg := n, m := m, e := e, sticky := false }).1

/-- R168: minimumNumber and maximumNumber; nothing is rounded or flushed. -/
def fpMinMax (f : Fmt) (env : FpEnv) (isMax : Bool) (a b : FVal) (fl : Flags) : FpOut :=
  let fl := if a.isSignalling || b.isSignalling then fl ||| fIV else fl
  if a.isNaN && b.isNaN then { bits := nanResult f env [a, b], flags := fl }
  else if a.isNaN then { bits := valueBits f b, flags := fl }
  else if b.isNaN then { bits := valueBits f a, flags := fl }
  else
    let takeB := if isMax then fvalLt true a b else fvalLt true b a
    { bits := valueBits f (if takeB then b else a), flags := fl }

/-- R173: the relation of a comparison code, and its flags. -/
def fpCompare (code : Nat) (a b : FVal) (fl : Flags) : Bool × Flags :=
  let un := a.isNaN || b.isNaN
  let lt := !un && fvalLt false a b
  let gt := !un && fvalLt false b a
  let eq := !un && !lt && !gt
  let r := match code with
    | 0 => eq
    | 1 => !eq
    | 2 => lt
    | 3 => lt || eq
    | 4 => gt
    | 5 => gt || eq
    | 6 => un || lt
    | 7 => un || lt || eq
    | 8 => un || gt
    | 9 => un || gt || eq
    | 10 => !un
    | _ => un
  let iv := a.isSignalling || b.isSignalling || (un && 2 ≤ code && code ≤ 5)
  (r, if iv then fl ||| fIV else fl)

/-! ## One-operand functions (R169-R172, R176) -/

/-- R171. -/
def fpRint (f : Fmt) (env : FpEnv) (b : FVal) (fl : Flags) : FpOut :=
  match b with
  | .nan .. => { bits := nanResult f env [b], flags := if b.isSignalling then fl ||| fIV else fl }
  | .inf n => { bits := f.withSign n f.infMag, flags := fl }
  | .fin n m e =>
    let r := roundShift env.mode n m (-e) false
    if 0 ≤ e then { bits := valueBits f b, flags := fl }
    else { bits := valueBits f (.fin n r.1 0), flags := if r.2 then fl ||| fIX else fl }

/-- R172: the class mask of raw bits. -/
def fpClass (f : Fmt) (x : Nat) : Nat :=
  let neg := f.isNeg x
  if f.isNaN x then (if f.isSignalling x then 0x001 else 0x002)
  else if f.isInf x then (if neg then 0x004 else 0x200)
  else if f.isZero x then (if neg then 0x020 else 0x040)
  else if f.isSubnormal x then (if neg then 0x010 else 0x080)
  else (if neg then 0x008 else 0x100)

/-- The exponent n of a finite value ±2^n, if it is one. -/
def powerOfTwo (m : Nat) (e : Int) : Option Int :=
  if m != 0 && m == 2 ^ (bitLen m - 1) then some (e + (bitLen m : Int) - 1) else none

/-- An integer as bits of format f, exact in its range of use. -/
def intBits (f : Fmt) (x : Int) : Nat :=
  if x == 0 then 0 else (roundTo f .rne false { neg := decide (x < 0), m := x.natAbs, e := 0, sticky := false }).1
/-- 2^n as bits of format f. -/
def powBits (f : Fmt) (n : Int) : Nat := (roundTo f .rne false { neg := false, m := 1, e := n, sticky := false }).1

/-- R176: the fraction's bits and the exponent. -/
def fpFrexp (env : FpEnv) (a : FVal) (fl : Flags) : Nat × Int × Flags :=
  match a with
  | .nan .. => (nanResult fmtF32 env [a], 0, if a.isSignalling then fl ||| fIV else fl)
  | .inf n => (fmtF32.withSign n fmtF32.infMag, 0, fl)
  | .fin n m e =>
    if m == 0 then (fmtF32.withSign n 0, 0, fl)
    else
      let k := (bitLen m : Int)
      (valueBits fmtF32 (.fin n m (-k)), e + k, fl)

end Sys2Proof.Machine
end

