-- ==== Sys2Proof/Machine/Approx.lean ====
section
/-! DEFINITION. The approximate functions of R170. Their exact results, special values, flags and error bounds are the spec's; the value
within the bound is Config's free value, which a result outside the bound gives up for the true result rounded (log 8). -/

namespace Sys2Proof.Machine

open Sys2Proof

/-! ## True results and the bounds -/

/-- The number fst * 2^snd. -/
abbrev Dyad := Int × Int
/-- v lies within d of y. -/
def dyadNear (v y d : Dyad) : Bool :=
  let k := min v.2 (min y.2 d.2)
  let scaled (x : Dyad) : Int := x.1 * 2 ^ (x.2 - k).toNat
  decide ((scaled v - scaled y).natAbs ≤ (scaled d).natAbs)
/-- The exponent of y. -/
def dyadTop (y : Dyad) : Int := y.2 + (bitLen y.1.natAbs : Int) - 1
/-- n ulp of R170 at the true result y. -/
def ulpBound (f : Fmt) (n : Nat) (y : Dyad) : Dyad := (n, max (dyadTop y) f.emin - f.fbits)
/-- An absolute bound 2^-n. -/
def absBound (n : Nat) : Dyad := (1, -(n : Int))
def dyadMul (a b : Dyad) : Dyad := (a.1 * b.1, a.2 + b.2)
def dyadAdd (a b : Dyad) : Dyad :=
  let k := min a.2 b.2
  (a.1 * 2 ^ (a.2 - k).toNat + b.1 * 2 ^ (b.2 - k).toNat, k)
def dyadNeg (a : Dyad) : Dyad := (-a.1, a.2)
def dyadLe (a b : Dyad) : Bool := decide (0 ≤ (dyadAdd b (dyadNeg a)).1)
/-- The free value x where it passes the test of R170's error bound; else the true result y rounded. -/
def keepBound (f : Fmt) (y : Dyad) (within : Dyad → Bool) (x : Nat) : Nat :=
  match f.value x with
  | .fin n m e => if within (if n then -(m : Int) else m, e) then x
    else (roundTo f .rne false { neg := decide (y.1 < 0), m := y.1.natAbs, e := y.2, sticky := false }).1
  | _ => (roundTo f .rne false { neg := decide (y.1 < 0), m := y.1.natAbs, e := y.2, sticky := false }).1
/-- v lies within d of 1/b: both sides times b. -/
def nearRecip (b d v : Dyad) : Bool := dyadNear (dyadMul v b) (1, 0) (dyadMul d b)
/-- v lies within d of 1/sqrt b: the two ends of the interval, squared. -/
def nearRsqrt (b d v : Dyad) : Bool :=
  let lo := dyadAdd v (dyadNeg d)
  let hi := dyadAdd v d
  (decide (lo.1 ≤ 0) || dyadLe (dyadMul (dyadMul lo lo) b) (1, 0)) && decide (0 < hi.1) && dyadLe (1, 0) (dyadMul (dyadMul hi hi) b)
/-- v lies within d of the true result that y holds to some 90 places, less one part in 2^32 for what y leaves out (log 8). -/
def nearTrue (y d v : Dyad) : Bool := dyadNear v y (d.1 * (2 ^ 32 - 1), d.2 - 32)

/-- 2^x for a fraction x, both in units of 2^-100, by its series. -/
def exp2Frac (x : Nat) : Nat :=
  let z := x * 0xb17217f7d1cf79abc9e3b3980 / 2 ^ 100
  ((List.range 30).foldl (fun (acc : Nat × Nat) k => let t := acc.2 * z / 2 ^ 100 / (k + 1); (acc.1 + t, t)) (2 ^ 100, 2 ^ 100)).1
/-- 2^x for x in units of 2^-100. -/
def exp2Fix (x : Int) : Dyad := (exp2Frac (x.emod (2 ^ 100)).toNat, x / 2 ^ 100 - 100)
/-- n bits of log2 (x / 2^120), for x from 2^120 to below 2^121: each squaring gives one. -/
def log2Frac (n x : Nat) : Nat :=
  match n with
  | 0 => 0
  | n + 1 =>
    let y := x * x / 2 ^ 120
    if y < 2 ^ 121 then log2Frac n y else 2 ^ n + log2Frac n (y / 2)
/-- The terms z^k/k!, k = from, from + 1, ... in units of 2^-100. -/
def powerTerms (n from_ : Nat) (z t : Nat) : List Nat :=
  match n with
  | 0 => []
  | n + 1 => t :: powerTerms n (from_ + 1) z (t * z / 2 ^ 100 / (from_ + 1))
/-- Sine (first 1) or cosine (first 0) of an angle in units of 2^-100 below 2 pi: every other term, with changing signs. -/
def sineSum (first z : Nat) : Int :=
  ((powerTerms 80 0 z (2 ^ 100)).zipIdx.filter fun x => x.2 % 2 == first).foldl (fun s x =>
    if x.2 / 2 % 2 == 0 then s + x.1 else s - x.1) 0
/-- m * 2^e modulo 2 pi, in units of 2^-100. -/
def reduceAngle (m : Nat) (e : Int) : Nat :=
  (m <<< (e + 320).toNat) % 0x6487ed5110b4611a62633145c06e0e68948127044533e63a0105df531d89cd9128a5043cc71a026ef / 2 ^ 220

/-- 1/b. -/
def trueRecip (n : Bool) (m : Nat) (e : Int) : Dyad :=
  let x := exactDiv n 1 0 m e
  (if n then -(x.m : Int) else x.m, x.e)
/-- 1/sqrt b. -/
def trueRsqrt (m : Nat) (e : Int) : Dyad :=
  let t := (e + 160) / 2
  (isqrt 81 (2 ^ (2 * t - e).toNat / m), -t)
/-- 2^b, b rounded down to 2^-100, so that the true result keeps its exponent; beyond every format's range the exponent alone says so. -/
def trueExp2 (n : Bool) (m : Nat) (e : Int) : Dyad :=
  let k := e + 100
  let x : Int := if n then -(m : Int) else m
  exp2Fix (max (-400 * 2 ^ 100) (min (400 * 2 ^ 100) (if k < 0 then x >>> (-k).toNat else x * 2 ^ (min k 160).toNat)))
/-- log2 b. -/
def trueLog2 (m : Nat) (e : Int) : Dyad :=
  let p := bitLen m - 1
  ((e + p) * 2 ^ 60 + log2Frac 60 (m <<< (120 - p)), -60)
def trueSin (n : Bool) (m : Nat) (e : Int) : Dyad :=
  let y := sineSum 1 (reduceAngle m e)
  (if n then -y else y, -100)
def trueCos (m : Nat) (e : Int) : Dyad := (sineSum 0 (reduceAngle m e), -100)
/-- tanh b, by 2^(-2b log2 e); beyond 32 it is 1 to 90 places. -/
def trueTanh (n : Bool) (m : Nat) (e : Int) : Dyad :=
  let z := min (32 * 2 ^ 100) (m <<< (min (e + 150) 300).toNat / 2 ^ 50)
  let q := exp2Fix (-((2 * z * 0x171547652b82fe1777d0ffda0d / 2 ^ 100 : Nat) : Int))
  let u : Nat := q.1.toNat / 2 ^ (-(q.2 + 100)).toNat
  let y : Int := ((2 ^ 100 - u) * 2 ^ 100 / (2 ^ 100 + u) : Nat)
  (if n then -y else y, -100)

/-! ## The functions -/

/-- Reciprocal (R170) of a finite value in a format whose free value is `ap`. -/
def fnRecip (f : Fmt) (ap : Nat → Nat) (b : FVal) : FpRes :=
  match b with
  | .inf n => .zero n
  | .fin n m e =>
    if m == 0 then .divZero n
    else match powerOfTwo m e with
      | some k =>
        if f.emin ≤ -k && -k ≤ (f.bias : Int) then .bits (f.withSign n (powBits f (-k))) 0
        else recipApprox n m e
      | none => recipApprox n m e
  | _ => .invalid
where
  /-- IX, with OF or UF where the true result overflows or is tiny (R170). -/
  recipApprox (n : Bool) (m : Nat) (e : Int) : FpRes :=
    let x := exactDiv n 1 0 m e
    let big := roundTo f .rtz false x
    let ovf := big.1 % 2 ^ f.mag == f.maxMag && big.2 != 0
    let top : Int := x.e + (bitLen x.m : Int) - 1
    let y := trueRecip n m e
    .bits (keepBound f y (nearRecip (if n then -(m : Int) else m, e) (ulpBound f 1 y)) (ap (valueBits f (.fin n m e))))
      (fIX ||| (if ovf then fOF else 0) ||| (if top < f.emin then fUF else 0))

/-- R170 for the FP32 functions (logs 8 and 14). -/
def fnApprox (k : Config.Approx) (b : FVal) : FpRes :=
  let free : Nat := (Config.approx k (nat32 (valueBits fmtF32 b))).toNat
  let near (y d : Dyad) : Nat := keepBound fmtF32 y (nearTrue y d) free
  let ulps (y : Dyad) : Nat := near y (ulpBound fmtF32 2 y)
  let root (m : Nat) (e : Int) : Nat :=
    let y := trueRsqrt m e
    keepBound fmtF32 y (nearRsqrt (m, e) (ulpBound fmtF32 2 y)) free
  match k, b with
  | _, .nan .. => .invalid
  | .frcp, b => fnRecip fmtF32 (fun x => (Config.approx k (nat32 x)).toNat) b
  | .frsq, .inf n => if n then .invalid else .zero false
  | .frsq, .fin n m e =>
    if m == 0 then .divZero n
    else if n then .invalid
    else match powerOfTwo m e with
      | some p => if p % 2 == 0 then .bits (powBits fmtF32 (-(p / 2))) 0 else .bits (root m e) fIX
      | none => .bits (root m e) fIX
  | .fex2, .inf n => if n then .zero false else .inf false
  | .fex2, .fin n m e =>
    if m == 0 then .bits fmtF32.one 0
    else
      -- whether b is an integer, and its floor
      let fl := roundShift .rdn n m (-e) false
      let i : Int := if n then -(fl.1 : Int) else fl.1
      if !fl.2 then
        if 128 ≤ i then .bits fmtF32.infMag (fOF ||| fIX)
        else if i ≤ -150 then .bits 0 (fUF ||| fIX)
        else .bits (powBits fmtF32 i) (if i < -126 then fUF else 0)
      else .bits (ulps (trueExp2 n m e)) (fIX ||| (if 128 ≤ i then fOF else 0) ||| (if i < -126 then fUF else 0))
  | .flg2, .inf n => if n then .invalid else .inf false
  | .flg2, .fin n m e =>
    if m == 0 then .divZero true
    else if n then .invalid
    else match powerOfTwo m e with
      | some p => .bits (intBits fmtF32 p) 0
      | none =>
        let y := trueLog2 m e
        let top := e + (bitLen m : Int) - 1
        .bits (if top == -1 || top == 0 then near y (absBound 22) else ulps y) fIX
  | .fsin, .inf _ => .invalid
  | .fsin, .fin n m e => if m == 0 then .zero n else tinyToo (near (trueSin n m e) (absBound 21)) m e
  | .fcos, .inf _ => .invalid
  | .fcos, .fin _ m e => if m == 0 then .bits fmtF32.one 0 else .bits (near (trueCos m e) (absBound 21)) fIX
  | .ftanh, .inf n => .bits (fmtF32.withSign n fmtF32.one) 0
  -- 2 ulp are at most 2^-22 below 1, so that the larger bound is the absolute one
  | .ftanh, .fin n m e => if m == 0 then .zero n else tinyToo (near (trueTanh n m e) (absBound 22)) m e
where
  /-- FSIN and FTANH: the true result is tiny exactly for a subnormal operand (log 8). -/
  tinyToo (x m : Nat) (e : Int) : FpRes :=
    .bits x (fIX ||| (if e + (bitLen m : Int) - 1 < fmtF32.emin then fUF else 0))

end Sys2Proof.Machine
end

