-- ==== Sys2Proof/WellFormed.lean ====
section
/-! DEFINITION. FieldsValid of R55: which field values an instruction's entry accepts (R44, R45, R48, R49, R51-R54). The
extension class of R46 is checked here too: a class-M instruction has its modifier word, a class-m one may have it. -/

namespace Sys2Proof

/-- Which fields of the modifier word an entry accepts (R48, R133, R166). -/
structure Accept where
  guard : Bool := true
  /-- operands that take NEG and ABS: bit 0 A, bit 1 B, bit 2 C (R47) -/
  na : BitVec 3 := 0
  sat : Bool := false
  clamp : Bool := false
  scale : Bool := false
  rnd : Bool := false
  c : BitVec 8 → Bool := fun c => c == 0

/-- R48: every field the entry does not accept is at its default, and RND is none of 6 and 7. -/
def Mods.ok (acc : Accept) (m : Mods) : Bool :=
  (acc.guard || (m.guard == 7 && !m.gneg)) && (m.neg &&& ~~~acc.na) == 0 && (m.abs &&& ~~~acc.na) == 0
    && (acc.sat || !m.sat) && (acc.clamp || !m.clamp) && (acc.scale || m.scale == 0)
    && (acc.rnd || m.rnd == 0) && decide (m.rnd.toNat < 6) && acc.c m.c

/-- Class m (R46): the modifier word may be absent. -/
def clsm (acc : Accept) : Option Mods → Bool
  | none => true
  | some m => m.ok acc
/-- Class M (R46): the modifier word must be present. -/
def clsM (acc : Accept) : Option Mods → Bool
  | none => false
  | some m => m.ok acc

/-- The C field where an absent modifier word reads as zero (R47). -/
def cOf (m : Option Mods) : BitVec 8 := (m.getD Mods.default).c

def evenReg (r : RegNum) : Bool := r.toNat % 2 == 0
def quadReg (r : RegNum) : Bool := r.toNat % 4 == 0
def octReg (r : RegNum) : Bool := r.toNat % 8 == 0
/-- A mask number k0-k11 in bits 3:0 of a field (R57, R105). -/
def maskReg (r : RegNum) : Bool := r.toNat < 12
/-- A predicate in bits 2:0, the rest RZ (R44). -/
def predReg (r : RegNum) : Bool := r.toNat < 8
def anyC (_ : BitVec 8) : Bool := true
/-- B and BK reserved. -/
def OpR.noB (o : OpR) : Bool := o.b == 0 && !o.bk
/-- A, B and BK reserved. -/
def OpR.noAB (o : OpR) : Bool := o.a == 0 && o.noB

def gOnly : Accept := {}
def noMods : Accept := { guard := false }
def gSat : Accept := { sat := true }
def gC (c : BitVec 8 → Bool) : Accept := { c := c }
/-- R166, rounded operations with operands `na`. -/
def fpRounded (na : BitVec 3) (c : BitVec 8 → Bool := fun c => c == 0) : Accept :=
  { na := na, sat := true, clamp := true, scale := true, rnd := true, c := c }
def fpNA (na : BitVec 3) (c : BitVec 8 → Bool := fun c => c == 0) : Accept := { na := na, c := c }

/-- The numbers of R128's table, and which of them are 64 bits wide. -/
def sysRegs : List Nat :=
  [0x00, 0x01, 0x02, 0x03, 0x04, 0x05, 0x06, 0x07, 0x08, 0x09, 0x0A, 0x10, 0x11, 0x18, 0x19, 0x1A, 0x20, 0x21, 0x22, 0x23,
   0x28, 0x29, 0x30, 0x31]
def sysRegs64 : List Nat := [0x11, 0x28, 0x29]
/-- R128: the registers SWR may name. -/
def sysRegsRW : List Nat := [0x18, 0x19]

/-- R51: a type code CVT accepts. -/
def cvtType (t : BitVec 4) : Bool := t.toNat ≤ 0xD
/-- R51: the 64-bit type codes .n64, .i64 and .f64. -/
def type64 (t : BitVec 4) : Bool := t == 0x3 || t == 0x7 || t == 0x8
/-- R51: the integer type codes. -/
def typeInt (t : BitVec 4) : Bool := t.toNat < 8
/-- A register that names a value of type t: even when the type is 64 bits wide (R45). -/
def regOfType (t : BitVec 4) (r : RegNum) : Bool := !type64 t || evenReg r
/-- R179: SCALE with both types integer raises ILLEGAL. -/
def scaleOk (dt st : BitVec 4) (m : Option Mods) : Bool :=
  !(typeInt dt && typeInt st) || (m.getD Mods.default).scale == 0
/-- R181: the destination types of PACK. -/
def packType (t : BitVec 4) : Bool := t == 0x0 || t == 0x1 || t == 0x4 || t == 0x5 || (0xA ≤ t.toNat && t.toNat ≤ 0xD)
/-- R182: the permitted type pairs of UNPK. -/
def unpkTypes (dt st : BitVec 4) : Bool :=
  (dt == 0x9 && (0xA ≤ st.toNat && st.toNat ≤ 0xD)) || (dt == 0x6 && (st == 0x4 || st == 0x5))
    || (dt == 0x2 && (st == 0x0 || st == 0x1))
/-- R182: the 16-bit source types, which refuse `.hi`. -/
def type16 (t : BitVec 4) : Bool := t == 0x1 || t == 0x5 || t == 0xA || t == 0xB
/-- R52: an element code; 0x5 is the rung's element. -/
def elemCode (t : BitVec 4) : Bool := t.toNat ≤ 5
/-- R154: registers an MX block of element code t takes; 0 for code 0x5, resolved at issue. -/
def elemRegs (t : BitVec 4) : Nat :=
  match t.toNat with
  | 0 => 4 | 1 => 6 | 2 => 6 | 3 => 8 | 4 => 8 | _ => 0
/-- R154: registers of the 32 wide values, .f32 or .bf16. -/
def wideRegs (t : BitVec 4) : Nat := if t == 0x9 then 32 else 16
def wideType (t : BitVec 4) : Bool := t == 0x9 || t == 0xB

/-- R147, R173: a comparison code in D bits 6:3. -/
def cmpInD (d : RegNum) : Bool := d.toNat / 8 < 12
/-- A predicate in C bits 2:0 (R133). -/
def predC (c : BitVec 8) : Bool := c.toNat < 8
/-- R148: the combine field. -/
def combineC (c : BitVec 8) : Bool := c.toNat < 64
/-- R111: MODE within `modes`, and KN = 0 unless KM = 1, then k0-k11. -/
def memberC (modes : Nat) (c : BitVec 8) : Bool :=
  c.toNat / 32 < modes && (if c.toNat / 16 % 2 == 1 then c.toNat % 16 < 12 else c.toNat % 16 == 0)
/-- R97: a link pair in the C field. -/
def linkC (c : BitVec 8) : Bool := c.toNat < 128 && c.toNat % 2 == 0
/-- R207, the C field of LD. -/
def ldC (c : BitVec 8) : Bool := c.toNat < 128 && (c.toNat / 4 % 2 == 1 || c.toNat / 16 == 0)
/-- R207, the C field of ST. -/
def stC (c : BitVec 8) : Bool := c.toNat < 16 && c.toNat / 4 % 2 == 0 && c.toNat % 4 != 1
/-- R207, the C field of LDP and STP. -/
def ldpC (c : BitVec 8) : Bool := c.toNat < 16 && c.toNat / 4 % 2 == 0 && c.toNat % 4 != 3
/-- Only UB, bit 3 (R207, R300). -/
def ubC (c : BitVec 8) : Bool := c == 0 || c == 8
/-- R214: the data register rule of LDP and STP by width. -/
def ldpReg (m : Option Mods) (d : RegNum) : Bool :=
  match (cOf m).toNat % 4 with
  | 1 => evenReg d
  | 2 => quadReg d
  | _ => true
/-- R246: UB and a scope other than .net. -/
def acqC (c : BitVec 8) : Bool := c.toNat < 16 && c.toNat % 8 != 7
/-- R246, R252: op, order and scope of ATOM. -/
def atomC (c : BitVec 8) : Bool := c.toNat / 16 < 11 && c.toNat % 8 != 7
/-- R246: predicate, order and scope of CAS. -/
def casC (c : BitVec 8) : Bool := c.toNat < 128 && c.toNat % 8 != 7
/-- R246: kind and scope of FENCE in D. -/
def fenceD (kind : Nat) (d : RegNum) : Bool := d.toNat / 8 == kind && d.toNat % 8 != 7
/-- R382: number and scope of a barrier in A. -/
def barA (a : RegNum) : Bool := 1 ≤ a.toNat / 16 && a.toNat / 16 ≤ 5
/-- R309: scope and op of ACOLL; that .ag and .bc have op 0 is checked at issue. -/
def acollC (c : BitVec 8) : Bool :=
  let scope := c.toNat % 8
  ((3 ≤ scope && scope ≤ 5) || scope == 7) && c.toNat / 32 ≤ 2
/-- R306: the C field of ACOPY.quant. -/
def quantC (c : BitVec 8) : Bool := c.toNat % 2 == 1 && c.toNat / 2 % 4 == 0 && c.toNat / 16 ≤ 5
/-- R382, R398: scope and width of MWAIT. -/
def mwaitC (c : BitVec 8) : Bool := c.toNat < 16 && c.toNat % 8 ≤ 4

/-- R316: K, and the registers of a lane's A fragment with its scale register, by fixed format code 0-9. -/
def mmaK (fmt : Nat) : Nat :=
  match fmt with
  | 0 | 1 | 2 => 64
  | 3 | 4 | 5 | 6 => 32
  | 7 | 8 => 16
  | _ => 8
def mmaRegs (fmt : Nat) : Nat :=
  match fmt with
  | 0 => 9 | 1 => 13 | 2 => 13 | 3 => 9 | 4 => 9 | 5 => 8 | 6 => 8 | 7 => 8 | _ => 16
/-- R327: the same for MMASP's fragment of 2K elements. -/
def mmaspRegs (fmt : Nat) : Nat :=
  match fmt with
  | 0 => 17 | 1 => 25 | 2 => 25 | 3 => 17 | 4 => 17 | _ => 16
/-- R316, R326: the checks of MMA that need the format. -/
def mmaFmtOk (fmt : Nat) (a d : RegNum) (c : BitVec 8) : Bool :=
  (fmt != 9 || d.toNat % 2 == 0) && a.toNat + mmaRegs fmt ≤ 128 && c.toNat / 4 % 8 < 64 / mmaK fmt
def mmaspFmtOk (fmt : Nat) (a : RegNum) : Bool := a.toNat + mmaspRegs fmt ≤ 128
/-- R326: the C field of MMA. -/
def mmaC (c : BitVec 8) : Bool := c.toNat < 32 && (c.toNat % 2 == 1 || c.toNat / 4 == 0)
/-- R315, R328: a tile with F64 in bit 3 names an even tile. -/
def tileF64 (f : Nat) : Bool := f / 8 % 2 == 0 || f % 2 == 0
/-- R332: the column group q of ACCRD and ACCWR. -/
def colGroup (f64 : Bool) (b : RegNum) : Bool := if f64 then b.toNat < 8 else b.toNat < 4

def rm (acc : Accept) (o : OpR) : Bool := clsm acc o.m
def rM (acc : Accept) (o : OpR) : Bool := clsM acc o.m
/-- Three 64-bit operands (R45). -/
def pairs3 (o : OpR) : Bool := evenReg o.d && evenReg o.a && evenReg o.b
def cEven (c : BitVec 8) : Bool := c.toNat % 2 == 0

/-- FieldsValid of R55, one line per instruction, each naming what its entry accepts. -/
def Instr.wf : Instr → Bool
  | .cMov o => !(o.b == 0 && o.d == 0)
  | .cMovi _ => true
  | .cIadd _ => true
  | .cIaddImm _ => true
  | .cIsub _ => true
  | .cImul _ => true
  | .cAnd _ => true
  | .cOr _ => true
  | .cXor _ => true
  | .cShl _ => true
  | .cShr _ => true
  | .cFadd _ => true
  | .cFsub _ => true
  | .cFmul _ => true
  | .cFmax _ => true
  | .cBra _ => true
  | .mov o => clsm gOnly o.m
  | .not o => clsm gOnly o.m
  | .popc o => clsm gOnly o.m
  | .clz o => clsm gOnly o.m
  | .ctz o => clsm gOnly o.m
  | .brev o => clsm gOnly o.m
  | .p2v o => clsm gOnly o.m && o.b == 0 && !o.bk
  | .v2p o => clsm gOnly o.m
  | .smov o => clsm gOnly o.m
  | .movi _ => true
  | .smovi _ => true
  | .allot o => rm noMods o && o.noB && o.d.toNat < 16 && (o.d.toNat < 8 || 15 ≤ o.a.toNat)
  | .srd o => rm gOnly o && o.b == 0 && sysRegs.contains o.a.toNat && (!sysRegs64.contains o.a.toNat || evenReg o.d)
  | .swr o => rm gOnly o && o.d == 0 && sysRegsRW.contains o.a.toNat
  | .iadd o => rm gSat o
  | .isub o => rm gSat o
  | .iadc o => rm (gC predC) o
  | .isbb o => rm (gC predC) o
  | .imul o => rm gSat o
  | .imulhI32 o => rm gOnly o
  | .imulhN32 o => rm gOnly o
  | .imad o => rM { sat := true, c := anyC } o
  | .imadwI32 o => rM (gC cEven) o && evenReg o.d
  | .imadwN32 o => rM (gC cEven) o && evenReg o.d
  | .idivI32 o => rm gSat o
  | .idivN32 o => rm gOnly o
  | .iremI32 o => rm gOnly o
  | .iremN32 o => rm gOnly o
  | .iminI32 o => rm gOnly o
  | .iminN32 o => rm gOnly o
  | .imaxI32 o => rm gOnly o
  | .imaxN32 o => rm gOnly o
  | .and o => rm gOnly o
  | .or o => rm gOnly o
  | .xor o => rm gOnly o
  | .andn o => rm gOnly o
  | .shl o => rm gOnly o
  | .shr o => rm gOnly o
  | .sar o => rm gOnly o
  | .rol o => rm gOnly o
  | .ror o => rm gOnly o
  | .shlImm o => clsm gOnly o.m
  | .shrImm o => clsm gOnly o.m
  | .sarImm o => clsm gOnly o.m
  | .rolImm o => clsm gOnly o.m
  | .rorImm o => clsm gOnly o.m
  | .fshl o => rM (gC anyC) o
  | .bfe o => rm (gC fun c => c.toNat < 2) o
  | .bfi o => rM (gC anyC) o
  | .byteperm o => rM (gC anyC) o
  | .lea o => rM (gC fun c => c.toNat < 16) o && evenReg o.d && evenReg o.a
  | .iadd64 o => rm gOnly o && pairs3 o
  | .isub64 o => rm gOnly o && pairs3 o
  | .sadd o => clsM (gC anyC) o.m
  | .ssub o => clsM (gC anyC) o.m
  | .smul o => clsM (gC anyC) o.m
  | .sand o => clsM (gC anyC) o.m
  | .sor o => clsM (gC anyC) o.m
  | .sxor o => clsM (gC anyC) o.m
  | .sshl o => clsM (gC anyC) o.m
  | .sshr o => clsM (gC anyC) o.m
  | .ssetp cmp o => clsM (gC anyC) o.m && predReg o.d && cmp.toNat < 12
  | .setp o => rm (gC combineC) o && cmpInD o.d
  | .sel o => rM (gC fun c => c.toNat < 16) o
  | .plop o => rm gOnly o && predReg o.a && predReg o.b && !o.bk
  | .idot4I8 o => rM { sat := true, c := anyC } o
  | .idot4N8 o => rM { sat := true, c := anyC } o
  | .idot4I4 o => rM { sat := true, c := anyC } o
  | .idot4N4 o => rM { sat := true, c := anyC } o
  | .fadd o => rm (fpRounded 3) o
  | .fsub o => rm (fpRounded 3) o
  | .fmul o => rm (fpRounded 3) o
  | .ffma o => rM (fpRounded 7 anyC) o
  | .fmin o => rm (fpNA 3) o
  | .fmax o => rm (fpNA 3) o
  | .fdiv o => rm (fpRounded 3) o
  | .fsqrt o => clsm (fpRounded 2) o.m
  | .frcp o => clsm { na := 2, sat := true, clamp := true } o.m
  | .frsq o => clsm { na := 2, sat := true, clamp := true } o.m
  | .fex2 o => clsm { na := 2, sat := true, clamp := true } o.m
  | .flg2 o => clsm { na := 2, sat := true, clamp := true } o.m
  | .fsin o => clsm { na := 2, sat := true, clamp := true } o.m
  | .fcos o => clsm { na := 2, sat := true, clamp := true } o.m
  | .ftanh o => clsm { na := 2, sat := true, clamp := true } o.m
  | .frnd o => clsm { na := 2, rnd := true } o.m
  | .fclass o => clsm gOnly o.m
  | .fsetp o => rm (fpNA 3 combineC) o && cmpInD o.d
  | .fscale o => rm { na := 1, sat := true, clamp := true, rnd := true } o
  | .frexp o => rm gOnly o && o.noB && evenReg o.d
  | .dadd o => rm (fpRounded 3) o && pairs3 o
  | .dsub o => rm (fpRounded 3) o && pairs3 o
  | .dmul o => rm (fpRounded 3) o && pairs3 o
  | .dfma o => rM (fpRounded 7 cEven) o && pairs3 o
  | .dmin o => rm (fpNA 3) o && pairs3 o
  | .dmax o => rm (fpNA 3) o && pairs3 o
  | .ddiv o => rm (fpRounded 3) o && pairs3 o
  | .dsqrt o => clsm (fpRounded 2) o.m && evenReg o.d && evenReg o.b
  | .drcp o => clsm { na := 2, sat := true, clamp := true } o.m && evenReg o.d && evenReg o.b
  | .drnd o => clsm { na := 2, rnd := true } o.m && evenReg o.d && evenReg o.b
  | .dsetp o => rm (fpNA 3 combineC) o && cmpInD o.d && evenReg o.a && evenReg o.b
  | .pkaddF16 o => rm (fpRounded 3) o
  | .pkaddBf16 o => rm (fpRounded 3) o
  | .pkmulF16 o => rm (fpRounded 3) o
  | .pkmulBf16 o => rm (fpRounded 3) o
  | .pkfmaF16 o => rM (fpRounded 7 anyC) o
  | .pkfmaBf16 o => rM (fpRounded 7 anyC) o
  | .pkminF16 o => rm (fpNA 3) o
  | .pkminBf16 o => rm (fpNA 3) o
  | .pkmaxF16 o => rm (fpNA 3) o
  | .pkmaxBf16 o => rm (fpNA 3) o
  | .pksetpF16 o => rm (fpNA 3 combineC) o && cmpInD o.d && o.d.toNat % 8 != 7
  | .pksetpBf16 o => rm (fpNA 3 combineC) o && cmpInD o.d && o.d.toNat % 8 != 7
  | .cvt o => clsm { sat := true, scale := true, rnd := true } o.m && cvtType o.dt && cvtType o.st && scaleOk o.dt o.st o.m
    && regOfType o.dt o.d && regOfType o.st o.a
  | .pack o => clsM { sat := true, scale := true, rnd := true, c := anyC } o.m && packType o.dt && cvtType o.st && scaleOk o.dt o.st o.m
    && regOfType o.st o.a && (!type64 o.st || cEven (cOf o.m))
  | .unpk o => clsm (gC fun c => c.toNat < 2) o.m && unpkTypes o.dt o.st && evenReg o.d && (!type16 o.st || cOf o.m == 0)
  | .mxq o => clsM { rnd := true, c := fun c => c.toNat < 128 } o.m && elemCode o.dt && wideType o.st && evenReg o.d && evenReg o.a
    && o.a.toNat + wideRegs o.st ≤ 128 && o.d.toNat + elemRegs o.dt ≤ 128
  | .mxdq o => clsM { sat := true, rnd := true, c := anyC } o.m && wideType o.dt && elemCode o.st
    && o.d.toNat + wideRegs o.dt ≤ 128 && o.a.toNat + elemRegs o.st ≤ 128
  | .fenv o => rm gOnly o
  | .fflg o => rm gOnly o && o.a == 0
  | .kmov o => rm gOnly o && !o.bk && ((o.b == 0 && maskReg o.d && maskReg o.a) || (o.b == 1 && maskReg o.d && evenReg o.a)
    || (o.b == 2 && evenReg o.d && maskReg o.a))
  | .kop o => rm (gC fun c => c.toNat < 7) o && !o.bk && maskReg o.d && maskReg o.a && maskReg o.b
    && ((cOf o.m).toNat < 4 || (o.b == 0 && ((cOf o.m).toNat == 4 || o.a == 0)))
  | .kpop o => rm gOnly o && maskReg o.a && o.b.toNat < 2 && !o.bk
  | .join o => rm gOnly o && maskReg o.d && o.noAB
  | .leave o => rm gOnly o && maskReg o.d && o.noAB
  | .waitk o => rm noMods o && maskReg o.d && o.noAB
  | .waitkRelease => true
  | .vote o => rm (gC (memberC 4)) o && o.noB && o.a.toNat < 16 && (if (cOf o.m).toNat / 32 == 3 then evenReg o.d else predReg o.d)
  | .shfl o => rm (gC (memberC 4)) o
  | .redux o => rm { c := memberC 1, rnd := decide (8 ≤ o.b.toNat) } o && !o.bk && o.b.toNat < 11
  | .matchLanes o => rm (gC (memberC 2)) o && o.noB && evenReg o.d && ((cOf o.m).toNat / 32 == 0 || evenReg o.a)
  | .scan o => rm { c := memberC 2, rnd := decide (8 ≤ o.b.toNat) } o && !o.bk && o.b.toNat < 11
  | .elect o => rm (gC (memberC 1)) o && o.noAB && predReg o.d
  | .memberWaitComplete => true
  | .unsatisfiableWait => true
  | .bra o => clsm gOnly o.m
  | .brc o => clsM { guard := false, c := fun c => c.toNat < 32 } o.m
  | .jmp o => rm gOnly o && evenReg o.a && o.d == 0 && o.noB
  | .call o => clsm (gC linkC) o.m
  | .calli o => rm gOnly o && evenReg o.a && evenReg o.d && o.noB
  | .ret o => clsm (gC linkC) o.m
  | .exit o => clsm gOnly o.m
  | .region => true
  | .yield o => clsm gOnly o.m
  | .nop => true
  | .sleep o => clsm gOnly o.m && o.a == 0 && o.d == 0
  | .sleepEnd => true
  | .ldN8 o => clsm (gC ldC) o.m && evenReg o.a
  | .ldI8 o => clsm (gC ldC) o.m && evenReg o.a
  | .ldN16 o => clsm (gC ldC) o.m && evenReg o.a
  | .ldI16 o => clsm (gC ldC) o.m && evenReg o.a
  | .ldB32 o => clsm (gC ldC) o.m && evenReg o.a
  | .ldB64 o => clsm (gC ldC) o.m && evenReg o.a && evenReg o.d
  | .ldB128 o => clsm (gC ldC) o.m && evenReg o.a && quadReg o.d
  | .stB8 o => clsm (gC stC) o.m && evenReg o.a
  | .stB16 o => clsm (gC stC) o.m && evenReg o.a
  | .stB32 o => clsm (gC stC) o.m && evenReg o.a
  | .stB64 o => clsm (gC stC) o.m && evenReg o.a && evenReg o.d
  | .stB128 o => clsm (gC stC) o.m && evenReg o.a && quadReg o.d
  | .ldp o => clsm (gC ldpC) o.m && ldpReg o.m o.d
  | .stp o => clsm (gC ldpC) o.m && ldpReg o.m o.d
  | .pref o => clsm (gC ubC) o.m && evenReg o.a && o.d.toNat < 3
  | .cctlIi o => rm gOnly o && o.d == 0 && evenReg o.a
  | .cctlWb o => rm gOnly o && o.d == 1 && evenReg o.a
  | .cctlInv o => rm gOnly o && o.d == 2 && evenReg o.a
  | .cctlWbAll o => rm gOnly o && o.d == 3 && o.noAB
  | .cctlInvAll o => rm gOnly o && o.d == 4 && o.noAB
  | .cctlRodrop o => rm gOnly o && o.d == 5 && evenReg o.a
  | .fenceAr o => rm gOnly o && fenceD 0 o.d && o.noAB
  | .fenceAcq o => rm gOnly o && fenceD 1 o.d && o.noAB
  | .fenceRel o => rm gOnly o && fenceD 2 o.d && o.noAB
  | .fenceSc o => rm gOnly o && fenceD 3 o.d && o.noAB
  | .atomB32 o => rM (gC atomC) o && evenReg o.a
  | .atomB64 o => rM (gC atomC) o && pairs3 o
  | .casB32 o => rM (gC casC) o && evenReg o.a
  | .casB64 o => rM (gC casC) o && pairs3 o
  | .ldacqB32 o => clsm (gC acqC) o.m && evenReg o.a
  | .ldacqB64 o => clsm (gC acqC) o.m && evenReg o.a && evenReg o.d
  | .strelB32 o => clsm (gC acqC) o.m && evenReg o.a
  | .strelB64 o => clsm (gC acqC) o.m && evenReg o.a && evenReg o.d
  | .drainst o => clsm gOnly o.m
  | .pgreq o => rm gOnly o && o.d == 0 && evenReg o.a
  | .pghint o => rm gOnly o && o.d.toNat < 4 && evenReg o.a
  | .ldtB32 o => clsm (gC ubC) o.m
  | .ldtB128 o => clsm (gC ubC) o.m && quadReg o.d
  | .sttB32 o => clsm (gC ubC) o.m
  | .sttB128 o => clsm (gC ubC) o.m && quadReg o.d
  | .tzero o => rm gOnly o && o.d == 0
  | .syncarm o => rm gOnly o && o.d == 0
  | .syncwait o => rm gOnly o
  | .syncwaitComplete => true
  | .acopy o => rM gOnly o && octReg o.a && o.noB
  | .acopyQuant o => rM { rnd := true, c := quantC } o && octReg o.a && o.bk
  | .agath o => rm gOnly o && octReg o.a && o.bk
  | .ascat o => rm gOnly o && octReg o.a && o.bk
  | .acoll o => rM (gC acollC) o && octReg o.a && o.noB
  | .collectiveRound => true
  | .adigest o => rm gOnly o && octReg o.a && o.noB
  | .await o => rm gOnly o && evenReg o.a
  | .awaitComplete => true
  | .acancel o => rm gOnly o && predReg o.d && o.a == 0
  | .syncWordArrival => true
  | .engineCompletionUpdate => true
  | .mma o => rM { guard := false, rnd := true, c := mmaC } o && o.bk && quadReg o.a && o.d.toNat / 8 ≤ 10
    && (o.d.toNat / 8 == 10 || mmaFmtOk (o.d.toNat / 8) o.a o.d (cOf o.m))
  | .mmasp o => rM { guard := false, rnd := true, c := fun c => c.toNat < 8 && c.toNat % 2 == 0 } o && o.bk && quadReg o.a
    && (o.d.toNat / 8 == 10 || (o.d.toNat / 8 ≤ 6 && mmaspFmtOk (o.d.toNat / 8) o.a))
  | .matrixOpComplete => true
  | .accz o => rm noMods o && predReg o.d && o.noAB
  | .accld o => rm noMods o && o.d.toNat < 16 && tileF64 o.d.toNat && o.bk
  | .accst o => rM { guard := false, rnd := true, sat := true, scale := true } o && o.d.toNat / 16 ≤ 5 && tileF64 (o.d.toNat % 16) && o.bk && evenReg o.a
  | .accrd o => rm noMods o && quadReg o.d && o.a.toNat < 16 && tileF64 o.a.toNat && !o.bk && colGroup (decide (8 ≤ o.a.toNat)) o.b && o.d.toNat + 16 ≤ 128
  | .accwr o => rm noMods o && quadReg o.a && o.d.toNat < 16 && tileF64 o.d.toNat && !o.bk && colGroup (decide (8 ≤ o.d.toNat)) o.b && o.a.toNat + 16 ≤ 128
  | .mmaflg o => rm gOnly o && o.a == 0
  | .monset o => rm gOnly o && o.d.toNat < 2 && o.a == 0
  | .trxchk o => rm gOnly o && !o.bk && o.b.toNat < 4 && (o.b != 0 || predReg o.d) && o.a == 0
  | .trxesc o => clsm (gC fun c => c.toNat < 2) o.m
  | .ladderAbort => true
  | .ladderCommit => true
  | .shadowStallResolve => true
  | .trav o => rm gOnly o && quadReg o.a && o.noB
  | .travst o => rm (gC fun c => c.toNat < 2) o && quadReg o.a && o.noB
  | .traverseComplete => true
  | .barinit o => rm gOnly o && o.d == 0 && barA o.a
  | .bararr o => rm noMods o && barA o.a && o.noB
  | .barwait o => rm gOnly o && o.d == 0 && barA o.a
  | .bar o => rm noMods o && o.d == 0 && barA o.a && o.noB
  | .barrierArrive => true
  | .barwaitComplete => true
  | .tkwait o => rm gOnly o && predReg o.d && o.a == 0
  | .tkwaitComplete => true
  | .tkpass o => rm gOnly o && o.d == 0 && o.noAB
  | .spawn o => rm gOnly o && predReg o.d && evenReg o.a
  | .wret o => rm gOnly o && o.d == 0 && o.a == 0
  | .mwait o => rm (gC mwaitC) o && evenReg o.a && ((cOf o.m).toNat < 8 || pairs3 o)
  | .mwaitWake => true
  | .red o => rM (gC fun c => c.toNat < 2) o && o.d.toNat < 4 && evenReg o.a && (o.d.toNat % 2 == 0 || evenReg o.b)
  | .redfl o => rm gOnly o && o.d == 0 && o.noAB
  | .redarm o => rM (gC fun c => c.toNat < 2) o && predReg o.d && evenReg o.a && o.noB
  | .updateLineFire => true
  | .ownset o => rm gOnly o && o.d.toNat < 4 && quadReg o.a && o.noB
  | .launch o => rm gOnly o && predReg o.d && evenReg o.a
  | .trap o => clsm gOnly o.m && o.a == 0 && o.d == 0
  | .bkpt => true
  | .tret => true
  | .killg o => clsm gOnly o.m
  | .killb o => clsm gOnly o.m
  | .fltrd o => rm gOnly o && quadReg o.d && o.a.toNat < 2 && o.noB
  | .impreciseFaultDelivery => true
  | .loadResponse => true
  | .storeCheckResponse => true
  | .leaseWriteback => true
  | .writebackAccept => true
  | .leaseExpiry => true
  | .translationChangeComplete => true
  | .pageMoveComplete => true
  | .settledExpiry => true
  | .hotInterval => true
  | .scrubUncorrectable => true
  | .swapTrigger => true
  | .swapout => true
  | .dispatchDecision => true
  | .launchAccept => true
  | .launchComplete => true
  | .budgetPeriod => true
  | .wdogExpire => true
  | .preemptDone => true
  | .logReadIndexWrite => true
  | .queueTailWrite => true
  | .registerWrite => true
  | .partSet => true
  | .partFree => true
  | .qCreate => true
  | .qConfig => true
  | .qEnable => true
  | .qHalt => true
  | .qDestroy => true
  | .budgetSet => true
  | .budgetRead => true
  | .partParam => true
  | .preempt => true
  | .reopen => true
  | .drain => true
  | .kick => true
  | .xlate => true
  | .migrate => true
  | .commCreate => true
  | .commFree => true
  | .gazClear => true
  | .evlogSet => true
  | .replicaSet => true
  | .evlogStat => true
  | .podSet => true
  | .aclSet => true
  | .pwrState => true
  | .pwrCap => true
  | .eccRead => true
  | .selftest => true
  | .fwLoad => true
  | .attest => true
  | .netSet => true
  | .replicaCompare => true
  | .dbgen => true
  | .brk => true
  | .halt => true
  | .haltb => true
  | .resume => true
  | .step => true
  | .dbgRd => true
  | .dbgWr => true
  | .addressBreakpointHalt => true
  | .hostCxlMemAccess => true
  | .hostSnoop => true
  | .hostAtomicop => true
  | .podRemoteAccess => true
  | .linkDown => true
  | .deviceUnreachable => true
  | .netAckTimeout => true
  | .standbyWake => true
  | .powerOn => true
  | .portReturn => true
  | .powerOff => true
  | .arithmeticClockStep => true
  | .coreReservation => true
  | .flitReplay => true

end Sys2Proof
end

