-- ==== Sys2Proof/Decode.lean ====
section
/-! DEFINITION. From halfwords to instructions (spec 02 R34-R54) and back: `decode` is total on any bytes and refuses by name;
`encode` gives the bytes of a well-formed instruction. `decode` reads the fields of R43 once; FieldsValid is Instr.wf. -/

namespace Sys2Proof

/-- Why bytes are not an instruction (R42, R46, R54, R55); each raises ILLEGAL in the thread that decodes them, except
`truncated`, which says that the caller gave too few bytes. -/
inductive DecodeError where
  | zeroHalfword
  | reservedOpcode
  | badExtension
  | badFields
  | truncated
  deriving DecidableEq, Repr

/-- A little-endian halfword at the head of a byte list (R3). -/
def takeHalf : List Byte → Option (Half × List Byte)
  | x :: y :: rest => some (y ++ x, rest)
  | _ => none
/-- Bits 31:10 of a base word (R43). -/
def topBits (w : Word) : BitVec 22 := w.extractLsb' 10 22
/-- OP, bits 9:2 (R43). -/
def opBits (w : Word) : BitVec 8 := w.extractLsb' 2 8
/-- E, bit 1 (R43). -/
def extBit (w : Word) : Bool := w.getLsbD 1

def rFields (t : BitVec 22) (m : Option Mods) : OpR :=
  { b := t.extractLsb' 15 7, bk := t.getLsbD 14, a := t.extractLsb' 7 7, d := t.extractLsb' 0 7, m := m }
def uFields (t : BitVec 22) (m : Option Mods) : OpU :=
  { b := t.extractLsb' 15 7, bk := t.getLsbD 14, d := t.extractLsb' 0 7, m := m }
def iFields (t : BitVec 22) (m : Option Mods) : OpI :=
  { imm := t.extractLsb' 14 8, a := t.extractLsb' 7 7, d := t.extractLsb' 0 7, m := m }
def tFields (t : BitVec 22) (m : Option Mods) : OpT :=
  { dt := t.extractLsb' 18 4, st := t.extractLsb' 14 4, a := t.extractLsb' 7 7, d := t.extractLsb' 0 7, m := m }
def siFields (t : BitVec 22) (m : Option Mods) : OpSI :=
  { imm := t.extractLsb' 14 5, a := t.extractLsb' 7 7, d := t.extractLsb' 0 7, m := m }
def f8Fields (t : BitVec 22) (m : Option Mods) : OpF8 :=
  { a := t.extractLsb' 7 7, d := t.extractLsb' 0 7, m := m }
/-- F of layout U, bits 23:17. -/
def uFunc (t : BitVec 22) : Nat := (t.extractLsb' 7 7).toNat
/-- F of layout F8, bits 31:24. -/
def f8Func (t : BitVec 22) : Nat := (t.extractLsb' 14 8).toNat
/-- The sub-operation of layout SI, bits 31:29. -/
def siSub (t : BitVec 22) : Nat := (t.extractLsb' 19 3).toNat

/-- The modifier word (R47); none when a reserved bit is set (R48). -/
def decodeMods (w : Word) : Option Mods :=
  if w.extractLsb' 28 4 == 0 then
    some { rnd := w.extractLsb' 25 3, scale := w.extractLsb' 20 5, abs := w.extractLsb' 17 3, neg := w.extractLsb' 14 3,
           clamp := w.getLsbD 13, sat := w.getLsbD 12, gneg := w.getLsbD 11, guard := w.extractLsb' 8 3,
           c := w.extractLsb' 0 8 }
  else none

/-- OP 0x00 (R135). -/
def decodeUnary (t : BitVec 22) (m : Option Mods) : Nat → Option Instr
  | 0 => some (.mov (uFields t m))
  | 1 => some (.not (uFields t m))
  | 2 => some (.popc (uFields t m))
  | 3 => some (.clz (uFields t m))
  | 4 => some (.ctz (uFields t m))
  | 5 => some (.brev (uFields t m))
  | 6 => some (.p2v (uFields t m))
  | 7 => some (.v2p (uFields t m))
  | 8 => some (.smov (uFields t m))
  | _ => none

/-- OP 0x37 (R169). -/
def decodeFp1 (t : BitVec 22) (m : Option Mods) : Nat → Option Instr
  | 0 => some (.fsqrt (uFields t m))
  | 1 => some (.frcp (uFields t m))
  | 2 => some (.frsq (uFields t m))
  | 3 => some (.fex2 (uFields t m))
  | 4 => some (.flg2 (uFields t m))
  | 5 => some (.fsin (uFields t m))
  | 6 => some (.fcos (uFields t m))
  | 7 => some (.ftanh (uFields t m))
  | 8 => some (.frnd (uFields t m))
  | 9 => some (.fclass (uFields t m))
  | _ => none

/-- OP 0x43 (R177). -/
def decodeDp1 (t : BitVec 22) (m : Option Mods) : Nat → Option Instr
  | 0 => some (.dsqrt (uFields t m))
  | 1 => some (.drcp (uFields t m))
  | 8 => some (.drnd (uFields t m))
  | _ => none

/-- OP 0x20 (R142). -/
def decodeShiftImm (t : BitVec 22) (m : Option Mods) : Nat → Option Instr
  | 0 => some (.shlImm (siFields t m))
  | 1 => some (.shrImm (siFields t m))
  | 2 => some (.sarImm (siFields t m))
  | 3 => some (.rolImm (siFields t m))
  | 4 => some (.rorImm (siFields t m))
  | _ => none

/-- OP 0x28 (R150, R151). -/
def decodeUniform (t : BitVec 22) (m : Option Mods) : Nat → Option Instr
  | 0 => some (.sadd (f8Fields t m))
  | 1 => some (.ssub (f8Fields t m))
  | 2 => some (.smul (f8Fields t m))
  | 3 => some (.sand (f8Fields t m))
  | 4 => some (.sor (f8Fields t m))
  | 5 => some (.sxor (f8Fields t m))
  | 6 => some (.sshl (f8Fields t m))
  | 7 => some (.sshr (f8Fields t m))
  | n => if n / 16 = 1 then some (.ssetp (BitVec.ofNat 4 n) (f8Fields t m)) else none

/-- OP 0x8F, the operation in D (R216). -/
def decodeCctl (t : BitVec 22) (m : Option Mods) : Nat → Option Instr
  | 0 => some (.cctlIi (rFields t m))
  | 1 => some (.cctlWb (rFields t m))
  | 2 => some (.cctlInv (rFields t m))
  | 3 => some (.cctlWbAll (rFields t m))
  | 4 => some (.cctlInvAll (rFields t m))
  | 5 => some (.cctlRodrop (rFields t m))
  | _ => none

/-- OP 0x90, the kind in D bits 4:3 (R246). -/
def decodeFence (t : BitVec 22) (m : Option Mods) : Nat → Option Instr
  | 0 => some (.fenceAr (rFields t m))
  | 1 => some (.fenceAcq (rFields t m))
  | 2 => some (.fenceRel (rFields t m))
  | 3 => some (.fenceSc (rFields t m))
  | _ => none

/-- An instruction with neither operands nor a modifier word (class —, layout Z, R46, R54). -/
def decodeBare (i : Instr) (t : BitVec 22) (m : Option Mods) : Option Instr :=
  if t == 0 && m.isNone then some i else none

/-- Layout Z with a modifier word (R43). -/
def decodeZ (k : OpZ → Instr) (t : BitVec 22) (m : Option Mods) : Option Instr :=
  if t == 0 then some (k ⟨m⟩) else none

/-- The opcode map of R54, OP 0x01 apart; a number that is not listed is reserved. -/
def decodeOp (t : BitVec 22) (m : Option Mods) : Nat → Option Instr
  | 0x00 => decodeUnary t m (uFunc t)
  | 0x02 => some (.allot (rFields t m))
  | 0x03 => some (.srd (rFields t m))
  | 0x04 => some (.swr (rFields t m))
  | 0x05 => some (.iadd (rFields t m))
  | 0x06 => some (.isub (rFields t m))
  | 0x07 => some (.iadc (rFields t m))
  | 0x08 => some (.isbb (rFields t m))
  | 0x09 => some (.imul (rFields t m))
  | 0x0A => some (.imulhI32 (rFields t m))
  | 0x0B => some (.imulhN32 (rFields t m))
  | 0x0C => some (.imad (rFields t m))
  | 0x0D => some (.imadwI32 (rFields t m))
  | 0x0E => some (.imadwN32 (rFields t m))
  | 0x0F => some (.idivI32 (rFields t m))
  | 0x10 => some (.idivN32 (rFields t m))
  | 0x11 => some (.iremI32 (rFields t m))
  | 0x12 => some (.iremN32 (rFields t m))
  | 0x13 => some (.iminI32 (rFields t m))
  | 0x14 => some (.iminN32 (rFields t m))
  | 0x15 => some (.imaxI32 (rFields t m))
  | 0x16 => some (.imaxN32 (rFields t m))
  | 0x17 => some (.and (rFields t m))
  | 0x18 => some (.or (rFields t m))
  | 0x19 => some (.xor (rFields t m))
  | 0x1A => some (.andn (rFields t m))
  | 0x1B => some (.shl (rFields t m))
  | 0x1C => some (.shr (rFields t m))
  | 0x1D => some (.sar (rFields t m))
  | 0x1E => some (.rol (rFields t m))
  | 0x1F => some (.ror (rFields t m))
  | 0x20 => decodeShiftImm t m (siSub t)
  | 0x21 => some (.fshl (rFields t m))
  | 0x22 => some (.bfe (rFields t m))
  | 0x23 => some (.bfi (rFields t m))
  | 0x24 => some (.byteperm (rFields t m))
  | 0x25 => some (.lea (rFields t m))
  | 0x26 => some (.iadd64 (rFields t m))
  | 0x27 => some (.isub64 (rFields t m))
  | 0x28 => decodeUniform t m (f8Func t)
  | 0x29 => some (.setp (rFields t m))
  | 0x2A => some (.sel (rFields t m))
  | 0x2B => some (.plop (rFields t m))
  | 0x2C => some (.idot4I8 (rFields t m))
  | 0x2D => some (.idot4N8 (rFields t m))
  | 0x2E => some (.idot4I4 (rFields t m))
  | 0x2F => some (.idot4N4 (rFields t m))
  | 0x30 => some (.fadd (rFields t m))
  | 0x31 => some (.fsub (rFields t m))
  | 0x32 => some (.fmul (rFields t m))
  | 0x33 => some (.ffma (rFields t m))
  | 0x34 => some (.fmin (rFields t m))
  | 0x35 => some (.fmax (rFields t m))
  | 0x36 => some (.fdiv (rFields t m))
  | 0x37 => decodeFp1 t m (uFunc t)
  | 0x38 => some (.fsetp (rFields t m))
  | 0x39 => some (.fscale (rFields t m))
  | 0x3A => some (.frexp (rFields t m))
  | 0x3C => some (.dadd (rFields t m))
  | 0x3D => some (.dsub (rFields t m))
  | 0x3E => some (.dmul (rFields t m))
  | 0x3F => some (.dfma (rFields t m))
  | 0x40 => some (.dmin (rFields t m))
  | 0x41 => some (.dmax (rFields t m))
  | 0x42 => some (.ddiv (rFields t m))
  | 0x43 => decodeDp1 t m (uFunc t)
  | 0x44 => some (.dsetp (rFields t m))
  | 0x48 => some (.pkaddF16 (rFields t m))
  | 0x49 => some (.pkaddBf16 (rFields t m))
  | 0x4A => some (.pkmulF16 (rFields t m))
  | 0x4B => some (.pkmulBf16 (rFields t m))
  | 0x4C => some (.pkfmaF16 (rFields t m))
  | 0x4D => some (.pkfmaBf16 (rFields t m))
  | 0x4E => some (.pkminF16 (rFields t m))
  | 0x4F => some (.pkminBf16 (rFields t m))
  | 0x50 => some (.pkmaxF16 (rFields t m))
  | 0x51 => some (.pkmaxBf16 (rFields t m))
  | 0x52 => some (.pksetpF16 (rFields t m))
  | 0x53 => some (.pksetpBf16 (rFields t m))
  | 0x54 => some (.cvt (tFields t m))
  | 0x55 => some (.pack (tFields t m))
  | 0x56 => some (.unpk (tFields t m))
  | 0x57 => some (.mxq (tFields t m))
  | 0x58 => some (.mxdq (tFields t m))
  | 0x59 => some (.fenv (rFields t m))
  | 0x5A => some (.fflg (rFields t m))
  | 0x60 => some (.kmov (rFields t m))
  | 0x61 => some (.kop (rFields t m))
  | 0x62 => some (.kpop (rFields t m))
  | 0x63 => some (.join (rFields t m))
  | 0x64 => some (.leave (rFields t m))
  | 0x65 => some (.waitk (rFields t m))
  | 0x66 => some (.vote (rFields t m))
  | 0x67 => some (.shfl (rFields t m))
  | 0x68 => some (.redux (rFields t m))
  | 0x69 => some (.matchLanes (rFields t m))
  | 0x6A => some (.scan (rFields t m))
  | 0x6B => some (.elect (rFields t m))
  | 0x70 => some (.bra ⟨t, m⟩)
  | 0x71 => some (.brc ⟨t, m⟩)
  | 0x72 => some (.jmp (rFields t m))
  | 0x73 => some (.call ⟨t, m⟩)
  | 0x74 => some (.calli (rFields t m))
  | 0x75 => decodeZ .ret t m
  | 0x76 => decodeZ .exit t m
  | 0x77 => decodeBare .region t m
  | 0x78 => decodeZ .yield t m
  | 0x79 => decodeBare .nop t m
  | 0x7A => some (.sleep (iFields t m))
  | 0x80 => some (.ldN8 (iFields t m))
  | 0x81 => some (.ldI8 (iFields t m))
  | 0x82 => some (.ldN16 (iFields t m))
  | 0x83 => some (.ldI16 (iFields t m))
  | 0x84 => some (.ldB32 (iFields t m))
  | 0x85 => some (.ldB64 (iFields t m))
  | 0x86 => some (.ldB128 (iFields t m))
  | 0x87 => some (.stB8 (iFields t m))
  | 0x88 => some (.stB16 (iFields t m))
  | 0x89 => some (.stB32 (iFields t m))
  | 0x8A => some (.stB64 (iFields t m))
  | 0x8B => some (.stB128 (iFields t m))
  | 0x8C => some (.ldp (iFields t m))
  | 0x8D => some (.stp (iFields t m))
  | 0x8E => some (.pref (iFields t m))
  | 0x8F => decodeCctl t m (rFields t m).d.toNat
  | 0x90 => decodeFence t m ((rFields t m).d.toNat / 8)
  | 0x91 => some (.atomB32 (rFields t m))
  | 0x92 => some (.atomB64 (rFields t m))
  | 0x93 => some (.casB32 (rFields t m))
  | 0x94 => some (.casB64 (rFields t m))
  | 0x95 => some (.ldacqB32 (iFields t m))
  | 0x96 => some (.ldacqB64 (iFields t m))
  | 0x97 => some (.strelB32 (iFields t m))
  | 0x98 => some (.strelB64 (iFields t m))
  | 0x99 => decodeZ .drainst t m
  | 0xA0 => some (.pgreq (rFields t m))
  | 0xA1 => some (.pghint (rFields t m))
  | 0xA2 => some (.ldtB32 (iFields t m))
  | 0xA3 => some (.ldtB128 (iFields t m))
  | 0xA4 => some (.sttB32 (iFields t m))
  | 0xA5 => some (.sttB128 (iFields t m))
  | 0xA6 => some (.tzero (rFields t m))
  | 0xA7 => some (.syncarm (rFields t m))
  | 0xA8 => some (.syncwait (rFields t m))
  | 0xA9 => if (cOf m).toNat % 2 == 1 then some (.acopyQuant (rFields t m)) else some (.acopy (rFields t m))
  | 0xAA => some (.agath (rFields t m))
  | 0xAB => some (.ascat (rFields t m))
  | 0xAC => some (.acoll (rFields t m))
  | 0xAD => some (.adigest (rFields t m))
  | 0xAE => some (.await (rFields t m))
  | 0xAF => some (.acancel (rFields t m))
  | 0xB0 => some (.mma (rFields t m))
  | 0xB1 => some (.mmasp (rFields t m))
  | 0xB2 => some (.accz (rFields t m))
  | 0xB3 => some (.accld (rFields t m))
  | 0xB4 => some (.accst (rFields t m))
  | 0xB5 => some (.accrd (rFields t m))
  | 0xB6 => some (.accwr (rFields t m))
  | 0xB7 => some (.mmaflg (rFields t m))
  | 0xB8 => some (.monset (rFields t m))
  | 0xB9 => some (.trxchk (rFields t m))
  | 0xBA => decodeZ .trxesc t m
  | 0xC0 => some (.trav (rFields t m))
  | 0xC1 => some (.travst (rFields t m))
  | 0xC8 => some (.barinit (rFields t m))
  | 0xC9 => some (.bararr (rFields t m))
  | 0xCA => some (.barwait (rFields t m))
  | 0xCB => some (.bar (rFields t m))
  | 0xCC => some (.tkwait (rFields t m))
  | 0xCD => some (.tkpass (rFields t m))
  | 0xCE => some (.spawn (rFields t m))
  | 0xCF => some (.wret (rFields t m))
  | 0xD0 => some (.mwait (rFields t m))
  | 0xD1 => some (.red (rFields t m))
  | 0xD2 => some (.redfl (rFields t m))
  | 0xD3 => some (.redarm (rFields t m))
  | 0xD4 => some (.ownset (rFields t m))
  | 0xD8 => some (.launch (rFields t m))
  | 0xD9 => some (.trap (iFields t m))
  | 0xDA => decodeBare .bkpt t m
  | 0xDB => decodeBare .tret t m
  | 0xDC => decodeZ .killg t m
  | 0xDD => decodeZ .killb t m
  | 0xDE => some (.fltrd (rFields t m))
  | _ => none

/-- OP 0x01, class L (R50, R134): A selects the file, BK and B are RZ. -/
def decodeLiteral (t : BitVec 22) (lit : Word) : Option Instr :=
  let o := rFields t none
  if o.b == 0 && !o.bk then
    if o.a == 0 then some (.movi ⟨o.d, lit⟩) else if o.a == 1 then some (.smovi ⟨o.d, lit⟩) else none
  else none

/-- The sixteen compact codes of R40, code in bits 4:1. -/
def decodeCode (b : BitVec 5) (d : BitVec 6) (off : BitVec 11) : Nat → Option Instr
  | 0 => some (.cMov ⟨b, d⟩)
  | 1 => some (.cMovi ⟨b, d⟩)
  | 2 => some (.cIadd ⟨b, d⟩)
  | 3 => some (.cIaddImm ⟨b, d⟩)
  | 4 => some (.cIsub ⟨b, d⟩)
  | 5 => some (.cImul ⟨b, d⟩)
  | 6 => some (.cAnd ⟨b, d⟩)
  | 7 => some (.cOr ⟨b, d⟩)
  | 8 => some (.cXor ⟨b, d⟩)
  | 9 => some (.cShl ⟨b, d⟩)
  | 10 => some (.cShr ⟨b, d⟩)
  | 11 => some (.cFadd ⟨b, d⟩)
  | 12 => some (.cFsub ⟨b, d⟩)
  | 13 => some (.cFmul ⟨b, d⟩)
  | 14 => some (.cFmax ⟨b, d⟩)
  | 15 => some (.cBra ⟨off⟩)
  | _ => none
/-- A compact halfword (R39). -/
def decodeCompact (h : Half) : Option Instr :=
  decodeCode (h.extractLsb' 11 5) (h.extractLsb' 5 6) (h.extractLsb' 5 11) (h.extractLsb' 1 4).toNat

/-- FieldsValid (R55), then the instruction with its length in bytes. -/
def checked (len : Nat) : Option Instr → Except DecodeError (Instr × Nat)
  | none => .error .reservedOpcode
  | some i => if i.wf then .ok (i, len) else .error .badFields

/-- A base word with the extension word that follows when E = 1 (R43, R46, R55). -/
def decodeBase (w : Word) (ext : Option Word) : Except DecodeError (Instr × Nat) :=
  if opBits w == 1 then
    match ext with
    | none => .error .badExtension
    | some lit => checked 8 (decodeLiteral (topBits w) lit)
  else
    match ext with
    | none => checked 4 (decodeOp (topBits w) none (opBits w).toNat)
    | some x =>
      match decodeMods x with
      | none => .error .badFields
      | some m => checked 8 (decodeOp (topBits w) (some m) (opBits w).toNat)

/-- R34, R55: the instruction at the head of a list of bytes, and its length. -/
def decode (bytes : List Byte) : Except DecodeError (Instr × Nat) :=
  match takeHalf bytes with
  | none => .error .truncated
  | some (h, r1) =>
    if h.getLsbD 0 then
      match takeHalf r1 with
      | none => .error .truncated
      | some (h1, r2) =>
        if (h1 ++ h).getLsbD 1 then
          match takeHalf r2 with
          | none => .error .truncated
          | some (h2, r3) =>
            match takeHalf r3 with
            | none => .error .truncated
            | some (h3, _) => decodeBase (h1 ++ h) (some (h3 ++ h2))
        else decodeBase (h1 ++ h) none
    else if h == 0 then .error .zeroHalfword
    else checked 2 (decodeCompact h)

/-! The encoder: the same tables read the other way. -/

def topR (o : OpR) : BitVec 22 := o.b ++ BitVec.ofBool o.bk ++ o.a ++ o.d
def topU (f : Nat) (o : OpU) : BitVec 22 := o.b ++ BitVec.ofBool o.bk ++ BitVec.ofNat 7 f ++ o.d
def topI (o : OpI) : BitVec 22 := o.imm ++ o.a ++ o.d
def topT (o : OpT) : BitVec 22 := o.dt ++ o.st ++ o.a ++ o.d
def topSI (sub : Nat) (o : OpSI) : BitVec 22 := BitVec.ofNat 3 sub ++ o.imm ++ o.a ++ o.d
def topF8 (f : Nat) (o : OpF8) : BitVec 22 := BitVec.ofNat 8 f ++ o.a ++ o.d
/-- The modifier word of R47. -/
def encodeMods (m : Mods) : Word :=
  (0 : BitVec 4) ++ m.rnd ++ m.scale ++ m.abs ++ m.neg ++ BitVec.ofBool m.clamp ++ BitVec.ofBool m.sat
    ++ BitVec.ofBool m.gneg ++ m.guard ++ m.c
def halfBytes (h : Half) : List Byte := [h.extractLsb' 0 8, h.extractLsb' 8 8]
/-- Little-endian bytes of a word (R3). -/
def wordBytes (w : Word) : List Byte := halfBytes (w.extractLsb' 0 16) ++ halfBytes (w.extractLsb' 16 16)
/-- A base word and the word that may follow it (R43). -/
def encodeBase (op : Nat) (top : BitVec 22) (ext : Option Word) : List Byte :=
  wordBytes (top ++ BitVec.ofNat 8 op ++ BitVec.ofBool ext.isSome ++ (1 : BitVec 1))
    ++ (match ext with | none => [] | some x => wordBytes x)
def encodeR (op : Nat) (o : OpR) : List Byte := encodeBase op (topR o) (o.m.map encodeMods)
def encodeU (op f : Nat) (o : OpU) : List Byte := encodeBase op (topU f o) (o.m.map encodeMods)
def encodeI (op : Nat) (o : OpI) : List Byte := encodeBase op (topI o) (o.m.map encodeMods)
def encodeT (op : Nat) (o : OpT) : List Byte := encodeBase op (topT o) (o.m.map encodeMods)
def encodeSI (op sub : Nat) (o : OpSI) : List Byte := encodeBase op (topSI sub o) (o.m.map encodeMods)
def encodeF8 (op f : Nat) (o : OpF8) : List Byte := encodeBase op (topF8 f o) (o.m.map encodeMods)
def encodeJ (op : Nat) (o : OpJ) : List Byte := encodeBase op o.off (o.m.map encodeMods)
def encodeZ (op : Nat) (o : OpZ) : List Byte := encodeBase op 0 (o.m.map encodeMods)
def encodeL (file : BitVec 7) (o : OpL) : List Byte := encodeBase 1 (topR ⟨0, false, file, o.d, none⟩) (some o.lit)
def encodeC (code : Nat) (o : OpC) : List Byte := halfBytes (o.b ++ o.d ++ BitVec.ofNat 4 code ++ (0 : BitVec 1))
def encodeCB (o : OpCB) : List Byte := halfBytes (o.off ++ (15 : BitVec 4) ++ (0 : BitVec 1))

/-- The bytes of an instruction (R39, R43, R54); none for an event or a command, which has no word. -/
def encode : Instr → Option (List Byte)
  | .cMov o => some (encodeC 0 o)
  | .cMovi o => some (encodeC 1 o)
  | .cIadd o => some (encodeC 2 o)
  | .cIaddImm o => some (encodeC 3 o)
  | .cIsub o => some (encodeC 4 o)
  | .cImul o => some (encodeC 5 o)
  | .cAnd o => some (encodeC 6 o)
  | .cOr o => some (encodeC 7 o)
  | .cXor o => some (encodeC 8 o)
  | .cShl o => some (encodeC 9 o)
  | .cShr o => some (encodeC 10 o)
  | .cFadd o => some (encodeC 11 o)
  | .cFsub o => some (encodeC 12 o)
  | .cFmul o => some (encodeC 13 o)
  | .cFmax o => some (encodeC 14 o)
  | .cBra o => some (encodeCB o)
  | .mov o => some (encodeU 0x00 0 o)
  | .not o => some (encodeU 0x00 1 o)
  | .popc o => some (encodeU 0x00 2 o)
  | .clz o => some (encodeU 0x00 3 o)
  | .ctz o => some (encodeU 0x00 4 o)
  | .brev o => some (encodeU 0x00 5 o)
  | .p2v o => some (encodeU 0x00 6 o)
  | .v2p o => some (encodeU 0x00 7 o)
  | .smov o => some (encodeU 0x00 8 o)
  | .movi o => some (encodeL 0 o)
  | .smovi o => some (encodeL 1 o)
  | .allot o => some (encodeR 0x02 o)
  | .srd o => some (encodeR 0x03 o)
  | .swr o => some (encodeR 0x04 o)
  | .iadd o => some (encodeR 0x05 o)
  | .isub o => some (encodeR 0x06 o)
  | .iadc o => some (encodeR 0x07 o)
  | .isbb o => some (encodeR 0x08 o)
  | .imul o => some (encodeR 0x09 o)
  | .imulhI32 o => some (encodeR 0x0A o)
  | .imulhN32 o => some (encodeR 0x0B o)
  | .imad o => some (encodeR 0x0C o)
  | .imadwI32 o => some (encodeR 0x0D o)
  | .imadwN32 o => some (encodeR 0x0E o)
  | .idivI32 o => some (encodeR 0x0F o)
  | .idivN32 o => some (encodeR 0x10 o)
  | .iremI32 o => some (encodeR 0x11 o)
  | .iremN32 o => some (encodeR 0x12 o)
  | .iminI32 o => some (encodeR 0x13 o)
  | .iminN32 o => some (encodeR 0x14 o)
  | .imaxI32 o => some (encodeR 0x15 o)
  | .imaxN32 o => some (encodeR 0x16 o)
  | .and o => some (encodeR 0x17 o)
  | .or o => some (encodeR 0x18 o)
  | .xor o => some (encodeR 0x19 o)
  | .andn o => some (encodeR 0x1A o)
  | .shl o => some (encodeR 0x1B o)
  | .shr o => some (encodeR 0x1C o)
  | .sar o => some (encodeR 0x1D o)
  | .rol o => some (encodeR 0x1E o)
  | .ror o => some (encodeR 0x1F o)
  | .shlImm o => some (encodeSI 0x20 0 o)
  | .shrImm o => some (encodeSI 0x20 1 o)
  | .sarImm o => some (encodeSI 0x20 2 o)
  | .rolImm o => some (encodeSI 0x20 3 o)
  | .rorImm o => some (encodeSI 0x20 4 o)
  | .fshl o => some (encodeR 0x21 o)
  | .bfe o => some (encodeR 0x22 o)
  | .bfi o => some (encodeR 0x23 o)
  | .byteperm o => some (encodeR 0x24 o)
  | .lea o => some (encodeR 0x25 o)
  | .iadd64 o => some (encodeR 0x26 o)
  | .isub64 o => some (encodeR 0x27 o)
  | .sadd o => some (encodeF8 0x28 0 o)
  | .ssub o => some (encodeF8 0x28 1 o)
  | .smul o => some (encodeF8 0x28 2 o)
  | .sand o => some (encodeF8 0x28 3 o)
  | .sor o => some (encodeF8 0x28 4 o)
  | .sxor o => some (encodeF8 0x28 5 o)
  | .sshl o => some (encodeF8 0x28 6 o)
  | .sshr o => some (encodeF8 0x28 7 o)
  | .ssetp cmp o => some (encodeF8 0x28 (16 + cmp.toNat) o)
  | .setp o => some (encodeR 0x29 o)
  | .sel o => some (encodeR 0x2A o)
  | .plop o => some (encodeR 0x2B o)
  | .idot4I8 o => some (encodeR 0x2C o)
  | .idot4N8 o => some (encodeR 0x2D o)
  | .idot4I4 o => some (encodeR 0x2E o)
  | .idot4N4 o => some (encodeR 0x2F o)
  | .fadd o => some (encodeR 0x30 o)
  | .fsub o => some (encodeR 0x31 o)
  | .fmul o => some (encodeR 0x32 o)
  | .ffma o => some (encodeR 0x33 o)
  | .fmin o => some (encodeR 0x34 o)
  | .fmax o => some (encodeR 0x35 o)
  | .fdiv o => some (encodeR 0x36 o)
  | .fsqrt o => some (encodeU 0x37 0 o)
  | .frcp o => some (encodeU 0x37 1 o)
  | .frsq o => some (encodeU 0x37 2 o)
  | .fex2 o => some (encodeU 0x37 3 o)
  | .flg2 o => some (encodeU 0x37 4 o)
  | .fsin o => some (encodeU 0x37 5 o)
  | .fcos o => some (encodeU 0x37 6 o)
  | .ftanh o => some (encodeU 0x37 7 o)
  | .frnd o => some (encodeU 0x37 8 o)
  | .fclass o => some (encodeU 0x37 9 o)
  | .fsetp o => some (encodeR 0x38 o)
  | .fscale o => some (encodeR 0x39 o)
  | .frexp o => some (encodeR 0x3A o)
  | .dadd o => some (encodeR 0x3C o)
  | .dsub o => some (encodeR 0x3D o)
  | .dmul o => some (encodeR 0x3E o)
  | .dfma o => some (encodeR 0x3F o)
  | .dmin o => some (encodeR 0x40 o)
  | .dmax o => some (encodeR 0x41 o)
  | .ddiv o => some (encodeR 0x42 o)
  | .dsqrt o => some (encodeU 0x43 0 o)
  | .drcp o => some (encodeU 0x43 1 o)
  | .drnd o => some (encodeU 0x43 8 o)
  | .dsetp o => some (encodeR 0x44 o)
  | .pkaddF16 o => some (encodeR 0x48 o)
  | .pkaddBf16 o => some (encodeR 0x49 o)
  | .pkmulF16 o => some (encodeR 0x4A o)
  | .pkmulBf16 o => some (encodeR 0x4B o)
  | .pkfmaF16 o => some (encodeR 0x4C o)
  | .pkfmaBf16 o => some (encodeR 0x4D o)
  | .pkminF16 o => some (encodeR 0x4E o)
  | .pkminBf16 o => some (encodeR 0x4F o)
  | .pkmaxF16 o => some (encodeR 0x50 o)
  | .pkmaxBf16 o => some (encodeR 0x51 o)
  | .pksetpF16 o => some (encodeR 0x52 o)
  | .pksetpBf16 o => some (encodeR 0x53 o)
  | .cvt o => some (encodeT 0x54 o)
  | .pack o => some (encodeT 0x55 o)
  | .unpk o => some (encodeT 0x56 o)
  | .mxq o => some (encodeT 0x57 o)
  | .mxdq o => some (encodeT 0x58 o)
  | .fenv o => some (encodeR 0x59 o)
  | .fflg o => some (encodeR 0x5A o)
  | .kmov o => some (encodeR 0x60 o)
  | .kop o => some (encodeR 0x61 o)
  | .kpop o => some (encodeR 0x62 o)
  | .join o => some (encodeR 0x63 o)
  | .leave o => some (encodeR 0x64 o)
  | .waitk o => some (encodeR 0x65 o)
  | .vote o => some (encodeR 0x66 o)
  | .shfl o => some (encodeR 0x67 o)
  | .redux o => some (encodeR 0x68 o)
  | .matchLanes o => some (encodeR 0x69 o)
  | .scan o => some (encodeR 0x6A o)
  | .elect o => some (encodeR 0x6B o)
  | .bra o => some (encodeJ 0x70 o)
  | .brc o => some (encodeJ 0x71 o)
  | .jmp o => some (encodeR 0x72 o)
  | .call o => some (encodeJ 0x73 o)
  | .calli o => some (encodeR 0x74 o)
  | .ret o => some (encodeZ 0x75 o)
  | .exit o => some (encodeZ 0x76 o)
  | .region => some (encodeBase 0x77 0 none)
  | .yield o => some (encodeZ 0x78 o)
  | .nop => some (encodeBase 0x79 0 none)
  | .sleep o => some (encodeI 0x7A o)
  | .ldN8 o => some (encodeI 0x80 o)
  | .ldI8 o => some (encodeI 0x81 o)
  | .ldN16 o => some (encodeI 0x82 o)
  | .ldI16 o => some (encodeI 0x83 o)
  | .ldB32 o => some (encodeI 0x84 o)
  | .ldB64 o => some (encodeI 0x85 o)
  | .ldB128 o => some (encodeI 0x86 o)
  | .stB8 o => some (encodeI 0x87 o)
  | .stB16 o => some (encodeI 0x88 o)
  | .stB32 o => some (encodeI 0x89 o)
  | .stB64 o => some (encodeI 0x8A o)
  | .stB128 o => some (encodeI 0x8B o)
  | .ldp o => some (encodeI 0x8C o)
  | .stp o => some (encodeI 0x8D o)
  | .pref o => some (encodeI 0x8E o)
  | .cctlIi o => some (encodeR 0x8F o)
  | .cctlWb o => some (encodeR 0x8F o)
  | .cctlInv o => some (encodeR 0x8F o)
  | .cctlWbAll o => some (encodeR 0x8F o)
  | .cctlInvAll o => some (encodeR 0x8F o)
  | .cctlRodrop o => some (encodeR 0x8F o)
  | .fenceAr o => some (encodeR 0x90 o)
  | .fenceAcq o => some (encodeR 0x90 o)
  | .fenceRel o => some (encodeR 0x90 o)
  | .fenceSc o => some (encodeR 0x90 o)
  | .atomB32 o => some (encodeR 0x91 o)
  | .atomB64 o => some (encodeR 0x92 o)
  | .casB32 o => some (encodeR 0x93 o)
  | .casB64 o => some (encodeR 0x94 o)
  | .ldacqB32 o => some (encodeI 0x95 o)
  | .ldacqB64 o => some (encodeI 0x96 o)
  | .strelB32 o => some (encodeI 0x97 o)
  | .strelB64 o => some (encodeI 0x98 o)
  | .drainst o => some (encodeZ 0x99 o)
  | .pgreq o => some (encodeR 0xA0 o)
  | .pghint o => some (encodeR 0xA1 o)
  | .ldtB32 o => some (encodeI 0xA2 o)
  | .ldtB128 o => some (encodeI 0xA3 o)
  | .sttB32 o => some (encodeI 0xA4 o)
  | .sttB128 o => some (encodeI 0xA5 o)
  | .tzero o => some (encodeR 0xA6 o)
  | .syncarm o => some (encodeR 0xA7 o)
  | .syncwait o => some (encodeR 0xA8 o)
  | .acopy o => some (encodeR 0xA9 o)
  | .acopyQuant o => some (encodeR 0xA9 o)
  | .agath o => some (encodeR 0xAA o)
  | .ascat o => some (encodeR 0xAB o)
  | .acoll o => some (encodeR 0xAC o)
  | .adigest o => some (encodeR 0xAD o)
  | .await o => some (encodeR 0xAE o)
  | .acancel o => some (encodeR 0xAF o)
  | .mma o => some (encodeR 0xB0 o)
  | .mmasp o => some (encodeR 0xB1 o)
  | .accz o => some (encodeR 0xB2 o)
  | .accld o => some (encodeR 0xB3 o)
  | .accst o => some (encodeR 0xB4 o)
  | .accrd o => some (encodeR 0xB5 o)
  | .accwr o => some (encodeR 0xB6 o)
  | .mmaflg o => some (encodeR 0xB7 o)
  | .monset o => some (encodeR 0xB8 o)
  | .trxchk o => some (encodeR 0xB9 o)
  | .trxesc o => some (encodeZ 0xBA o)
  | .trav o => some (encodeR 0xC0 o)
  | .travst o => some (encodeR 0xC1 o)
  | .barinit o => some (encodeR 0xC8 o)
  | .bararr o => some (encodeR 0xC9 o)
  | .barwait o => some (encodeR 0xCA o)
  | .bar o => some (encodeR 0xCB o)
  | .tkwait o => some (encodeR 0xCC o)
  | .tkpass o => some (encodeR 0xCD o)
  | .spawn o => some (encodeR 0xCE o)
  | .wret o => some (encodeR 0xCF o)
  | .mwait o => some (encodeR 0xD0 o)
  | .red o => some (encodeR 0xD1 o)
  | .redfl o => some (encodeR 0xD2 o)
  | .redarm o => some (encodeR 0xD3 o)
  | .ownset o => some (encodeR 0xD4 o)
  | .launch o => some (encodeR 0xD8 o)
  | .trap o => some (encodeI 0xD9 o)
  | .bkpt => some (encodeBase 0xDA 0 none)
  | .tret => some (encodeBase 0xDB 0 none)
  | .killg o => some (encodeZ 0xDC o)
  | .killb o => some (encodeZ 0xDD o)
  | .fltrd o => some (encodeR 0xDE o)
  | .waitkRelease => none
  | .memberWaitComplete => none
  | .unsatisfiableWait => none
  | .sleepEnd => none
  | .syncwaitComplete => none
  | .collectiveRound => none
  | .awaitComplete => none
  | .syncWordArrival => none
  | .engineCompletionUpdate => none
  | .matrixOpComplete => none
  | .ladderAbort => none
  | .ladderCommit => none
  | .shadowStallResolve => none
  | .traverseComplete => none
  | .barrierArrive => none
  | .barwaitComplete => none
  | .tkwaitComplete => none
  | .mwaitWake => none
  | .updateLineFire => none
  | .impreciseFaultDelivery => none
  | .loadResponse => none
  | .storeCheckResponse => none
  | .leaseWriteback => none
  | .writebackAccept => none
  | .leaseExpiry => none
  | .translationChangeComplete => none
  | .pageMoveComplete => none
  | .settledExpiry => none
  | .hotInterval => none
  | .scrubUncorrectable => none
  | .swapTrigger => none
  | .swapout => none
  | .dispatchDecision => none
  | .launchAccept => none
  | .launchComplete => none
  | .budgetPeriod => none
  | .wdogExpire => none
  | .preemptDone => none
  | .logReadIndexWrite => none
  | .queueTailWrite => none
  | .registerWrite => none
  | .partSet => none
  | .partFree => none
  | .qCreate => none
  | .qConfig => none
  | .qEnable => none
  | .qHalt => none
  | .qDestroy => none
  | .budgetSet => none
  | .budgetRead => none
  | .partParam => none
  | .preempt => none
  | .reopen => none
  | .drain => none
  | .kick => none
  | .xlate => none
  | .migrate => none
  | .commCreate => none
  | .commFree => none
  | .gazClear => none
  | .evlogSet => none
  | .replicaSet => none
  | .evlogStat => none
  | .podSet => none
  | .aclSet => none
  | .pwrState => none
  | .pwrCap => none
  | .eccRead => none
  | .selftest => none
  | .fwLoad => none
  | .attest => none
  | .netSet => none
  | .replicaCompare => none
  | .dbgen => none
  | .brk => none
  | .halt => none
  | .haltb => none
  | .resume => none
  | .step => none
  | .dbgRd => none
  | .dbgWr => none
  | .addressBreakpointHalt => none
  | .hostCxlMemAccess => none
  | .hostSnoop => none
  | .hostAtomicop => none
  | .podRemoteAccess => none
  | .linkDown => none
  | .deviceUnreachable => none
  | .netAckTimeout => none
  | .standbyWake => none
  | .powerOn => none
  | .portReturn => none
  | .powerOff => none
  | .arithmeticClockStep => none
  | .coreReservation => none
  | .flitReplay => none

/-- R34: the length in bytes of an instruction of a thread; 0 for an event or a command. -/
def Instr.len (i : Instr) : Nat := ((encode i).getD []).length

/-- The bytes of a number of n bytes, lowest first (R3). -/
def natBytes : Nat → Nat → List Byte
  | 0, _ => []
  | n + 1, w => BitVec.ofNat 8 (w % 256) :: natBytes n (w / 256)

/-- The instruction the decoder reads where the bits of the table are w and every later bit is 0. -/
def decodeTableWord (_nbits w : Nat) : Option Instr :=
  match decode (natBytes 8 w) with
  | .ok (i, _) => some i
  | .error _ => none

end Sys2Proof
end

