-- ==== Sys2Proof/Machine/State.lean ====
section
/-! DEFINITION. The state of a VX9-A4 package as plain data: everything INVENTORY.md lists under "State", with the rule of the
spec that names it. Names follow the manual. -/

namespace Sys2Proof.Machine

open Sys2Proof

/-- Why the machine stops (host: Outcome.fault). Faults of threads are NOT here: R446 makes each a next state. -/
inductive Fault where
  /-- A thread's instruction was executed with no issue set (State.issue): raised by every meaning of a thread's instruction.
  Safe: step always sets one. -/
  | noIssue
  /-- A step of a package in state Off with nothing in the inbox (R33: nothing on the package answers). Safe. -/
  | poweredOff
  deriving DecidableEq, Repr

/-- Why a row has no meaning here (host: Outcome.refused). -/
inductive Refusal where
  /-- The row is not modelled yet: raised only in Dispatch.lean. Safe. -/
  | notModelled (mnemonic : String)
  deriving DecidableEq, Repr

/-! ## Memory, translation and caches -/

/-- Bytes by address, strictly rising, no entry 0x00; an unlisted address reads 0x00 (log 1). -/
abbrev Mem := List Host.Cell

/-- Where a byte lives after translation (R222, R257, R260): HBM by die and frame address, the host's memory by host physical
address, or another device's home by its address (R192). -/
inductive Place where
  | hbm (addr : Nat)
  | host (addr : Nat)
  | remote (addr : Nat)
  deriving DecidableEq, Repr

/-- STATE of a page-table entry (R257). -/
inductive PageState where
  | absent | resident | host | filling | moving | failed | table
  /-- an entry that R257 rejects: every access is answered as if V were 0, and logs TABLE-ERROR -/
  | rejected
  /-- V = 0 after an unmap that has not completed (R244) -/
  | unmapped
  deriving DecidableEq, Repr

/-- An entry the translation unit holds (R257), with what it keeps about it. -/
structure Entry where
  key : EntryKey
  st : PageState
  settled : Bool
  zf : Bool
  size : Nat
  leaseUs : Nat
  pr : Bool
  pw : Bool
  pa : Bool
  nm : Bool
  fdie : Nat
  addr : Nat
  /-- R258: the longest lease granted since the entry last changed, in ticks. -/
  granted : Nat
  /-- R244: the tick from which the change under way can complete, if one is, and t0 of the last change (R259). -/
  changeAt : Option Nat
  changed : Nat
  /-- R261: what a MOVING page becomes when PAGE_MOVE_COMPLETE happens. -/
  move : Option MoveTarget
  /-- R266: completion ticks of the page's last moves, newest first, at most four; and the end of SETTLED. -/
  moves : List Nat
  settledUntil : Nat
  deriving DecidableEq, Repr

/-- One line of an L1 (R193, R194). -/
structure Line where
  key : LineKey
  valid : BitVec 128
  dirty : BitVec 128
  data : List Byte
  pr : Bool
  pw : Bool
  lease : Nat
  place : Place
  /-- the tick of the response that set the lease (R194, R244) -/
  since : Nat
  /-- R208: `.str` lines are the first to be evicted. -/
  stream : Bool
  deriving DecidableEq, Repr

/-- Dirty bytes of a line that have left the L1 and are not performed yet (R195, R231): the partition they are charged to, where they
go, and how many releases of .quad scope and wider the core had made before (R235) (log 7). -/
structure Sent where
  key : LineKey
  part : Nat
  place : Place
  bytes : List (Nat × Byte)
  epoch : Nat
  /-- the tick of the response under which its bytes were written (R244) -/
  since : Nat
  deriving DecidableEq, Repr

/-- A line of HBM that an L2 slice holds (R19, R200); its bytes are those of the home (log 12). -/
structure L2Line where
  die : Nat
  slice : Nat
  place : Place
  dirty : Bool
  deriving DecidableEq, Repr

/-- One instruction-cache line (R38, R217). -/
structure ILine where
  key : LineKey
  data : List Byte
  lease : Nat
  deriving DecidableEq, Repr

/-- A replica of an L2 line (R201). -/
structure Replica where
  die : Nat
  slice : Nat
  key : LineKey
  data : List Byte
  lease : Nat
  launch : Nat
  deriving DecidableEq, Repr

/-- One byte of a store: its offset in the line, its value and the lane whose value stands (R202). -/
structure StoreByte where
  off : Nat
  val : Byte
  lane : Nat
  deriving DecidableEq, Repr

/-- An entry of the pending-store buffer, or with `queued` of the store-fault record queue (R196, R269). -/
structure Store where
  id : Nat
  blk : Nat
  grp : Nat
  lanes : LaneSet
  /-- the guard-true threads of the issuing set, which read its bytes (R196) -/
  readers : LaneSet
  /-- the address each of its lanes stored to, for the record a denied store leaves (R442) -/
  eas : List (Nat × Nat)
  pc : Dword
  ctx : Nat
  line : Nat
  bytes : List StoreByte
  byp : Bool
  stream : Bool
  /-- the tick at which the check was answered writable, while an earlier store of the thread to the line has not entered it (R196) -/
  answered : Option Nat
  queued : Bool
  page : Option EntryKey
  deriving DecidableEq, Repr

/-! ## Fault records and events -/

/-- A fault record (R440). -/
structure FaultRec where
  seql : Word
  block : Word
  rego : Word
  pco : Word
  addr : Dword
  detail : Word
  grp : BitVec 7
  lane : BitVec 6
  code : BitVec 8
  deriving DecidableEq, Repr

/-- An event of the Meridian (R433). -/
structure Event where
  seq : Nat
  gt : Nat
  type : BitVec 8
  part : Nat
  queue : Nat
  arg0 : Word
  arg1 : Dword
  deriving DecidableEq, Repr

/-- The placed log ring (R433, R434, R435). -/
structure LogRing where
  base : Nat
  size : Nat
  readIdx : Nat
  writeIdx : Nat
  /-- sequence numbers of the unread HINT records (R285) -/
  hints : List Nat
  deriving DecidableEq, Repr

/-! ## Threads -/

/-- What a waiting thread waits for (R74); `len` is the waiting instruction's length. -/
inductive WaitOn where
  /-- an instruction whose wait for earlier loads, stores or pages is not over: it is performed when they are (R94, R231) -/
  | hold
  /-- the same, once issued in the set `set`; `shadow`: it waits for a free shadow line (log 4) -/
  | issued (i : Instr) (set : LaneSet) (shadow : Bool)
  /-- what exec answers for a set whose unit cannot accept it (R83, R426): step issues no such set (log 4) -/
  | full
  /-- a write that found no free shadow line in a DET launch (R360) -/
  | shadow
  /-- SYNCWAIT (R304) -/
  | sync (vd off : Nat) (gen : BitVec 16) (len : Nat)
  /-- AWAIT (R312) -/
  | await (vd : Nat) (addr : Dword) (g : Word) (len : Nat)
  /-- a group's arrival at a barrier whose previous phase is open (R386) -/
  | arrive
  /-- BARWAIT, or with `joined` the wait of a BAR whose arrival has been counted (R387) -/
  | barrier (scope num : Nat) (phase : BitVec 16) (joined : Bool) (len : Nat)
  /-- TKWAIT (R391) -/
  | ticket (pd : Nat) (n : Word) (len : Nat)
  /-- MWAIT (R398); `home` is the line at its home as it was last read -/
  | mwait (vd : Nat) (ea : Dword) (wide : Bool) (value : Dword) (scope : Nat) (len : Nat) (home : List Byte)
  deriving DecidableEq, Repr

/-- The states of a thread (R74); a runnable thread with trap state is the manual's "trapped". -/
inductive TState where
  | runnable
  /-- in a wait of Group.waits (R87) -/
  | member
  /-- at a WAITK on k (R110) -/
  | waitk (k : Nat) (len : Nat)
  | waiting (w : WaitOn)
  | sleeping (deadline len : Nat)
  /-- YIELD (R103): asleep until the group's next issue opportunity or the end of the sixteenth cycle -/
  | yielding (opportunity cycle len : Nat)
  | parked
  | exited
  deriving DecidableEq, Repr

/-- Trap state (R446). -/
structure Trap where
  resume : Dword
  region : Dword
  record : FaultRec
  deriving DecidableEq, Repr

/-- A page of a park set (R267), and whether a wake of the second kind of R262 has named it. -/
structure ParkPage where
  key : EntryKey
  woken : Bool
  /-- an access that a HOST page cannot serve waits until the device owns it (R463) -/
  toDevice : Bool
  /-- the group's PAGE record for the page has been logged since the thread stopped -/
  logged : Bool
  deriving DecidableEq, Repr

structure Thread where
  pc : Dword
  /-- region-entry PC (R93) -/
  region : Dword
  st : TState
  /-- v0 to v(n-1) (R118) -/
  v : List Word
  /-- p0 to p6 (R120) -/
  p : BitVec 7
  fpenv : Word
  fpflags : Word
  /-- starvation count (R84) -/
  starve : Nat
  /-- the horizon, while a fault response has stopped the thread (R95) -/
  horizon : Option Dword
  parkSet : List ParkPage
  /-- parked at a fetch (R36), so that it resumes at its PC -/
  fetchPark : Bool
  /-- the first denial among its load responses (R211, R267) -/
  denied : Option FaultRec
  trap : Option Trap
  /-- the last record delivered (R456) -/
  last : Option FaultRec
  /-- imprecise records not yet delivered (R444), oldest first -/
  imprecise : List FaultRec
  /-- CCTL.ii ranges registered for the next FENCE (R217) -/
  codeRanges : List (Nat × Nat)
  /-- the update record that its REDARM has read while it waits for a free entry (R405) -/
  armRecord : Option (List Byte)
  deriving DecidableEq, Repr

/-! ## Groups -/

/-- An open wait of a cross-lane or whole-group instruction (R87). -/
structure MemberWait where
  pc : Dword
  instr : Instr
  snapshot : LaneSet
  arrived : LaneSet
  /-- arrived members whose guard is true (R59) -/
  guarded : LaneSet
  deriving DecidableEq, Repr

/-- How a load forms its result (R212). -/
inductive LoadKind where
  | n8 | i8 | n16 | i16 | b32 | b64 | b128
  deriving DecidableEq, Repr

/-- One thread's part of an outstanding load: the bytes by their addresses, those already served, and where they go. -/
structure LaneLoad where
  lane : Nat
  vd : Nat
  kind : LoadKind
  ea : Dword
  bytes : List (Nat × Option Byte)
  probe : Option Nat
  region : Dword
  deriving DecidableEq, Repr

/-- An outstanding load instruction of an issue set (R209). -/
structure Load where
  id : Nat
  /-- its place among the requests of the core (R196, R242) -/
  seq : Nat
  pc : Dword
  lanes : List LaneLoad
  byp : Bool
  ro : Bool
  stream : Bool
  /-- lines that only private addresses name: hints have no effect on them (R208) -/
  plain : List Nat
  /-- PREF.l1 fills the line and writes no register (R215) -/
  prefetch : Bool
  deriving DecidableEq, Repr

/-- An MMA or MMASP whose operands have been read and whose sum is under way (R320, R323). -/
structure MatrixOp where
  sparse : Bool
  fmt : Nat
  tn : Bool
  q : Nat
  n16 : Bool
  rnd : BitVec 3
  tile : Nat
  /-- lane i's A fragment as register values, for each live lane -/
  a : List (Nat × List Word)
  /-- the B operand's bytes -/
  b : List Byte
  deriving DecidableEq, Repr

/-- A group-level arrival waiting for the previous phase (R386). -/
structure Arrival where
  scope : Nat
  num : Nat
  /-- BARARR's sD; none for BAR -/
  sd : Option Nat
  len : Nat
  /-- the wait in which its threads came together (R87) -/
  wait : MemberWait
  deriving DecidableEq, Repr

/-- A 64x64 tile by i*64+j, strictly rising, zero elements unlisted (R314, R315). -/
abbrev Tile := List (Nat × Word)

structure Group where
  idx : Nat
  sched : Nat
  slot : Nat
  /-- k0-k11 (R86) -/
  k : List LaneSet
  /-- s0 to s(m-1) (R119) -/
  s : List Word
  vallot : Nat
  uallot : Nat
  acc : List Tile
  mmaflags : BitVec 5
  /-- cancellation threshold (R346) -/
  cb : Nat
  threads : List Thread
  waits : List MemberWait
  loads : List Load
  nextLoad : Nat
  /-- operations under way, oldest first, each on tiles of its own (R83, R323) -/
  flights : List MatrixOp
  /-- first register, format and number of registers of the latched A operand (R324) -/
  latch : Option (Nat × Nat × Nat)
  arrival : Option Arrival
  /-- APH by scope and number; absent is 0 (R383) -/
  aph : List (Nat × Nat × BitVec 16)
  /-- cycles ready and not chosen (R76) -/
  unchosen : Nat
  /-- issue opportunities so far (R77), which end a YIELD -/
  opportunities : Nat
  /-- dispatch age: a YIELD makes the group the youngest (R75, R103) -/
  age : Nat
  /-- when the group's park time began (R268) -/
  parkedAt : Option Nat
  halted : Bool
  stepping : Bool
  /-- the lanes that issued in the opportunity of a STEP, until its halt is logged (R460) -/
  stepped : LaneSet
  /-- lanes whose first instruction after RESUME takes no breakpoint (R458) -/
  skipBreak : LaneSet
  /-- the Surveyor's interval of R409, the part of it that the issue of an engine operation begins, and the last part of each other
  party ordered before it: block, group or operation, and part (R409) -/
  span : Nat
  interval : Nat
  known : List (Nat × Nat × Nat)
  deriving DecidableEq, Repr

/-! ## Blocks -/

/-- The states of a block (R271). -/
inductive BlockState where
  | queued | resident | swapping | swapped | committing | ended | killed
  deriving DecidableEq, Repr

/-- Why an attempt is doomed (R351). -/
inductive TripCause where
  | range | cancellation | exhaustion | escalation | ceiling
  deriving DecidableEq, Repr

/-- A barrier object (R383); an object that is not listed has its start state. -/
structure Barrier where
  scope : Nat
  num : Nat
  expect : Nat
  arrived : Nat
  ended : Nat
  epend : Nat
  phase : BitVec 16
  comm : Option Nat
  /-- by phase of arrival: block, group and the last interval that the arrivals of that phase had ordered before them (R409) -/
  known : List (Nat × Nat × Nat × Nat)
  deriving DecidableEq, Repr

/-- The type of an exact image (R399). -/
inductive RedType where
  | b32 | b64 | f32 | f64
  deriving DecidableEq, Repr

/-- One element of an exact image (R399). -/
structure ImageElem where
  val : Nat
  con : Bool
  pinf : Bool
  ninf : Bool
  nan : Bool
  nz : Bool
  deriving DecidableEq, Repr

/-- An exact image (R399): at a home (keyed by the line's place), in an atomic buffer, or deferred (keyed by the line's
address). -/
structure Image where
  place : Place
  ctx : Nat
  line : Nat
  type : RedType
  elems : List ImageElem
  /-- contributions that the home has not counted for the update units yet (R405) -/
  count : Nat
  spilled : Bool
  /-- ECC finds the spilled image uncorrectable; only the outside world sets it (R403, log 65) -/
  broken : Bool
  deriving DecidableEq, Repr

/-- An entry of an atomic buffer (R402). -/
structure BufferEntry where
  sched : Nat
  blk : Nat
  /-- the tick of its first contribution (R244) -/
  since : Nat
  image : Image
  deriving DecidableEq, Repr

/-- The Gazetteer lookup made at a block's first dispatch (R356, R357). -/
structure Lookup where
  hit : Bool
  rg : Nat
  cf : Nat
  start : Nat
  probe : Bool
  deriving DecidableEq, Repr

structure Block where
  id : Nat
  launch : Nat
  blkidx : Nat
  st : BlockState
  core : Nat
  rung : Nat
  /-- below CEIL of a ladder launch (R340) -/
  monitored : Bool
  thr : Nat
  rcount : Nat
  ccount : Nat
  skcount : Nat
  doomed : Option TripCause
  /-- CLOCK of its core as it was doomed (R352) -/
  doomedAt : Nat
  /-- an attempt ended by exhaustion or TRXESC.top, which R357 counts unfit -/
  unfit : Bool
  lookup : Option Lookup
  /-- held weight (R394) -/
  weight : Nat
  groups : List Group
  /-- the tile store by offset (R287) -/
  tile : Mem
  /-- shadow lines drawn by writes that stall for more (R360) -/
  drawn : Nat
  /-- shadow tile lines (R288): line number and its 128 bytes -/
  shadow : List (Nat × List Byte)
  /-- deferred global lines (R341): the line's address / 128 and its written bytes by offset -/
  deferred : List (Nat × List (Nat × Byte))
  /-- engine operations that completed, for the joins of R409: the DONE address, and what such a join orders before the joining group:
  block, party and its last part -/
  joins : List (Nat × Nat × Nat × Nat)
  images : List Image
  bars : List Barrier
  /-- owner ranges BASE and LEN (R412) and the copy of the entry -/
  owners : List (Nat × Nat)
  ownersKept : List (Nat × Nat)
  /-- swap granules held: first and count (R274) -/
  granules : Option (Nat × Nat)
  /-- records of its engine operations by handle, until the slot is next issued on its core (R445) -/
  records : List (Nat × FaultRec)
  /-- store-fault entries saved with a swapped block (R273) -/
  savedStores : List Store
  /-- Meridian sequence of becoming ready, of being raised, of the trip (R276, R352) -/
  readySeq : Option Nat
  raisedSeq : Option Nat
  tripSeq : Nat
  /-- dispatch order (R75, R280) -/
  dispatched : Nat
  deriving DecidableEq, Repr

/-! ## Engine operations -/

/-- The engine operations (R292, R377). -/
inductive EngKind where
  | copy
  | quant (elem : Nat) (bf16 : Bool) (mode : BitVec 3) (scaleOff : Nat)
  | gather (es : Nat) (list : Nat)
  | scatter (es : Nat) (list : Nat)
  | coll (kind op type comm root : Nat)
  | digest
  | trav
  | travst (ins : Bool) (k : Nat)
  deriving DecidableEq, Repr

/-- How far one head of a traverse has come (R370): its chunks and steps computed, its state, and its part of D. -/
structure TravHead where
  head : Nat
  past : Nat
  state : List (List Nat)
  d : List Nat
  deriving DecidableEq, Repr
/-- A traverse after its block has been read (R374-R376). -/
structure TravRun where
  /-- the block's 1,024 bits -/
  block : Nat
  /-- every page of its ranges has been translated (R375) -/
  placed : Bool
  /-- heads begun -/
  heads : List TravHead
  /-- elements computed and not yet written -/
  writes : List (Nat × List Byte)
  /-- the aligned 16-byte units that a later denial loses -/
  lost : List Nat
  deriving DecidableEq, Repr

structure EngOp where
  handle : Nat
  blk : Nat
  grp : Nat
  lane : Nat
  launch : Nat
  ctx : Nat
  pc : Dword
  region : Dword
  kind : EngKind
  src : Dword
  dst : Dword
  len : Nat
  done : Dword
  /-- units not yet performed (R305, R307) -/
  remaining : List Nat
  /-- bytes the operation reports in all, and those reported so far (R290, R297) -/
  total : Nat
  counted : Nat
  /-- tile bytes read before any write, where source and destination overlap (R305) -/
  snapshot : Option (List Byte)
  /-- lines of the source read so far, by address / 128; a line comes from its home once (R237) -/
  buf : List (Nat × List (Option Byte))
  /-- lines of the source that no read could bring (R297) -/
  lost : List Nat
  /-- the indices read so far, by element (R307) -/
  idx : List (Nat × Nat)
  trav : Option TravRun
  /-- the Surveyor's name for the operation, and what was ordered before its issue (R409) -/
  party : Nat
  known : List (Nat × Nat × Nat)
  err : Bool
  canc : Bool
  /-- code, detail and lowest address of its fault (R297) -/
  fail : Option (Nat × Nat × Dword)
  /-- the conflicts its accesses completed: detail and address (R410) -/
  pairs : List (Nat × Dword)
  /-- every unit performed: the completion remains (R294, R310) -/
  finished : Bool
  /-- its completion is signalled nowhere: a drain ended its block (R430) -/
  silent : Bool
  deriving DecidableEq, Repr

/-- A member's contribution to a round of a communicator (R310). -/
structure Contribution where
  part : Nat
  comm : Nat
  round : Nat
  rank : Nat
  kind : Nat
  op : Nat
  type : Nat
  root : Nat
  /-- none for the bytes of a failing line (R297) -/
  data : List (Option Byte)
  eng : EngOp
  core : Nat
  /-- when it was read: a .net round's time-out counts from it (R470) -/
  since : Nat
  deriving DecidableEq, Repr

/-- A communicator (R308). -/
structure Comm where
  part : Nat
  number : Nat
  scope : BitVec 3
  members : List Member
  timeoutMs : Nat
  /-- rounds joined so far by each member rank (R310) -/
  joined : List Nat
  deriving DecidableEq, Repr

/-- The state a core holds beside its blocks (R18). -/
structure Core where
  num : Nat
  lines : List Line
  icache : List ILine
  stores : List Store
  /-- the number of the next request, load or store -/
  nextReq : Nat
  /-- write-backs and write-throughs under way, in the order sent, and the releases made so far (R195, R235) -/
  sent : List Sent
  epoch : Nat
  buffers : List BufferEntry
  ops : List EngOp
  serial : Nat
  relaxedReplays : Nat
  deriving DecidableEq, Repr

/-- An arming of the update units (R404, R405). -/
structure Arming where
  id : Nat
  launch : Nat
  /-- the issuing thread, for the record of a denial (R407) -/
  blk : Nat
  grp : Nat
  lane : Nat
  pc : Dword
  region : Dword
  ctx : Nat
  clr : Bool
  adam : Bool
  h : List Word
  expect : Nat
  nlines : Nat
  paddr : Nat
  gaddr : Nat
  done : Dword
  /-- contributions so far of each line that has some, and the lines that have fired (R405) -/
  counts : List (Nat × Nat)
  fired : List Nat
  /-- a line's parameters were denied: the lowest address, and EHANDLE as the model fills it (log 34) -/
  fail : Option Dword
  handle : Nat
  /-- its launch ended with lines unfired (R407) -/
  canc : Bool
  deriving DecidableEq, Repr

/-! ## Launches, queues and partitions -/

/-- The fields of a launch record (R415). -/
structure LaunchRec where
  code : Dword
  handler : Dword
  params : Dword
  done : Dword
  swap : Dword
  swapmax : Dword
  weight : Dword
  policy : Dword
  owners : Dword
  blocks : Nat
  x : Nat
  y : Nat
  z : Nat
  tiles : Nat
  priv : Nat
  groups : Nat
  vregs : Nat
  uregs : Nat
  accs : Nat
  det : Bool
  ladder : Bool
  own : Bool
  coop : Bool
  nopark : Bool
  deriving DecidableEq, Repr

/-- The fields of a policy record (R338); `rungs` holds THR and CBITS of rungs 0-3. -/
structure Policy where
  pid : Word
  floor : Nat
  ceil : Nat
  pred : Bool
  relax : Bool
  skip : Bool
  skipm : Nat
  rungs : List (Nat × Nat)
  deriving DecidableEq, Repr

structure Launch where
  id : Nat
  queue : Nat
  part : Nat
  ctx : Nat
  lr : LaunchRec
  policy : Option Policy
  params : List Word
  /-- R356 -/
  serial : Nat
  /-- the launch whose root its weight returns to (R395): its own id unless it was spawned -/
  root : Nat
  returned : Nat
  /-- blocks dispatched for the first time (R422) -/
  next : Nat
  status : Nat
  /-- dispatch stopped (BADOWNERS, a drain) -/
  stopped : Bool
  complete : Bool
  /-- ticket counter and the tickets passed with their void bits (R390) -/
  counter : Nat
  passed : List (Nat × Bool)
  /-- the same by ticket (R391, R409) -/
  ticketKnown : List (Nat × Nat × Nat × Nat)
  bars : List Barrier
  deriving DecidableEq, Repr

/-- STATE of a queue (R418). -/
inductive QueueState where
  | absent | enabled | halted
  deriving DecidableEq, Repr

/-- An acceptance under way (R416): the record as step 1 read it, the step at which it stands, and the policy of step 3. -/
structure Accepting where
  step : Nat
  raw : List Byte
  policy : Option Policy
  deriving DecidableEq, Repr

/-- The descriptor of a queue (R418), with the dispatcher's and the watchdog's state (R421, R429). -/
structure Queue where
  num : Nat
  qbase : Dword
  tail : Word
  head : Word
  wdog : Nat
  wgt : Nat
  ctx : Nat
  part : Nat
  prio : Nat
  serial : Bool
  lok : Bool
  st : QueueState
  qsize : Nat
  nlaunch : Word
  nblock : Word
  credit : Nat
  /-- AGE, in ticks (R421) -/
  age : Nat
  /-- the tick from which the watchdog counts (R429) -/
  wdogFrom : Option Nat
  /-- records appended by SPAWN: record number, weight, root (R395) -/
  spawned : List (Nat × Nat × Nat)
  accepting : Option Accepting
  deriving DecidableEq, Repr

/-- One budget counter set (R425). -/
structure Budget where
  limit : Nat
  cur : Nat
  last : Nat
  total : Nat
  throt : Nat
  /-- CUR has reached LIMIT in this period (R426) -/
  held : Bool
  deriving DecidableEq, Repr

structure Partition where
  num : Nat
  quads : BitVec 48
  /-- PT in microseconds (R272), AGESTEP in microseconds (R421), Surveyor capacity (R410) -/
  pt : Nat
  agestep : Nat
  capacity : Nat
  ladderSerial : Word
  /-- HBM bytes, fabric bytes, reduction slots, engine operations (R28, R425) -/
  budgets : List Budget
  /-- the last queue served at each effective priority 0-7 (R421) -/
  lastServed : List Nat
  /-- the queue with a reservation and its core (R423) -/
  reservation : Option (Nat × Nat)
  closed : List Nat
  /-- store-fault entries held by the dispatcher for want of room (R275) -/
  held : List Store
  /-- the cores of a PREEMPT under way (R427) -/
  preempting : Option (List Nat)
  /-- a drain whose launches have not all completed (R430) -/
  draining : Bool
  debug : Bool
  breaks : List (Option Dword)
  deriving DecidableEq, Repr

/-- One Gazetteer entry that is valid (R354). -/
structure GazEntry where
  index : Nat
  part : Nat
  tag : Nat
  rg : Nat
  cf : Nat
  deriving DecidableEq, Repr

/-- A line signature of the Surveyor (R409, R410). -/
structure Signature where
  launch : Nat
  blk : Nat
  grp : Nat
  span : Nat
  interval : Nat
  tile : Bool
  line : Nat
  reads : BitVec 128
  writes : BitVec 128
  reds : BitVec 128
  deriving DecidableEq, Repr

/-- One HBM controller's sketch (R265): the counters that are not zero, by row * 4096 + index, and the candidate list. -/
structure Sketch where
  ctl : Nat
  counts : List (Nat × Nat)
  /-- frame and estimate -/
  list : List (Nat × Nat)
  deriving DecidableEq, Repr

/-- An HDM decoder (R462): the ones of the package are the first 4, in granules of 1 GiB (R461). -/
structure HdmDecoder where
  base : Nat
  size : Nat
  die : Nat
  frame : Nat
  deriving DecidableEq, Repr

/-- A valid access-table entry (R472). -/
structure AclEntry where
  target : AclTarget
  index : Nat
  last : Nat
  first : Nat
  master : Nat
  at_ : Bool
  wr : Bool
  rd : Bool
  deriving DecidableEq, Repr

/-- The replica service (R414). -/
inductive ReplicaPhase where
  | running | rerun | withdrawn
  deriving DecidableEq, Repr
structure Replica2 where
  peer : Nat
  schedule : List Nat
  phase : ReplicaPhase
  /-- launches before this one are halted while the step is run again (log 55): model's own -/
  since : Nat
  peerWithdrawn : Bool
  /-- the corrected-error counts at the last boundary with equal digests (R479) -/
  counts : List (Nat × Nat × Nat)
  deriving DecidableEq, Repr

/-- A .pod barrier object, which the members of its communicator share (R383). -/
structure PodBar where
  part : Nat
  comm : Nat
  bar : Barrier
  deriving DecidableEq, Repr

inductive Power where
  | active | standby | off
  deriving DecidableEq, Repr

/-- The issue set whose instruction is being executed (R78): model's own (log 4). -/
structure Issue where
  blk : Nat
  grp : Nat
  lanes : LaneSet
  pc : Dword
  deriving DecidableEq, Repr

/-! ## The package -/

/-- The platform: what only platform commands, firmware and the links change (no instruction of a thread does). -/
structure Plat where
  power : Power
  /-- the arithmetic clock of each die in 0.1 GHz (R21) and the sustained cap in W (R32, R477) -/
  freq : List Nat
  powerCap : Nat
  /-- DEV, P and the route table (R466) -/
  dev : Nat
  podSize : Nat
  routes : List (Nat × BitVec 36)
  /-- failed ports and when they failed, and the devices found unreachable (R467) -/
  portsDown : List (Nat × Nat)
  unreachable : List Nat
  replays : List Nat
  netAddr : List (BitVec 128)
  acl : List AclEntry
  hdm : List HdmDecoder
  hostBase : List (Nat × Nat)
  selftestFailed : List Nat
  fwValid : Bool
  fwVersion : Nat
  fwImage : List Byte
  deriving DecidableEq, Repr

structure State extends Plat where
  gtime : Nat
  /-- CLOCK of each die's cores (R22); what each die has towards its next cycle, and GTIME towards its next tick (log 5) -/
  clocks : List Nat
  fracs : List Nat
  phase : Nat
  msix : BitVec 18
  mbStatus : Nat
  mbCode : Nat
  mbBusy : Bool
  /-- the mailbox's argument and result words, by word index from offset 0x100 (R464) -/
  mailbox : List (Nat × Word)
  hbm : Mem
  host : Mem
  remote : Mem
  /-- the content the firmware pager keeps for pages of space 0x0 (R493), by address -/
  backing : Mem
  entries : List Entry
  sketches : List Sketch
  /-- the candidate list each controller logged last (R265; the event's record has no room for it, log 13) -/
  hotLists : List (Nat × List Nat)
  replicas : List Replica
  l2 : List L2Line
  /-- lines of HBM, by address, that ECC finds uncorrectable; only the outside world adds to them (R31, log 65) -/
  errors : List Nat
  /-- lines of HBM, by address, with an error that their next access corrects and counts; only the outside world adds to them (R478, log 65) -/
  soft : List Nat
  images : List Image
  armings : List Arming
  nextArming : Nat
  /-- records of armings' denials by context, completion object and EHANDLE (R407) -/
  armRecords : List (Nat × Nat × Nat × FaultRec)
  gaz : List GazEntry
  seq : Nat
  bootRing : List Event
  leftOut : Nat
  logRing : Option LogRing
  /-- events held while the log ring is full, oldest first (R434) -/
  heldEvents : List Event
  hintsDropped : Nat
  eccCounts : List (Nat × Nat × Nat)
  pair : Option Replica2
  comms : List Comm
  contributions : List Contribution
  podBars : List PodBar
  queues : List Queue
  partitions : List Partition
  launches : List Launch
  nextLaunch : Nat
  blocks : List Block
  nextBlock : Nat
  nextDispatch : Nat
  cores : List Core
  signatures : List Signature
  /-- next budget period boundary and sketch interval (R425, R265) -/
  nextPeriod : Nat
  nextHot : Nat
  /-- the result words of the last command or debug operation (R436, R458) -/
  result : List Nat
  -- the model's own fields (logs 2, 3, 4, 5)
  freeCount : Nat
  inbox : List (Instr × Subject)
  subject : Subject
  issue : Option Issue
  second : Option Issue
  turn : Nat
  deriving DecidableEq, Repr

/-- Budgets of a new partition (R425). -/
def Budget.zero : Budget := { limit := 0, cur := 0, last := 0, total := 0, throt := 0, held := false }

/-- A partition as it is created: PT 20 us (R272), AGESTEP 50 us and last queue served 1023 at every priority (R421), Surveyor
capacity 262,144 (R410), debug off (R458), ladder serial 0 (R356). -/
def Partition.new (num : Nat) (quads : BitVec 48) : Partition :=
  { num := num, quads := quads, pt := 20, agestep := 50, capacity := 262144, ladderSerial := 0,
    budgets := List.replicate 4 Budget.zero, lastServed := List.replicate 8 1023, reservation := none, closed := [],
    held := [], preempting := none, draining := false, debug := false, breaks := List.replicate 8 none }

/-- The package right after reset: one partition, number 0, with all 48 quads and no queue (R29), DEV 0 and P 1 (R466), no
translation entry, no access-table entry (R471), the Meridian at 0 (R432), state Active (R33, R476). -/
def State.reset : State :=
  { power := .active, gtime := 0, clocks := [0, 0, 0, 0], freq := [27, 27, 27, 27], fracs := [0, 0, 0, 0], phase := 0, powerCap := 10000,
    dev := 0, podSize := 1, routes := [], portsDown := [], unreachable := [], replays := List.replicate 36 0,
    netAddr := List.replicate 8 0, msix := 0, mbStatus := 0, mbCode := 0, mbBusy := false, mailbox := [],
    hbm := [], host := [], remote := [], backing := [], entries := [], hostBase := [], sketches := [], hotLists := [], replicas := [], l2 := [], errors := [], soft := [],
    images := [], armings := [], nextArming := 0, armRecords := [], acl := [], hdm := [], gaz := [], seq := 0, bootRing := [], leftOut := 0,
    logRing := none, heldEvents := [], hintsDropped := 0, eccCounts := [], selftestFailed := [], fwValid := true,
    fwVersion := 0, fwImage := [], pair := none, comms := [], contributions := [], podBars := [], queues := [],
    partitions := [Partition.new 0 (BitVec.allOnes 48)], launches := [], nextLaunch := 0, blocks := [], nextBlock := 0,
    nextDispatch := 0, cores := [], signatures := [], nextPeriod := 10000, nextHot := 100000, result := [], freeCount := 0,
    inbox := [], subject := .none, issue := none, second := none, turn := 0 }

end Sys2Proof.Machine
end

