-- ==== Sys2Proof/Machine/Memory.lean ====
section
/-! DEFINITION. Memory as bytes by address in one canonical form: addresses strictly rising, no entry that equals what an unlisted
address reads as (0x00, log 1). -/

namespace Sys2Proof.Machine

open Sys2Proof

/-- What an address that nothing has written reads as (log 1, DESIGN CHOICE for HBM at power-on; R25 for the tile store). -/
def unlisted : Byte := 0

/-- One byte. -/
def Mem.read (m : Mem) (a : Nat) : Byte :=
  match m with
  | [] => unlisted
  | (k, v) :: r => if k = a then v else Mem.read r a

/-- One byte written, in canonical form. -/
def Mem.write (m : Mem) (a : Nat) (v : Byte) : Mem :=
  match m with
  | [] => if v = unlisted then [] else [(a, v)]
  | (k, w) :: r =>
    if a < k then (if v = unlisted then (k, w) :: r else (a, v) :: (k, w) :: r)
    else if a = k then (if v = unlisted then r else (a, v) :: r)
    else (k, w) :: Mem.write r a v

/-- n bytes from a on, lowest address first (R3). -/
def Mem.readBytes (m : Mem) (a n : Nat) : List Byte := (List.range n).map fun i => m.read (a + i)
/-- Bytes written from a on. -/
def Mem.writeBytes (m : Mem) (a : Nat) (bs : List Byte) : Mem :=
  match bs with
  | [] => m
  | b :: r => Mem.writeBytes (m.write a b) (a + 1) r
/-- The little-endian value of n bytes. -/
def Mem.readNat (m : Mem) (a n : Nat) : Nat := ofBytes (m.readBytes a n)
def Mem.writeNat (m : Mem) (a n x : Nat) : Mem := m.writeBytes a (bytesLE n x)

/-- All addresses of a list are above a. -/
def Mem.above (a : Nat) (m : Mem) : Bool := m.all fun c => decide (a < c.1)
/-- The canonical form. -/
def Mem.wf (m : Mem) : Bool :=
  match m with
  | [] => true
  | (k, v) :: r => decide (v ≠ unlisted) && Mem.above k r && Mem.wf r

end Sys2Proof.Machine
end

