-- ==== Sys2Proof/Machine/Flags.lean ====
section
/-! DEFINITION. FPENV and FPFLAGS (spec 05 R159, R160, R164-R166, R186, R187), the comparison codes (R147) and the combine field
(R148). -/

namespace Sys2Proof.Machine

open Sys2Proof

/-- The fields of FPENV that can be set: RM, TE and bits 18:14 (R159). -/
def fpenvMask : Word := 0x0007FF07

/-- A write of new bits over old (R5, R159): reserved bits are discarded, an RM of 0, 6 or 7 leaves RM unchanged. -/
def writeFpenv (old new : Word) : Word :=
  let rm := new &&& 7
  (new &&& 0x0007FF00) ||| (if rm == 0 || rm == 6 || rm == 7 then old &&& 7 else rm)

/-- A write of FPFLAGS keeps bits 5:0 (R160). -/
def writeFpflags (new : Word) : Word := new &&& 0x3F

/-- R164: the environment an instruction runs under: RND over RM, the flush controls, DNAN, TE, and the modifiers. -/
def fpEnvOf (fpenv : Word) (m : Mods) : FpEnv :=
  { mode := RMode.ofCode (if m.rnd == 0 then (fpenv &&& 7).toNat else m.rnd.toNat)
    fz32i := fpenv.getLsbD 14, fz32o := fpenv.getLsbD 15, fz16i := fpenv.getLsbD 16, fz16o := fpenv.getLsbD 17
    dnan := fpenv.getLsbD 18, te := (fpenv >>> 8).setWidth 6, clamp := m.clamp, sat := m.sat, scale := m.scale.toInt }

/-- FPFLAGS with flags f added (R160: sticky). -/
def addFlags (fpflags : Word) (f : Flags) : Word := fpflags ||| f.setWidth 32

/-- R164: some raised flag is enabled. -/
def trapsOn (fpenv : Word) (f : Flags) : Bool := f &&& (fpenv >>> 8).setWidth 6 != 0

/-- The integer comparison codes (R147). -/
def intCompare (code : Nat) (a b : Word) : Bool :=
  match code with
  | 0 => a == b
  | 1 => a != b
  | 2 => a.slt b
  | 3 => a.sle b
  | 4 => b.slt a
  | 5 => b.sle a
  | 6 => a.ult b
  | 7 => a.ule b
  | 8 => b.ult a
  | 9 => b.ule a
  | 10 => a &&& b != 0
  | _ => a &&& b == 0

/-- The combine field (R148): x, x and q, x or q, x xor q by C[4:3]. -/
def combine (c : BitVec 8) (x q : Bool) : Bool :=
  match c.toNat / 8 % 4 with
  | 0 => x
  | 1 => x && q
  | 2 => x || q
  | _ => x != q

end Sys2Proof.Machine
end

