-- ==== Sys2Proof/Machine/Operands.lean ====
section
/-! DEFINITION. Reading and writing the registers of a thread and a group by the operand forms of spec 02 R43-R49, 04 R118-R121,
R132 and 05 R166. -/

namespace Sys2Proof.Machine

open Sys2Proof

/-! ## Vector registers, predicates and the PC of a thread -/

/-- vN of a thread (R118). -/
def Thread.vr (t : Thread) (n : Nat) : Word := t.v.getD n 0
def Thread.setV (t : Thread) (n : Nat) (x : Word) : Thread := { t with v := t.v.set n x }
/-- A 64-bit pair: the low half in the even register (R3). -/
def Thread.vPair (t : Thread) (n : Nat) : Dword := concat (t.vr (n + 1)) (t.vr n)
def Thread.setPair (t : Thread) (n : Nat) (x : Dword) : Thread := (t.setV n (lo32 x)).setV (n + 1) (hi32 x)
/-- Consecutive registers from n on. -/
def Thread.vList (t : Thread) (n count : Nat) : List Word := (List.range count).map fun i => t.vr (n + i)
def Thread.setList (t : Thread) (n : Nat) (xs : List Word) : Thread :=
  match xs with
  | [] => t
  | x :: r => (t.setV n x).setList (n + 1) r

/-- p0-p6, and p7 which reads true (R120). -/
def Thread.pr (t : Thread) (n : Nat) : Bool := n == 7 || t.p.getLsbD n
/-- A write to p7 is discarded (R120). -/
def Thread.setP (t : Thread) (n : Nat) (b : Bool) : Thread :=
  { t with p := if b then t.p ||| BitVec.ofNat 7 (2 ^ n) else t.p &&& ~~~ BitVec.ofNat 7 (2 ^ n) }

/-- The PC moves past an instruction of len bytes. -/
def Thread.advance (t : Thread) (len : Nat) : Thread := { t with pc := t.pc + BitVec.ofNat 64 len }
def Thread.jump (t : Thread) (pc : Dword) : Thread := { t with pc := pc }
def Thread.setState (t : Thread) (st : TState) : Thread := { t with st := st }
/-- R164: flags added to FPFLAGS. -/
def Thread.raiseFlags (t : Thread) (f : Flags) : Thread := { t with fpflags := addFlags t.fpflags f }
/-- R93. -/
def Thread.setRegion (t : Thread) (pc : Dword) : Thread := { t with region := pc }

/-- "Live" of R87. -/
def Thread.live (t : Thread) : Bool := t.st != .exited
/-- R446: a runnable, or waiting, thread in its handler. -/
def Thread.trapped (t : Thread) : Bool := t.trap.isSome

/-! ## Group registers -/

/-- sN (R119). -/
def Group.sr (g : Group) (n : Nat) : Word := g.s.getD n 0
def Group.setS (g : Group) (n : Nat) (x : Word) : Group := { g with s := g.s.set n x }
def Group.sPair (g : Group) (n : Nat) : Dword := concat (g.sr (n + 1)) (g.sr n)
def Group.setSPair (g : Group) (n : Nat) (x : Dword) : Group := (g.setS n (lo32 x)).setS (n + 1) (hi32 x)
def Group.sList (g : Group) (n count : Nat) : List Word := (List.range count).map fun i => g.sr (n + i)
/-- kN (R86). -/
def Group.kr (g : Group) (n : Nat) : LaneSet := g.k.getD n 0
def Group.setK (g : Group) (n : Nat) (x : LaneSet) : Group := { g with k := g.k.set n x }
/-- The lanes not exited (R87, R107). -/
def Group.liveLanes (g : Group) : LaneSet :=
  laneSet ((List.range 64).filter fun l => (g.threads[l]?).any Thread.live)

/-! ## Operands (R43, R132, R166) -/

/-- The modifiers, at their defaults where no modifier word follows (R47). -/
def modsOf (m : Option Mods) : Mods := m.getD Mods.default

/-- B: vB or sB by BK (R43). -/
def operandB (g : Group) (t : Thread) (bk : Bool) (b : RegNum) : Word := if bk then g.sr b.toNat else t.vr b.toNat
def pairB (g : Group) (t : Thread) (bk : Bool) (b : RegNum) : Dword := if bk then g.sPair b.toNat else t.vPair b.toNat
/-- C as a register: bit 7 chooses s (R47). -/
def operandC (g : Group) (t : Thread) (c : BitVec 8) : Word :=
  if c.getLsbD 7 then g.sr (c.toNat % 128) else t.vr c.toNat
def pairC (g : Group) (t : Thread) (c : BitVec 8) : Dword :=
  if c.getLsbD 7 then g.sPair (c.toNat % 128) else t.vPair c.toNat
/-- C of OP 0x28: an s register or the immediate imm7 (R150). -/
def uniformC (g : Group) (c : BitVec 8) : Word :=
  if c.getLsbD 7 then g.sr (c.toNat % 128) else nat32 (c.toNat % 128)

/-- Whether the guard holds in a thread (R58). -/
def guardOk (m : Option Mods) (t : Thread) : Bool := t.pr (modsOf m).guard.toNat != (modsOf m).gneg

/-- NEG and ABS of operand 0 = A, 1 = B, 2 = C (R47). -/
def negOf (m : Mods) (i : Nat) : Bool := m.neg.getLsbD i
def absOf (m : Mods) (i : Nat) : Bool := m.abs.getLsbD i

end Sys2Proof.Machine
end

