-- ==== Sys2Proof/Machine/Base.lean ====
section
/-! DEFINITION. Naming the parts of the package: blocks, groups, threads, cores, launches, queues and partitions (spec 01 R15-R18,
03 R70, R72), and the Meridian's log (14 R432-R435). -/

namespace Sys2Proof.Machine

open Sys2Proof

/-! ## The parts of the package -/

/-- R15. -/
def dieOf (core : Nat) : Nat := core / 48
def quadOf (core : Nat) : Nat := core / 4 % 12
def coreInQuad (core : Nat) : Nat := core % 4

/-- A core that has done nothing yet. -/
def Core.new (n : Nat) : Core :=
  { num := n, lines := [], icache := [], stores := [], nextReq := 0, sent := [], epoch := 0, buffers := [], ops := [], serial := 0,
    relaxedReplays := 0 }

def State.block? (s : State) (id : Nat) : Option Block := s.blocks.find? fun b => b.id == id
def State.updBlock (s : State) (id : Nat) (f : Block → Block) : State :=
  { s with blocks := s.blocks.map fun b => if b.id == id then f b else b }
def State.updGroup (s : State) (blk grp : Nat) (f : Group → Group) : State :=
  s.updBlock blk fun b => { b with groups := b.groups.modify grp f }
def Group.updThread (g : Group) (lane : Nat) (f : Thread → Thread) : Group := { g with threads := g.threads.modify lane f }
def State.updThread (s : State) (blk grp lane : Nat) (f : Thread → Thread) : State :=
  s.updGroup blk grp fun g => g.updThread lane f
def State.group? (s : State) (blk grp : Nat) : Option Group := (s.block? blk).bind fun b => b.groups[grp]?
def State.thread? (s : State) (blk grp lane : Nat) : Option Thread := (s.group? blk grp).bind fun g => g.threads[lane]?

def State.core (s : State) (n : Nat) : Core := (s.cores.find? fun c => c.num == n).getD (Core.new n)
def State.setCore (s : State) (c : Core) : State := { s with cores := upsert (fun x => x.num == c.num) c s.cores }
def State.updCore (s : State) (n : Nat) (f : Core → Core) : State := s.setCore (f (s.core n))

def State.launch? (s : State) (id : Nat) : Option Launch := s.launches.find? fun l => l.id == id
def State.updLaunch (s : State) (id : Nat) (f : Launch → Launch) : State :=
  { s with launches := s.launches.map fun l => if l.id == id then f l else l }
/-- The descriptor of a queue at reset (R418). -/
def Queue.blank (n : Nat) : Queue :=
  { num := n, qbase := 0, tail := 0, head := 0, wdog := 0, wgt := 1, ctx := 0, part := 0, prio := 0, serial := false, lok := false,
    st := .absent, qsize := 4, nlaunch := 0, nblock := 0, credit := 0, age := 0, wdogFrom := none, spawned := [], accepting := none }
/-- The descriptor of queue n, one of 1,024: an unlisted one stands as reset left it. -/
def State.descriptor (s : State) (n : Nat) : Queue := (s.queues.find? fun q => q.num == n).getD (Queue.blank n)
def State.setQueue (s : State) (q : Queue) : State := { s with queues := upsert (fun x => x.num == q.num) q s.queues }
/-- A queue that is not ABSENT. -/
def State.queue? (s : State) (n : Nat) : Option Queue := (s.queues.find? fun q => q.num == n).filter fun q => q.st != .absent
def State.updQueue (s : State) (n : Nat) (f : Queue → Queue) : State :=
  { s with queues := s.queues.map fun q => if q.num == n then f q else q }
def State.part? (s : State) (n : Nat) : Option Partition := s.partitions.find? fun p => p.num == n
def State.updPart (s : State) (n : Nat) (f : Partition → Partition) : State :=
  { s with partitions := s.partitions.map fun p => if p.num == n then f p else p }

/-- The cores of a partition's quads, ascending (R29). -/
def Partition.cores (p : Partition) : List Nat :=
  (List.range 48).flatMap fun q => if p.quads.getLsbD q then (List.range 4).map fun c => 4 * q + c else []
/-- The open cores of a partition (R427). -/
def Partition.openCores (p : Partition) : List Nat := p.cores.filter fun c => !p.closed.contains c
/-- CLOCK of a core (R22). -/
def State.clockOf (s : State) (core : Nat) : Nat := s.clocks.getD (dieOf core) 0
/-- A block that holds its allotments on a core (R271). -/
def Block.onCore (b : Block) : Bool := b.st == .resident || b.st == .swapping || b.st == .committing
/-- The blocks on a core. -/
def State.blocksOn (s : State) (core : Nat) : List Block := s.blocks.filter fun b => b.onCore && b.core == core

/-- Every field of a launch record at zero, for a launch that a state does not list. -/
def LaunchRec.zero : LaunchRec :=
  { code := 0, handler := 0, params := 0, done := 0, swap := 0, swapmax := 0, weight := 0, policy := 0, owners := 0, blocks := 0,
    x := 0, y := 0, z := 0, tiles := 0, priv := 0, groups := 0, vregs := 0, uregs := 0, accs := 0, det := false, ladder := false,
    own := false, coop := false, nopark := false }

/-- The next free value (log 2): the counter is read and advanced. -/
def State.tickFree (s : State) : State := { s with freeCount := s.freeCount + 1 }
/-- A choice among n alternatives that the spec leaves to the device (log 2). -/
def State.choose (s : State) (n : Nat) : Nat := Config.pick s.freeCount % n

/-- The element list[i mod length] that the device picks, with the rest. -/
def pickFrom {α : Type} (k : Nat) (l : List α) : Option (α × List α) :=
  match l with
  | [] => none
  | x :: r =>
    let i := k % (r.length + 1)
    some ((x :: r).getD i x, (x :: r).eraseIdx i)

/-- n bytes from a frame address lie in the HBM of one die, four stacks of 64 GiB (R19, R23). -/
def frameRange (a n : Nat) : Bool := decide (a / 2 ^ 40 < 4) && decide (a % 2 ^ 40 + n ≤ 2 ^ 38)

/-! ## Fault codes -/

/-- Codes of R442. -/
def cILLEGAL : Nat := 0x01
def cREGRANGE : Nat := 0x02
def cMASKFLT : Nat := 0x03
def cMISALIGN : Nat := 0x04
def cADDRSPACE : Nat := 0x05
def cPERM : Nat := 0x06
def cPAGE : Nat := 0x07
def cPRIVLIM : Nat := 0x08
def cTILELIM : Nat := 0x09
def cDETCONF : Nat := 0x0A
def cOWNFLT : Nat := 0x0B
def cXBLOCK : Nat := 0x0C
def cBKPT : Nat := 0x0E
def cTRAPI : Nat := 0x0F
def cFPTRAP : Nat := 0x10
def cENGFLT : Nat := 0x11
def cLADDERFLT : Nat := 0x12

/-! ## Budgets (R425, R426) -/

/-- The kinds of R28, in the order of Partition.budgets. -/
def bHBM : Nat := 0
def bFABRIC : Nat := 1
def bSLOTS : Nat := 2
def bENGINE : Nat := 3

/-- CUR has reached LIMIT: the kind is throttled until the period ends (R426). -/
def Budget.reach (b : Budget) : Budget := { b with held := b.held || (b.limit != 0 && decide (b.limit ≤ b.cur)) }
/-- n uses of a kind are counted. -/
def State.charge (s : State) (part kind n : Nat) : State :=
  let count (b : Budget) : Budget := Budget.reach { b with cur := (b.cur + n) % 2 ^ 64, total := (b.total + n) % 2 ^ 64 }
  s.updPart part fun p => { p with budgets := p.budgets.modify kind count }
/-- R426: new requests of the kind are held. -/
def State.throttled (s : State) (part kind : Nat) : Bool :=
  match s.part? part with
  | none => false
  | some p => (p.budgets[kind]?).any Budget.held

/-! ## What the HBM controllers count (R265, R425) -/

/-- H_i(f) of R265. -/
def sketchHash (row f : Nat) : Nat :=
  let k := match row with | 0 => 0x9E3779B1 | 1 => 0x85EBCA77 | 2 => 0xC2B2AE3D | _ => 0x27D4EB2F
  f * k % 2 ^ 32 / 2 ^ 20
def Sketch.new (ctl : Nat) : Sketch := { ctl := ctl, counts := [], list := [] }
/-- The least of f's four counters. -/
def Sketch.estimate (k : Sketch) (f : Nat) : Nat :=
  [0, 1, 2, 3].foldl (fun m row => min m (assocD k.counts (4096 * row + sketchHash row f) 0)) 0xFFFF
/-- The entry a new frame displaces: the smallest estimate on the list, the highest frame number among equals. -/
def Sketch.smallest (k : Sketch) : Option (Nat × Nat) :=
  k.list.foldl (fun m x => match m with
    | none => some x
    | some y => if x.2 < y.2 || (x.2 == y.2 && y.1 < x.1) then some x else some y) none
/-- n 64-byte accesses to frame f, one after another: f alone changes its counters and its entry between them. -/
def Sketch.count (k : Sketch) (f n : Nat) : Sketch :=
  let k := { k with counts := [0, 1, 2, 3].foldl (fun c row =>
    let i := 4096 * row + sketchHash row f
    assocSet c i (min 0xFFFF (assocD c i 0 + n))) k.counts }
  let e := k.estimate f
  if k.list.any fun x => x.1 == f then { k with list := k.list.map fun x => if x.1 == f then (f, e) else x }
  else if k.list.length < 64 then { k with list := k.list ++ [(f, e)] }
  else match k.smallest with
    | some x => if x.2 < e then { k with list := k.list.filter (fun y => y.1 != x.1) ++ [(f, e)] } else k
    | none => k
/-- A corrected error of a unit class of a die is counted (R31, R478). -/
def countEcc (cs : List (Nat × Nat × Nat)) (cls die : Nat) : List (Nat × Nat × Nat) :=
  if cs.any fun c => c.1 == cls && c.2.1 == die then
    cs.map fun c => if c.1 == cls && c.2.1 == die then (cls, die, (c.2.2 + 1) % 2 ^ 64) else c
  else cs ++ [(cls, die, 1)]
/-- An access to n bytes of HBM: every line of them that ECC can correct is counted at its stack, and is whole again. -/
def State.correct (s : State) (a n : Nat) : State :=
  let hit (x : Nat) : Bool := decide (a / 128 * 128 ≤ x) && decide (x < a + n)
  { s with soft := s.soft.filter fun x => !hit x
           eccCounts := (s.soft.filter hit).foldl (fun cs x => countEcc cs (4 + Config.hbmStack (x % 2 ^ 40 / 2 ^ 16) % 4) (x / 2 ^ 40)) s.eccCounts }
/-- n 64-byte accesses at the controller of an HBM address, all in one frame, charged to a partition or to none. -/
def State.accessHbm (s : State) (part : Option Nat) (a n : Nat) : State :=
  let s := s.correct a (64 * n)
  let frame := a % 2 ^ 40 / 2 ^ 16
  let ctl := a / 2 ^ 40 * 4 + Config.hbmStack frame % 4
  let k := ((s.sketches.find? fun k => k.ctl == ctl).getD (Sketch.new ctl)).count frame n
  let s := { s with sketches := upsert (fun x => x.ctl == ctl) k s.sketches }
  match part with
  | some p => s.charge p bHBM (64 * n)
  | none => s

/-! ## The Meridian (R432-R435) -/

/-- Event types of R433. -/
def evSUBMIT : BitVec 8 := 0x01
def evACCEPT : BitVec 8 := 0x02
def evCOMPLETE : BitVec 8 := 0x03
def evTAILERROR : BitVec 8 := 0x04
def evCMD : BitVec 8 := 0x05
def evPREEMPTDONE : BitVec 8 := 0x06
def evDRAINDONE : BitVec 8 := 0x07
def evFAULT : BitVec 8 := 0x08
def evPAGE : BitVec 8 := 0x09
def evSWAPOUT : BitVec 8 := 0x0A
def evREADMIT : BitVec 8 := 0x0B
def evWDOGEXPIRE : BitVec 8 := 0x0C
def evTRIP : BitVec 8 := 0x0D
def evCOMMIT : BitVec 8 := 0x0E
def evCOMMITFAULT : BitVec 8 := 0x0F
def evSOFTERROR : BitVec 8 := 0x10
def evHINT : BitVec 8 := 0x11
def evTABLEERROR : BitVec 8 := 0x12
def evCHANGEDONE : BitVec 8 := 0x13
def evHOT : BitVec 8 := 0x14
def evSETTLE : BitVec 8 := 0x15
def evMCHECK : BitVec 8 := 0x16
def evACCESSDENY : BitVec 8 := 0x17
def evLINKDOWN : BitVec 8 := 0x18
def evPAGEREQ : BitVec 8 := 0x19

/-- The 32 bytes of an event record (R433). -/
def Event.bytes (e : Event) : List Byte :=
  bytesLE 32 (e.seq * 2 ^ 192 + e.gt * 2 ^ 128 + e.type.toNat * 2 ^ 120 + e.part % 16 * 2 ^ 116 + e.queue % 1024 * 2 ^ 106
    + e.arg0.toNat * 2 ^ 64 + e.arg1.toNat)

/-- Records in the ring that firmware has not freed. -/
def LogRing.used (r : LogRing) : Nat := r.writeIdx - r.readIdx
/-- R434: the placed ring has no free entry. -/
def State.logFull (s : State) : Bool :=
  match s.logRing with
  | none => false
  | some r => decide (r.size ≤ r.used)

/-- The sequence number the next event will have: events that are held come first (R434). -/
def State.nextSeq (s : State) : Nat := s.seq + s.heldEvents.length

/-- Writes a sequenced event where it belongs: the placed ring (R433) or the boot ring (R435). Vector 1 of MSI-X when the ring is
more than half full (R465). -/
def State.storeEvent (s : State) (e : Event) : State :=
  match s.logRing with
  | some r =>
    let r' := { r with writeIdx := r.writeIdx + 1, hints := if e.type == evHINT then r.hints ++ [r.writeIdx] else r.hints }
    let at_ := r.base + 32 * (r.writeIdx % r.size)
    { s.accessHbm none at_ 1 with
      logRing := some r', seq := s.seq + 1
      hbm := s.hbm.writeBytes at_ e.bytes
      msix := if r.size < 2 * r'.used then s.msix ||| 2 else s.msix }
  | none =>
    if s.bootRing.length < 4096 then { s with seq := s.seq + 1, bootRing := s.bootRing ++ [e] }
    else { s with seq := s.seq + 1, leftOut := s.leftOut + 1 }

/-- One event at the Meridian (R432), held while the ring is full (R434). -/
def State.log (s : State) (type : BitVec 8) (part queue : Nat) (arg0 : Word) (arg1 : Dword) : State :=
  let e : Event := { seq := s.nextSeq, gt := s.gtime, type := type, part := part, queue := queue, arg0 := arg0, arg1 := arg1 }
  if s.logFull || !s.heldEvents.isEmpty then { s with heldEvents := s.heldEvents ++ [e] } else s.storeEvent e

/-- Held events are sequenced as entries free (R434), oldest first; `n` bounds how many. -/
def State.releaseHeld (n : Nat) (s : State) : State :=
  match n with
  | 0 => s
  | n + 1 =>
    match s.heldEvents with
    | [] => s
    | e :: r =>
      if s.logFull then s
      else State.releaseHeld n (({ s with heldEvents := r }).storeEvent { e with seq := s.seq, gt := s.gtime })

end Sys2Proof.Machine
end

