-- ==== Sys2Proof/Machine/Home.lean ====
section
/-! DEFINITION. Addresses, translation at the home, the access tables, and reads and writes at a home: spec 06 R189-R192, R200;
08 R255-R260; 16 R471-R473; exact images and their resolution, 13 R399, R400, R403. -/

namespace Sys2Proof.Machine

open Sys2Proof

/-! ## Addresses (R189, R190) -/

def eaSpace (ea : Nat) : Nat := ea / 2 ^ 60 % 16
def eaDevf (ea : Nat) : Nat := ea / 2 ^ 50 % 1024
def eaDie (ea : Nat) : Nat := ea / 2 ^ 48 % 4
def eaOff (ea : Nat) : Nat := ea % 2 ^ 48
/-- Bits 59:48. -/
def eaMid (ea : Nat) : Nat := ea / 2 ^ 48 % 4096

/-- The space-0x3 address of an offset (R287). -/
def tileEa (o : Nat) : Nat := 0x3FFF * 2 ^ 48 + o % 2 ^ 48

/-- R189: a device field of 0x3FF in space 0x0 becomes DEV. -/
def normEa (dev : Nat) (ea : Nat) : Nat :=
  let a := ea % 2 ^ 64
  if eaSpace a == 0 && eaDevf a == 0x3FF then a - 0x3FF * 2 ^ 50 + dev * 2 ^ 50 else a

/-- R190: the detail of the ADDRSPACE fault an address raises at issue, if it does. -/
def spaceFault (podSize ea : Nat) : Option Nat :=
  match eaSpace ea with
  | 0 => if eaDevf ea < podSize || eaDevf ea == 0x3FF then none else some 2
  | 1 => if eaMid ea == 0 then none else some 3
  | 2 => if eaMid ea == 0xFFF then none else some 3
  | 3 => if eaMid ea == 0xFFF then none else some 3
  | _ => some 1

/-- Space 0x0 of another device, after R189. -/
def isRemote (dev ea : Nat) : Bool := eaSpace ea == 0 && eaDevf ea != dev
/-- Space 0x0 of this device, after R189. -/
def isLocal (dev ea : Nat) : Bool := eaSpace ea == 0 && eaDevf ea == dev
/-- The page table of an address (R256): its die's table of space 0x0, or 4 for space 0x1. -/
def tableOf (ea : Nat) : Nat := if eaSpace ea == 1 then 4 else eaDie ea
/-- The die of a home (R222). -/
def homeDie (ea : Nat) : Nat := if eaSpace ea == 1 then 0 else eaDie ea
/-- R200. -/
def sliceOf (ea : Nat) : Nat :=
  let o := eaOff ea
  ((o / 2 ^ 7 % 32) ^^^ (o / 2 ^ 12 % 32)) ^^^ ((o / 2 ^ 17 % 32) ^^^ (o / 2 ^ 22 % 32))

/-! ## Translation (R256-R260) -/

def levelShift (level : Nat) : Nat := if level == 1 then 30 else if level == 2 then 21 else 16
/-- The first byte of the page an entry covers (R262). -/
def entryBase (dev : Nat) (k : EntryKey) : Nat :=
  let off := k.index * 2 ^ levelShift k.level
  if k.table == 4 then 2 ^ 60 + off else dev * 2 ^ 50 + k.table * 2 ^ 48 + off

def State.entry? (s : State) (k : EntryKey) : Option Entry := s.entries.find? fun e => e.key == k
def State.updEntry (s : State) (k : EntryKey) (f : Entry → Entry) : State :=
  { s with entries := s.entries.map fun e => if e.key == k then f e else e }

/-- The walk of the three-level table (R256): the entry that covers an address, if any. -/
def State.walk (s : State) (ctx ea : Nat) : Option Entry :=
  let off := eaOff ea
  let at_ (level : Nat) := s.entry? { ctx := ctx, table := tableOf ea, level := level, index := off / 2 ^ levelShift level }
  (at_ 1).bind fun e1 => if e1.st == .table then
    (at_ 2).bind fun e2 => if e2.st == .table then at_ 3 else some e2
  else some e1

/-- The right an access needs (R260, R471). -/
inductive Right where
  | rd | wr | atomic
  /-- an update firing: the page is read and written, and the access table's AT is asked (R405, R472) -/
  | update
  deriving DecidableEq, Repr
/-- The permission detail of R442. -/
def Right.detail : Right → Nat
  | .rd => 1
  | .wr => 2
  | _ => 3

/-- Who asks: the master of R471, the context, and the requesting die. -/
structure Req where
  part : Nat
  engine : Bool
  ctx : Nat
  die : Nat
  deriving DecidableEq, Repr
def Req.master (r : Req) : Nat := if r.engine then 0x10 + r.part else r.part

/-- R471, R472: some valid entry of the target covers [lo, hi] for the master with the right. -/
def State.aclGrants (s : State) (target : AclTarget) (master : Nat) (right : Right) (lo hi : Nat) : Bool :=
  master == 0x3F || s.acl.any fun e =>
    e.target == target && e.master == master && (match right with | .rd => e.rd | .wr => e.wr | _ => e.at_)
      && (match target with
        | .hbm _ | .control => decide (e.first ≤ lo / 4096) && decide (hi / 4096 ≤ e.last)
        | _ => true)

/-- The 128-byte line a place lies in. -/
def Place.line (p : Place) : Place :=
  match p with
  | .hbm a => .hbm (a - a % 128)
  | .host a => .host (a - a % 128)
  | .remote a => .remote (a - a % 128)
/-- What an access meets at its home (R260). -/
inductive Answer where
  /-- served, with the entry's lease in ticks and its permissions -/
  | served (place : Place) (key : EntryKey) (lease : Nat) (pr pw : Bool)
  /-- served uncached: a HOST page (with its entry) or another device (R192) -/
  | direct (place : Place) (key : Option EntryKey)
  | unmapped
  /-- an entry that R257 rejects: as unmapped, with a TABLE-ERROR event -/
  | rejected (key : EntryKey)
  | denied (detail : Nat)
  | absent (key : EntryKey)
  | filling (key : EntryKey)
  | failed
  /-- no port reaches the device yet, and the 100 us of R467 have not passed -/
  | noPort
  deriving DecidableEq, Repr

/-- The ports of another device's route that still work (R466, R467). -/
def State.livePorts (s : State) (dev : Nat) : List Nat :=
  (List.range 36).filter fun p => (assocD s.routes dev (0 : BitVec 36)).getLsbD p && (assoc s.portsDown p).isNone

/-- ECC finds a line of HBM, or the spilled image of a line, uncorrectable (R31, R403). -/
def State.spoiled (s : State) (p : Place) : Bool :=
  (match p with
    | .hbm a => s.errors.any fun e => e / 128 == a / 128
    | _ => false)
  || s.images.any fun im => im.place == p.line && im.spilled && im.broken
/-- The answer for the n bytes at ea, which lie in one page (R192, R257, R260, R467, R473). -/
def State.answer (s : State) (r : Req) (right : Right) (ea n : Nat) : Answer :=
  if isRemote s.dev ea then
    if s.unreachable.contains (eaDevf ea) then .unmapped
    else if (s.livePorts (eaDevf ea)).isEmpty then .noPort
    else if (s.livePorts (eaDevf ea)).any fun p => s.aclGrants (.horaris p) r.master right 0 0 then .direct (.remote ea) none
    else .unmapped
  else match s.walk r.ctx ea with
  | none => .unmapped
  | some e =>
    match e.st with
    | .rejected => .rejected e.key
    | .table => .unmapped
    | .unmapped => .unmapped
    | .failed => .failed
    | st =>
      let granted := match right with | .rd => e.pr | .wr => e.pw | .atomic => e.pa | .update => e.pr && e.pw
      let inPage := eaOff ea % 2 ^ levelShift e.key.level
      if !granted then .denied right.detail
      else if !s.aclGrants (.slices (homeDie ea)) r.master right 0 0 then .denied right.detail
      else match st with
      | .absent => .absent e.key
      | .resident =>
        if s.aclGrants (.hbm e.fdie) r.master right (e.addr + inPage) (e.addr + inPage + n - 1) then
          let place := Place.hbm (e.fdie * 2 ^ 40 + e.addr + inPage)
          if s.spoiled place then .failed else .served place e.key (1000 * e.leaseUs) e.pr e.pw
        else .denied right.detail
      | .host => .direct (.host (assocD s.hostBase r.ctx 0 + e.addr + inPage)) (some e.key)
      | _ => .filling e.key

/-- The frame of an entry, by die and address. -/
def Entry.frame (e : Entry) : Nat := e.fdie * 2 ^ 40 + e.addr
/-- Where HBM holds an entry: in the table that the entry above it points to. The spec states no place for the tables of level 1 (log 75). -/
def State.entryPlace (s : State) (k : EntryKey) : Option Nat :=
  let n := if k.level == 2 then 512 else 32
  if k.level ≤ 1 then none
  else match s.entry? { k with level := k.level - 1, index := k.index / n } with
  | some e => if e.st == .table then some (e.frame + 8 * (k.index % n)) else none
  | none => none
/-- STATE by code (R257). -/
def PageState.code (x : PageState) : Nat :=
  match x with
  | .absent | .unmapped => 0
  | .resident => 1
  | .host => 2
  | .filling => 3
  | .moving => 4
  | .failed => 5
  | .rejected => 6
  | .table => 7
/-- The 64 bits of an entry with what changes of it without XLATE: STATE, SETTLED, FDIE and ADDR (R257). -/
def Entry.bits (e : Entry) (old : Nat) : Nat :=
  setField (setField (setField (setField old 62 60 e.st.code) 59 59 e.settled.toNat) 45 44 e.fdie) 39 8 (e.addr / 256)
/-- The translation unit, or MIGRATE, changes an entry, and its bytes in its table with it (R256, R259, R261). -/
def State.changeEntry (s : State) (k : EntryKey) (f : Entry → Entry) : State :=
  let s := s.updEntry k f
  match s.entryPlace k, s.entry? k with
  | some a, some e => { s.accessHbm none a 1 with hbm := s.hbm.writeNat a 8 (e.bits (s.hbm.readNat a 8)) }
  | _, _ => s
/-- A page with an uncorrectable error that no block met is marked FAILED, unless it is not mapped any more; the event is an MCHECK of no block
(R31, R261; log 13). -/
def State.failEntry (s : State) (e : Entry) : State :=
  let s := s.log evMCHECK 0 0 0 (BitVec.ofNat 64 (entryBase s.dev e.key))
  match e.st with
  | .unmapped | .rejected | .table => s
  | _ => s.changeEntry e.key fun e => { e with st := .failed, move := none }
/-- The same of the page that an address lies in. -/
def State.failPage (s : State) (ctx ea : Nat) : State :=
  match s.walk ctx ea with
  | some e => s.failEntry e
  | none => s
/-- The same of the page whose frame holds an HBM address. -/
def State.failFrame (s : State) (a : Nat) : State :=
  let holds (e : Entry) : Bool := (e.st == .resident || e.st == .moving) && decide (e.frame ≤ a) && decide (a < e.frame + 2 ^ levelShift e.key.level)
  match s.entries.find? holds with
  | some e => s.failEntry e
  | none => s

/-- R262: one PAGE-REQ event, a fill (move 0) or a move to the device (move 1). -/
def State.pageReq (s : State) (k : EntryKey) (move part queue : Nat) : State :=
  s.log evPAGEREQ part queue (nat32 (k.ctx + 4096 * move)) (BitVec.ofNat 64 (entryBase s.dev k))
/-- ABSENT to FILLING, with its request (R261, R262) (log 69). -/
def State.requestPage (s : State) (k : EntryKey) (part queue : Nat) : State :=
  match s.entry? k with
  | some e => if e.st == .absent then (s.changeEntry k fun e => { e with st := .filling }).pageReq k 0 part queue else s
  | none => s
/-- R257: an access through a rejected entry. -/
def State.tableError (s : State) (k : EntryKey) (part queue : Nat) : State :=
  s.log evTABLEERROR part queue (nat32 k.ctx) (BitVec.ofNat 64 (entryBase s.dev k))
/-- R258: the longest lease granted. -/
def State.grantLease (s : State) (k : EntryKey) : State :=
  s.updEntry k fun e => { e with granted := max e.granted (1000 * e.leaseUs) }

/-! ## Places -/

def Place.add (p : Place) (n : Nat) : Place :=
  match p with
  | .hbm a => .hbm (a + n)
  | .host a => .host (a + n)
  | .remote a => .remote (a + n)
def State.placeRead (s : State) (p : Place) (n : Nat) : List Byte :=
  match p with
  | .hbm a => s.hbm.readBytes a n
  | .host a => s.host.readBytes a n
  | .remote a => s.remote.readBytes a n
def State.placeWrite (s : State) (p : Place) (bs : List Byte) : State :=
  match p with
  | .hbm a => { s with hbm := s.hbm.writeBytes a bs }
  | .host a => { s with host := s.host.writeBytes a bs }
  | .remote a => { s with remote := s.remote.writeBytes a bs }
/-- Bytes at offsets of a line. -/
def State.placeMerge (s : State) (p : Place) (bs : List (Nat × Byte)) : State :=
  bs.foldl (fun s b => s.placeWrite (p.add b.1) [b.2]) s

/-! ## Exact images (R399, R400, R403) -/

def RedType.bytes : RedType → Nat
  | .b32 | .f32 => 4
  | .b64 | .f64 => 8
def RedType.fmt : RedType → Fmt
  | .f64 => fmtF64
  | _ => fmtF32
def RedType.isFloat : RedType → Bool
  | .f32 | .f64 => true
  | _ => false
/-- Bits of one element's image. -/
def RedType.width : RedType → Nat
  | .b32 => 32
  | .b64 => 64
  | .f32 => 312
  | .f64 => 2168
/-- The unit is 2^-unit. -/
def RedType.unit : RedType → Nat
  | .f32 => 149
  | .f64 => 1074
  | _ => 0
def RedType.slots : RedType → Nat
  | .f64 => 4
  | _ => 1
def RedType.shadowLines : RedType → Nat
  | .f32 => 10
  | .f64 => 34
  | _ => 1
def RedType.elems (t : RedType) : Nat := 128 / t.bytes

def ImageElem.zero : ImageElem := { val := 0, con := false, pinf := false, ninf := false, nan := false, nz := false }
/-- A value as an image element, without CON. -/
def ImageElem.ofBits (t : RedType) (x : Nat) : ImageElem :=
  if !t.isFloat then { ImageElem.zero with val := x % 2 ^ t.width }
  else match t.fmt.value x with
    | .nan .. => { ImageElem.zero with nan := true, nz := true }
    | .inf n => { ImageElem.zero with pinf := !n, ninf := n, nz := true }
    | .fin n m e =>
      let v := m * 2 ^ (e + t.unit).toNat
      { ImageElem.zero with val := if n then (2 ^ t.width - v) % 2 ^ t.width else v, nz := !(m == 0 && n) }
/-- The sum of two partial images of one element. -/
def ImageElem.add (t : RedType) (a b : ImageElem) : ImageElem :=
  { val := (a.val + b.val) % 2 ^ t.width, con := a.con || b.con, pinf := a.pinf || b.pinf, ninf := a.ninf || b.ninf,
    nan := a.nan || b.nan, nz := a.nz || b.nz }
/-- R400: the bits an element resolves to. -/
def ImageElem.resolve (t : RedType) (e : ImageElem) : Nat :=
  if !t.isFloat then e.val
  else
    let f := t.fmt
    if e.nan || (e.pinf && e.ninf) then f.canonical
    else if e.pinf then f.withSign false f.infMag
    else if e.ninf then f.withSign true f.infMag
    else
      let x := signed t.width e.val
      if x == 0 then f.withSign (!e.nz) 0
      else (roundTo f .rne false { neg := decide (x < 0), m := x.natAbs, e := -(t.unit : Int), sticky := false }).1

/-- A partial image that starts from an exact zero (R399). -/
def Image.empty (t : RedType) (place : Place) (ctx line : Nat) : Image :=
  { place := place, ctx := ctx, line := line, type := t, elems := List.replicate t.elems ImageElem.zero, count := 0,
    spilled := false, broken := false }
/-- One contribution of bits x to element i. -/
def Image.contribute (im : Image) (i x : Nat) : Image :=
  { im with elems := im.elems.modify i fun e => e.add im.type { ImageElem.ofBits im.type x with con := true },
            count := im.count + 1 }
/-- The line's value as it enters an image made at its slot. -/
def Image.ofLine (t : RedType) (place : Place) (ctx line : Nat) (bytes : List Byte) : Image :=
  { Image.empty t place ctx line with
    elems := (List.range t.elems).map fun i => ImageElem.ofBits t (ofBytes ((bytes.drop (i * t.bytes)).take t.bytes)) }
/-- The bytes resolution writes, by offset in the line. -/
def Image.resolved (im : Image) : List (Nat × Byte) :=
  (List.range im.type.elems).flatMap fun i =>
    let e := im.elems.getD i ImageElem.zero
    if e.con then
      (bytesLE im.type.bytes (e.resolve im.type)).zipIdx.map fun b => (i * im.type.bytes + b.2, b.1)
    else []

/-- The slots in use in the slice of a line (R403). -/
def State.slotsUsed (s : State) (die slice : Nat) : Nat :=
  s.images.foldl (fun n im =>
    if !im.spilled && homeDie (im.line * 128) == die && sliceOf (im.line * 128) == slice then n + im.type.slots else n) 0
/-- What a partition uses is counted, where there is one. -/
def State.chargeTo (s : State) (part : Option Nat) (kind n : Nat) : State :=
  match part with
  | some p => s.charge p kind n
  | none => s
/-! ## The lines of an L2 slice (R19, R23, R27, R200) -/

/-- A slice has 2 MiB in lines of 128 bytes. -/
def sliceLines : Nat := 16384
/-- The replicas that lie in a slice (R201). -/
def State.sliceReplicas (s : State) (die slice : Nat) : Nat := s.replicas.countP fun r => r.die == die && r.slice == slice
/-- What a slice has for lines of HBM beside its reduction slots of 1,280 bytes (R399) and its replicas (R201). -/
def State.sliceRoom (s : State) (die slice : Nat) : Nat := sliceLines - 10 * s.slotsUsed die slice - s.sliceReplicas die slice
/-- A slice's traffic with a frame at another die crosses the fabric (R263, R425). -/
def State.frameFabric (s : State) (part : Option Nat) (die a n : Nat) : State := if a / 2 ^ 40 == die then s else s.chargeTo part bFABRIC n
/-- Room for n more lines in a slice: the device picks the lines that go (log 2), and a dirty one is written to HBM (log 12), or where ECC finds
it uncorrectable its page is marked FAILED (R31); `fuel` bounds the lines that go. -/
def State.l2Room (fuel : Nat) (part : Option Nat) (die slice n : Nat) (s : State) : State :=
  let mine := s.l2.filter fun x => x.die == die && x.slice == slice
  match fuel with
  | 0 => s
  | fuel + 1 =>
    if mine.length + n ≤ s.sliceRoom die slice then s
    else match mine[s.choose mine.length]? with
      | none => s
      | some v =>
        let s := { s.tickFree with l2 := s.l2.filter fun x => x.place != v.place }
        State.l2Room fuel part die slice n (match v.place with
          | .hbm a =>
            if !v.dirty then s
            else if s.spoiled v.place then s.failFrame a
            else (s.accessHbm part a 2).frameFabric part die a 128
          | _ => s)
/-- A line of HBM is used at its slice, which brings it in where it does not hold it. -/
def State.l2Use (s : State) (part : Option Nat) (ea : Nat) (p : Place) (write : Bool) : State :=
  match p.line with
  | .hbm a =>
    if s.l2.any fun x => x.place == .hbm a then
      if write then { s with l2 := s.l2.map fun x => if x.place == .hbm a then { x with dirty := true } else x } else s
    else
      let die := homeDie ea
      let s := ((s.l2Room (s.l2.length + 1) part die (sliceOf ea) 1).accessHbm part a 2).frameFabric part die a 128
      { s with l2 := s.l2 ++ [{ die := die, slice := sliceOf ea, place := .hbm a, dirty := write }] }
  | _ => s
/-- Bytes that cross a link (R425): from another die, the host or another device. -/
def State.countFabric (s : State) (r : Req) (ea : Nat) (p : Place) (n : Nat) : State :=
  match p with
  | .hbm _ => if homeDie ea != r.die then s.charge r.part bFABRIC n else s
  | _ => s.charge r.part bFABRIC n

/-! ## Slots (R403) -/

/-- An image goes to its die's spill area, or comes back: 20 accesses a slot (R265, R403, R425). -/
def State.spillTraffic (s : State) (part : Option Nat) (die slots : Nat) : State :=
  s.accessHbm part (die * 2 ^ 40 + Config.spillFrame die % 2 ^ 22 * 2 ^ 16) (20 * slots)
/-- R403: room for n slots in a slice, spilling the image created earliest; `fuel` bounds the images spilled. -/
def State.makeSlots (fuel : Nat) (part : Option Nat) (die slice n : Nat) (s : State) : State :=
  match fuel with
  | 0 => s
  | fuel + 1 =>
    if s.slotsUsed die slice + n ≤ 512 then s
    else match s.images.find? fun im => !im.spilled && homeDie (im.line * 128) == die && sliceOf (im.line * 128) == slice with
      | none => s
      | some im => State.makeSlots fuel part die slice n
          (State.spillTraffic { s with images := s.images.map fun x => if x.place == im.place then { x with spilled := true } else x }
            part die im.type.slots)
/-- Slots are taken in the slice of a line, and counted (R403, R425). -/
def State.takeSlots (s : State) (part : Option Nat) (line n : Nat) : State :=
  let die := homeDie (128 * line)
  let slice := sliceOf (128 * line)
  ((s.makeSlots (s.images.length + 1) part die slice n).l2Room (s.l2.length + 1) part die slice (10 * n)).chargeTo part bSLOTS n
/-- A spilled image is read back from HBM into slots. -/
def State.reloadImage (s : State) (part : Option Nat) (p : Place) : State :=
  match s.images.find? fun im => im.place == p && im.spilled with
  | none => s
  | some im =>
    let s := (s.takeSlots part im.line im.type.slots).spillTraffic part (homeDie (128 * im.line)) im.type.slots
    { s with images := s.images.map fun x => if x.place == p then { x with spilled := false } else x }
/-- R400: the image of a line, if it has one, is rounded and written to the line, and its slots are freed. -/
def State.resolveLine (s : State) (part : Option Nat) (p : Place) : State :=
  let s := s.reloadImage part p.line
  match s.images.find? fun im => im.place == p.line with
  | none => s
  | some im =>
    (State.l2Use { s with images := s.images.filter fun x => x.place != p.line } part (128 * im.line) im.place true).placeMerge
      im.place im.resolved

/-- A read of n bytes of one line at its home (R225, R400). -/
def State.homeRead (s : State) (r : Req) (ea : Nat) (p : Place) (n : Nat) : State × List Byte :=
  let s := s.resolveLine (some r.part) p
  let s := (s.l2Use (some r.part) ea p false).countFabric r ea p n
  (s, s.placeRead p n)
/-- A write of bytes at offsets from p, within one line, performed at its home (R222, R400). -/
def State.homeWrite (s : State) (r : Req) (ea : Nat) (p : Place) (bs : List (Nat × Byte)) : State :=
  if bs.isEmpty then s
  else
    let s := s.resolveLine (some r.part) p
    let s := (s.l2Use (some r.part) ea p true).countFabric r ea p bs.length
    s.placeMerge p bs

/-- The contributions to a line counted for the update units (R405). -/
def State.countArmed (s : State) (ctx line n : Nat) : State :=
  { s with armings := s.armings.map fun a =>
      let i := line - a.gaddr / 128
      if a.ctx == ctx && decide (a.gaddr / 128 ≤ line) && decide (i < a.nlines) && !a.fired.contains i then
        { a with counts := assocSet a.counts i (assocD a.counts i 0 + n) }
      else a }

/-- A partial image added into the home's image as one event (R399, R401, R402): a new one starts from the line's value, another
type resolves the line first, a spilled one is reloaded (R403). -/
def State.addImage (s : State) (part : Nat) (im : Image) : State :=
  let s := match s.images.find? fun x => x.place == im.place with
    | some x => if x.type == im.type then s.reloadImage (some part) im.place else s.resolveLine (some part) im.place
    | none => s
  let fresh := (s.images.find? fun x => x.place == im.place).isNone
  let s := if fresh then
      let s := (s.takeSlots (some part) im.line im.type.slots).l2Use (some part) (128 * im.line) im.place false
      { s with images := s.images ++ [Image.ofLine im.type im.place im.ctx im.line (s.placeRead im.place 128)] }
    else s
  let s : State := { s with images := s.images.map fun x =>
      if x.place == im.place then { x with elems := x.elems.zipWith (fun a b => a.add im.type b) im.elems } else x }
  s.countArmed im.ctx im.line im.count

end Sys2Proof.Machine
end

