-- ==== Sys2Proof/Machine/Cache.lean ====
section
/-! DEFINITION. The L1 of a core, its pending stores, write-backs, replicas and atomic buffers, and what releases and acquires do:
spec 06 R193-R201, R208; 07 R225, R231, R235; 13 R402. -/

namespace Sys2Proof.Machine

open Sys2Proof

/-! ## Lines (R193, R194) -/

def Core.line? (c : Core) (k : LineKey) : Option Line := c.lines.find? fun l => l.key == k
def Core.setLine (c : Core) (l : Line) : Core := { c with lines := upsert (fun x => x.key == l.key) l c.lines }
/-- A line that can be hit: its lease has not expired (R194). -/
def Core.hot (c : Core) (k : LineKey) (now : Nat) : Option Line := (c.line? k).filter fun l => decide (now < l.lease)
/-- All n bytes from an offset are valid. -/
def Line.holds (l : Line) (off n : Nat) : Bool := (List.range n).all fun i => l.valid.getLsbD (off + i)
def Line.byte (l : Line) (off : Nat) : Byte := l.data.getD off 0
/-- The dirty bytes, by offset. -/
def Line.dirtyBytes (l : Line) : List (Nat × Byte) :=
  (List.range 128).filterMap fun i => if l.dirty.getLsbD i then some (i, l.byte i) else none
/-- Bytes written by the core: valid and dirty, or with `clean` valid only (R208 `.byp`). -/
def Line.put (l : Line) (bs : List (Nat × Byte)) (clean : Bool) : Line :=
  bs.foldl (fun l b =>
    let m : BitVec 128 := BitVec.ofNat 128 (2 ^ b.1)
    { l with data := l.data.set b.1 b.2, valid := l.valid ||| m, dirty := if clean then l.dirty &&& ~~~m else l.dirty ||| m }) l
/-- A fill writes only bytes whose dirty bit is clear, and renews the lease and the permissions (R194). -/
def Line.fill (l : Line) (bytes : List Byte) (now lease : Nat) (pr pw : Bool) (place : Place) : Line :=
  { l with
    data := (List.range 128).map fun i => if l.dirty.getLsbD i then l.byte i else bytes.getD i 0
    valid := BitVec.allOnes 128, lease := now + lease, pr := pr, pw := pw, place := place, since := now }
def Line.empty (k : LineKey) (place : Place) : Line :=
  { key := k, valid := 0, dirty := 0, data := List.replicate 128 0, pr := false, pw := false, lease := 0, place := place, since := 0,
    stream := false }

/-! ## Write-backs (R195, R234, R235; log 7) -/

/-- The core's request for what it sends itself. -/
def Sent.req (x : Sent) (core : Nat) : Req := { part := x.part, engine := false, ctx := x.key.ctx, die := dieOf core }
/-- What was sent is performed at its home; a line that ECC finds uncorrectable takes nothing. -/
def State.performOne (s : State) (core : Nat) (x : Sent) : State :=
  if s.spoiled x.place then s.failPage x.key.ctx (128 * x.key.line)
  else s.homeWrite (x.req core) (128 * x.key.line) x.place x.bytes
/-- The oldest n are performed, in order. -/
def State.performSent (s : State) (core n : Nat) : State :=
  let all := (s.core core).sent
  (all.take n).foldl (fun s x => s.performOne core x) (s.updCore core fun c => { c with sent := all.drop n })
/-- How many of the oldest reach to the last that satisfies p. -/
def countThrough {α : Type} (p : α → Bool) (l : List α) : Nat := (l.zipIdx.foldl (fun n x => if p x.1 then x.2 + 1 else n) 0)
/-- Before the core reads or writes a line at its home, what it sent to the line earlier is performed (R224, R234), and with `write` all
that it sent before its last wide release (R235). -/
def State.performFor (s : State) (core : Nat) (k : LineKey) (write : Bool) : State :=
  let c := s.core core
  s.performSent core (countThrough (fun x => x.key == k || (write && decide (x.epoch < c.epoch))) c.sent)
/-- A line's dirty bytes are sent and cleared; they stay valid. -/
def State.sendLine (s : State) (core : Nat) (r : Req) (k : LineKey) : State :=
  match (s.core core).line? k with
  | none => s
  | some l =>
    if l.dirty == 0 then s
    else s.updCore core fun c =>
      let x : Sent := { key := k, part := r.part, place := l.place, bytes := l.dirtyBytes, epoch := c.epoch, since := l.since }
      { c.setLine { l with dirty := 0 } with sent := c.sent ++ [x] }
/-- The dirty lines of a core that satisfy p. -/
def Core.dirtyKeys (c : Core) (p : LineKey → Bool) : List LineKey :=
  (c.lines.filter fun l => l.dirty != 0 && p l.key).map Line.key
def State.sendLines (s : State) (core : Nat) (r : Req) (p : LineKey → Bool) : State :=
  ((s.core core).dirtyKeys p).foldl (fun s k => s.sendLine core r k) s
/-- A line's dirty bytes are sent and performed. -/
def State.writeBack (s : State) (core : Nat) (r : Req) (k : LineKey) : State := (s.sendLine core r k).performFor core k false
/-- Every dirty byte of the chosen lines is performed at its home. -/
def State.flushLines (s : State) (core : Nat) (r : Req) (p : LineKey → Bool) : State :=
  let s := s.sendLines core r p
  s.performSent core (countThrough (fun x => p x.key) (s.core core).sent)
/-- Every write of the core is performed: what is about to be seen outside the core happens after all of them (R235). -/
def State.settleCore (s : State) (core : Nat) (r : Req) : State :=
  let s := s.sendLines core r fun k => k.ctx == r.ctx
  s.performSent core (s.core core).sent.length
def State.dropLines (s : State) (core : Nat) (p : LineKey → Bool) : State :=
  s.updCore core fun c => { c with lines := c.lines.filter fun l => !p l.key }

/-- A write of another kind to a line is about to be performed at the home for the core: the core's earlier bytes go first in home order
and its copy leaves the L1, so that no later access of its threads reads an older write (R224, R230) (log 27). -/
def State.yieldLine (s : State) (core : Nat) (r : Req) (k : LineKey) : State :=
  ((s.sendLine core r k).performFor core k true).dropLines core fun x => x == k

/-- Room for a new line in its set of 16 ways: a `.str` line goes first, else the way the device picks (R193, R208, log 2); its
dirty bytes are sent (R197). -/
def State.evict (s : State) (core : Nat) (r : Req) (k : LineKey) : State :=
  let set_ := (s.core core).lines.filter fun l => l.key.line % 128 == k.line % 128
  if set_.length < 16 then s
  else
    let victims := if (set_.filter fun l => l.stream).isEmpty then set_ else set_.filter fun l => l.stream
    match victims[s.choose victims.length]? with
    | none => s
    | some v =>
      let s := s.tickFree.sendLine core r v.key
      s.dropLines core fun x => x == v.key
/-- The line, allocated where it is absent. -/
def State.allocLine (s : State) (core : Nat) (r : Req) (k : LineKey) (place : Place) (stream : Bool) : State :=
  match (s.core core).line? k with
  | some l => if stream then s.updCore core fun c => c.setLine { l with stream := true } else s
  | none => (s.evict core r k).updCore core fun c => c.setLine { Line.empty k place with stream := stream }

/-! ## Bytes a thread sees beside the L1 -/

/-- The pending or queued bytes of the thread's own issuing sets at an address (R196, R269): the latest store before request `seq` that
holds the byte. -/
def Core.ownByte (c : Core) (blk grp lane seq ea : Nat) : Option Byte :=
  c.stores.foldl (fun r e =>
    if e.blk == blk && e.grp == grp && e.readers.getLsbD lane && e.line == ea / 128 && decide (e.id < seq) then
      match e.bytes.find? fun b => b.off == ea % 128 with
      | some b => some b.val
      | none => r
    else r) none
/-- A deferred byte of a monitored attempt (R239). -/
def Block.deferredByte (b : Block) (ea : Nat) : Option Byte := (assoc b.deferred (ea / 128)).bind fun l => assoc l (ea % 128)

/-- Earlier stores of a thread to a line (R196). -/
def Core.storesOf (c : Core) (blk grp lane : Nat) : List Store :=
  c.stores.filter fun e => e.blk == blk && e.grp == grp && e.lanes.getLsbD lane
/-- The entries of the store-fault record queue that a block's denied stores hold until their records are delivered: one for each line of a
store (R196; log 81). -/
def Block.deniedStores (b : Block) : Nat :=
  let mine (r : FaultRec) : Bool := r.code.toNat == cPERM || r.code.toNat == cADDRSPACE
  let records := b.groups.flatMap fun g => g.threads.flatMap fun t => (t.imprecise.filter mine).map fun r => (g.idx, r.pco, r.addr.toNat / 128)
  records.eraseDups.length
/-- The entries in use of a core's store-fault record queue, of 64 (R269). -/
def State.faultEntries (s : State) (core : Nat) : Nat :=
  (s.core core).stores.countP (fun e => e.queued) + ((s.blocksOn core).map Block.deniedStores).sum
/-- Whether the two stores are by some common thread to one line (R196). -/
def Store.sameLine (a b : Store) : Bool :=
  a.blk == b.blk && a.grp == b.grp && a.ctx == b.ctx && a.line == b.line && a.lanes &&& b.lanes != 0

/-! ## Replicas (R201) -/

/-- The nearest slice of a requester (R201). -/
def nearestSlice (core : Nat) : Nat := (core % 48) * 2 / 3
/-- A replica that the launch made, its lease unexpired: another launch's may be older than this launch's start. -/
def State.replica? (s : State) (core launch : Nat) (k : LineKey) : Option Replica :=
  s.replicas.find? fun r => r.die == dieOf core && r.slice == nearestSlice core && r.key == k && r.launch == launch && decide (s.gtime < r.lease)

/-! ## Home access of one line by a core -/

/-- A line's 128 bytes read at its home, or under `.ro` from a replica: the device may use one, make one where its slice has room, or do neither
(R201, R215, log 2). -/
def State.lineRead (s : State) (core : Nat) (r : Req) (ro : Bool) (launch : Nat) (k : LineKey) (place : Place) (lease : Nat) :
    State × List Byte :=
  let yes := ro && s.choose 2 == 1
  let s := if ro then s.tickFree else s
  match (if yes then s.replica? core launch k else none) with
  | some x => (s, x.data)
  | none =>
    let (s, bytes) := (s.performFor core k false).homeRead r (k.line * 128) place 128
    let die := dieOf core
    let slice := nearestSlice core
    -- the slots that a slice may need keep their room
    if yes && decide (s.sliceReplicas die slice + 10 * 512 < sliceLines - 1) then
      let s := s.l2Room (s.l2.length + 1) (some r.part) die slice 1
      ({ s with replicas := s.replicas ++ [{ die := die, slice := slice, key := k, data := bytes, lease := s.gtime + lease, launch := launch }] }, bytes)
    else (s, bytes)

/-- The fill of a line from its home (R194, R258). -/
def State.fillLine (s : State) (core : Nat) (r : Req) (ro stream : Bool) (launch : Nat) (k : LineKey) (place : Place)
    (key : EntryKey) (lease : Nat) (pr pw : Bool) : State :=
  let (s, bytes) := s.lineRead core r ro launch k place lease
  let s := (s.grantLease key).allocLine core r k place stream
  s.updCore core fun c => match c.line? k with
    | some l => c.setLine (l.fill bytes s.gtime lease pr pw place)
    | none => c
/-- A checked store's bytes enter the line, valid and dirty, with the lease of the check (R196). -/
def State.storeLine (s : State) (core : Nat) (r : Req) (k : LineKey) (place : Place) (key : EntryKey) (lease : Nat) (pr pw : Bool)
    (stream : Bool) (bs : List (Nat × Byte)) : State :=
  let s := (s.grantLease key).allocLine core r k place stream
  s.updCore core fun c => match c.line? k with
    | some l =>
      -- clean bytes of an expired line were no longer valid (R197)
      let valid := if s.gtime < l.lease then l.valid else l.dirty
      c.setLine ({ l with valid := valid, lease := s.gtime + lease, pr := pr, pw := pw, place := place, since := s.gtime }.put bs false)
    | none => c

/-! ## Atomic buffers (R402) -/

/-- A deferred image of the block takes a contribution (R341). -/
def addDeferred (images : List Image) (im : Image) : List Image :=
  if images.any fun x => x.ctx == im.ctx && x.line == im.line && x.type == im.type then
    images.map fun x =>
      if x.ctx == im.ctx && x.line == im.line && x.type == im.type then
        { x with elems := x.elems.zipWith (fun a b => a.add im.type b) im.elems, count := x.count + im.count }
      else x
  else images ++ [im]

/-- The bytes of a partial image of a line (R399). -/
def RedType.imageBytes (t : RedType) : Nat := if t.isFloat then 128 * t.shadowLines else 128
/-- A core's partial image is added into the home's, after what the core sent before its last release. -/
def State.sendImage (s : State) (core part : Nat) (im : Image) : State :=
  let r : Req := { part := part, engine := false, ctx := im.ctx, die := dieOf core }
  let s := (s.yieldLine core r { ctx := im.ctx, line := im.line }).countFabric r (128 * im.line) im.place im.type.imageBytes
  s.addImage part im
/-- An entry of an atomic buffer is drained; `err` is what an uncorrectable error at the home comes to (R403). -/
def State.drainEntry (err : State → BufferEntry → State) (s : State) (core part : Nat) (e : BufferEntry) : State :=
  if s.spoiled e.image.place then err s e else s.sendImage core part e.image
/-- The page of an entry is marked FAILED: its block is ending anyway. -/
def State.failBuffered (s : State) (e : BufferEntry) : State := s.failPage e.image.ctx (128 * e.image.line)
/-- Every entry of the block is drained, scheduler 0 to 3, in the order allocated: into the homes' images, or in a monitored attempt
into the deferred images (R343). -/
def State.drainWith (err : State → BufferEntry → State) (s : State) (core part blk : Nat) : State :=
  let mine := (List.range 4).flatMap fun sch => (s.core core).buffers.filter fun e => e.blk == blk && e.sched == sch
  let s := s.updCore core fun c => { c with buffers := c.buffers.filter fun e => e.blk != blk }
  match s.block? blk with
  | some b =>
    if b.monitored then s.updBlock blk fun b => { b with images := mine.foldl (fun l e => addDeferred l e.image) b.images }
    else mine.foldl (fun s e => s.drainEntry err core part e) s
  | none => mine.foldl (fun s e => s.drainEntry err core part e) s

/-! ## Release and acquire (R231) -/

/-- The actions of a release at a scope code (R53) once the thread's own loads and stores allow it: the block's buffers drain (R402)
and, at .quad and wider, every dirty byte of the context in the L1 is sent; what is sent later is performed later (R235, log 7). At .pod
other devices have acknowledged, and at .host every write to space 0x1 is performed. -/
def State.releaseWith (err : State → BufferEntry → State) (s : State) (core blk : Nat) (r : Req) (scope : Nat) : State :=
  let s := s.drainWith err core r.part blk
  if scope < 2 then s
  else
    let s := (s.sendLines core r fun k => k.ctx == r.ctx).updCore core fun c => { c with epoch := c.epoch + 1 }
    let done (k : LineKey) : Bool := if scope == 5 then isRemote s.dev (128 * k.line) else scope == 6 && eaSpace (128 * k.line) == 1
    s.performSent core (countThrough (fun x => done x.key) (s.core core).sent)
/-- The release at .pkg that the end of a block makes: everything before it has been performed. -/
def State.releaseLast (s : State) (core blk : Nat) (r : Req) : State := (s.releaseWith State.failBuffered core blk r 4).settleCore core r
/-- The actions of an acquire at a scope code: every line of the context is sent if dirty, then invalid. -/
def State.acquireActs (s : State) (core : Nat) (r : Req) (scope : Nat) : State :=
  if scope < 2 then s
  else (s.sendLines core r fun k => k.ctx == r.ctx).dropLines core fun k => k.ctx == r.ctx

end Sys2Proof.Machine
end

