-- ==== Sys2Proof/Machine/Ending.lean ====
section
/-! DEFINITION. Barrier objects, tickets, weight and the Gazetteer, and what the end of a thread, a group and a block does: spec 03
R86, R101, R117; 13 R383-R397; 11 R354-R357; 15 R455, R457. -/

namespace Sys2Proof.Machine

open Sys2Proof

/-! ## The Surveyor's knowledge (R409): which intervals are ordered before one -/

/-- Adds an interval of a group to what is known under a tag, keeping the latest. -/
def addKnown (l : List (Nat × Nat × Nat × Nat)) (tag blk grp interval : Nat) : List (Nat × Nat × Nat × Nat) :=
  match l.find? fun x => x.1 == tag && x.2.1 == blk && x.2.2.1 == grp with
  | some x => if x.2.2.2 < interval then
      l.map fun y => if y.1 == tag && y.2.1 == blk && y.2.2.1 == grp then (tag, blk, grp, interval) else y
    else l
  | none => l ++ [(tag, blk, grp, interval)]
/-- The same without a tag. -/
def addSeen (l : List (Nat × Nat × Nat)) (x : Nat × Nat × Nat) : List (Nat × Nat × Nat) :=
  match l.find? fun y => y.1 == x.1 && y.2.1 == x.2.1 with
  | some y => if y.2.2 < x.2.2 then l.map fun z => if z.1 == x.1 && z.2.1 == x.2.1 then x else z else l
  | none => l ++ [x]

/-- The group's interval ends, and the next begins (R409). -/
def Group.nextInterval (g : Group) : Group := { g with span := g.span + 1, interval := g.interval + 1 }

/-- What was ordered before a group's present interval, and that interval itself (R409). -/
def Group.seen (g : Group) (blk : Nat) : List (Nat × Nat × Nat) := g.known ++ [(blk, g.idx, g.interval)]
def Block.seen (b : Block) : List (Nat × Nat × Nat) := b.groups.flatMap fun g => g.seen b.id

/-! ## Barrier objects (R383-R385) -/

def Barrier.new (scope num expect : Nat) : Barrier :=
  { scope := scope, num := num, expect := expect, arrived := 0, ended := 0, epend := 0, phase := 0, comm := none, known := [] }
/-- The 16 objects of a block, or of a scope of a launch. -/
def newBarriers (scope expect : Nat) : List Barrier := (List.range 16).map fun n => Barrier.new scope n expect

def findBar (l : List Barrier) (scope num : Nat) : Option Barrier := l.find? fun x => x.scope == scope && x.num == num
def putBar (l : List Barrier) (x : Barrier) : List Barrier := upsert (fun y => y.scope == x.scope && y.num == x.num) x l

/-- An object as a block names it: held in the block at .core scope, else in its launch, or for a bound .pod object with the others of
its communicator (R383). -/
def State.bar? (s : State) (blk scope num : Nat) : Option Barrier :=
  (s.block? blk).bind fun b =>
    if scope == 1 then findBar b.bars 1 num
    else (s.launch? b.launch).bind fun l => (findBar l.bars scope num).bind fun x =>
      match x.comm with
      | none => some x
      | some c => (s.podBars.find? fun p => p.part == l.part && p.comm == c && p.bar.num == num).map PodBar.bar
def State.setBar (s : State) (blk : Nat) (x : Barrier) : State :=
  match s.block? blk with
  | none => s
  | some b =>
    if x.scope == 1 then s.updBlock blk fun b => { b with bars := putBar b.bars x }
    else match x.comm, s.launch? b.launch with
      | some c, some l =>
        { s with podBars := s.podBars.map fun p => if p.part == l.part && p.comm == c && p.bar.num == x.num then { p with bar := x } else p }
      | _, _ => s.updLaunch b.launch fun l => { l with bars := putBar l.bars x }

/-- APH(g, X), 0 at dispatch. -/
def Group.aphOf (g : Group) (scope num : Nat) : BitVec 16 :=
  match g.aph.find? fun x => x.1 == scope && x.2.1 == num with
  | some x => x.2.2
  | none => 0
def Group.setAph (g : Group) (scope num : Nat) (p : BitVec 16) : Group :=
  { g with aph := upsert (fun x => x.1 == scope && x.2.1 == num) (scope, num, p) g.aph }

/-- The blocks with a group arrived in the open phase. -/
def State.arrivedBlocks (s : State) (blk : Nat) (x : Barrier) : List Nat :=
  if x.scope == 1 then [blk]
  else match s.block? blk with
    | none => []
    | some b =>
      let shares (c : Block) : Bool :=
        c.launch == b.launch || (x.comm.isSome && (s.bar? c.id x.scope x.num).any fun y => y.comm == x.comm)
      (s.blocks.filter fun c => shares c && c.groups.any fun g => g.aphOf x.scope x.num == x.phase + 1).map Block.id
/-- Test(X) of R385: at most one phase. -/
def State.testBar (s : State) (blk scope num : Nat) : State :=
  match s.bar? blk scope num with
  | none => s
  | some x =>
    if x.expect ≤ x.arrived + x.ended then
      let part := match (s.block? blk).bind fun b => s.launch? b.launch with | some l => l.part | none => 0
      let s := (s.arrivedBlocks blk x).foldl (fun s id => match s.block? id with
        | some b => if b.onCore then s.drainWith State.failBuffered b.core part id else s
        | none => s) s
      s.setBar blk { x with phase := x.phase + 1, arrived := 0, ended := x.ended + x.epend, epend := 0 }
    else s
/-- Arrive(g, X) of R385. -/
def State.arriveBar (s : State) (blk grp scope num : Nat) : State :=
  match s.bar? blk scope num, s.group? blk grp with
  | some x, some g =>
    let p := x.phase + 1
    let known := (g.seen blk).foldl (fun l (k : Nat × Nat × Nat) => addKnown l p.toNat k.1 k.2.1 k.2.2) x.known
    let s := s.setBar blk { x with arrived := x.arrived + 1, known := known }
    let s := s.updGroup blk grp fun g => let g := g.setAph scope num p; if scope == 1 then g.nextInterval else g
    s.testBar blk scope num
  | _, _ => s
/-- End(g) of R385 for one object. -/
def State.endAt (blk grp : Nat) (s : State) (x : Nat × Nat) : State :=
  match s.bar? blk x.1 x.2, s.group? blk grp with
  | some b, some g =>
    if g.aphOf x.1 x.2 == b.phase + 1 then s.setBar blk { b with epend := b.epend + 1 }
    else (s.setBar blk { b with ended := b.ended + 1 }).testBar blk x.1 x.2
  | _, _ => s
/-- End(g) of R385, on every object of the block and of its launch. -/
def State.endGroup (s : State) (blk grp : Nat) : State :=
  match s.block? blk with
  | none => s
  | some b =>
    let wide := match s.launch? b.launch with | some l => l.bars | none => []
    (b.bars ++ wide).foldl (fun s x => s.endAt blk grp (x.scope, x.num)) s

/-! ## Tickets and weight (R390, R392, R394, R397) -/

/-- COUNTER moves over every ticket already passed; `fuel` bounds how many. -/
def moveCounter (fuel counter : Nat) (passed : List (Nat × Bool)) : Nat :=
  match fuel with
  | 0 => counter
  | n + 1 => if passed.any fun p => p.1 == counter then moveCounter n (counter + 1) passed else counter
/-- A block's ticket is passed, unless it has been. -/
def Launch.passTicket (l : Launch) (b : Nat) (void : Bool) : Launch :=
  if l.passed.any fun p => p.1 == b then l
  else
    let passed := l.passed ++ [(b, void)]
    { l with passed := passed, counter := moveCounter passed.length l.counter passed }
/-- A block passes its ticket by TKPASS or at its exit: what came before it is ordered before later tickets' waits; a second pass does
nothing (R390-R392). -/
def Launch.passOnce (l : Launch) (b : Nat) (seen : List (Nat × Nat × Nat)) : Launch :=
  if l.passed.any fun p => p.1 == b then l
  else { l.passTicket b false with ticketKnown := seen.foldl (fun k (x : Nat × Nat × Nat) => addKnown k b x.1 x.2.1 x.2.2) l.ticketKnown }
/-- Weight returned to the root of a launch (R395). -/
def State.returnWeight (s : State) (launch n : Nat) : State :=
  match s.launch? launch with
  | none => s
  | some l => s.updLaunch l.root fun r => { r with returned := r.returned + n }
/-- A status code of R417: the highest stands. -/
def State.raiseStatus (s : State) (launch code : Nat) : State := s.updLaunch launch fun l => { l with status := max l.status code }

/-! ## The Gazetteer (R354-R357) -/

/-- The index and the tag of a block's entry (R355). -/
def gazHash (l : Launch) (blkidx : Nat) : Nat × Nat :=
  let pid := match l.policy with | some p => p.pid.toNat | none => 0
  let x := (l.lr.code.toNat ^^^ (pid * 2 ^ 32 + blkidx)) ^^^ (l.part % 16 * 2 ^ 60)
  let h := x * 0x9E3779B97F4A7C15 % 2 ^ 64
  (h / 2 ^ 50, h / 2 ^ 30 % 2 ^ 20)
def State.gazLookup (s : State) (l : Launch) (blkidx : Nat) : Option GazEntry :=
  let h := gazHash l blkidx
  s.gaz.find? fun e => e.index == h.1 && e.part == l.part && e.tag == h.2
/-- The new RG and CF of R357's table for a commit at rung r, or none for "unchanged". -/
def gazRow (k : Lookup) (floor ceil r : Nat) : Option (Nat × Nat) :=
  let st := min (max k.rg floor) ceil
  if !k.hit then some (r, 2)
  else if 2 ≤ k.cf then
    if k.probe then
      if r + 1 == st then some (r, 2) else if r == st then none else some (r, k.cf - 1)
    else if r == st then some (r, min (k.cf + 1) 3) else some (r, k.cf - 1)
  else if r == k.rg then some (k.rg, k.cf + 1) else some (r, 1)
/-- R357. -/
def State.gazUpdate (s : State) (l : Launch) (b : Block) : State :=
  match l.policy, b.lookup with
  | some p, some k =>
    if p.pred && !l.lr.det && !b.unfit then
      match gazRow k p.floor p.ceil b.rung with
      | none => s
      | some (rg, cf) =>
        let h := gazHash l b.blkidx
        { s with gaz := upsert (fun e => e.index == h.1) { index := h.1, part := l.part, tag := h.2, rg := rg, cf := cf } s.gaz }
    else s
  | _, _ => s

/-! ## The end of threads, groups and blocks -/

/-- The master of a block's threads (R471). -/
def reqOf (l : Launch) (core : Nat) : Req := { part := l.part, engine := false, ctx := l.ctx, die := dieOf core }

/-- A thread exits (R101) or is killed (R455): its loads and pending records go with it. -/
def Thread.leave (t : Thread) : Thread :=
  { t with st := .exited, trap := none, parkSet := [], horizon := none, denied := none, fetchPark := false, imprecise := [],
           codeRanges := [] }
/-- The lanes leave k0-k11, every open wait and every outstanding load (R86, R87). -/
def Group.dropLanes (g : Group) (m : LaneSet) : Group :=
  { g with
    k := g.k.map fun x => x &&& ~~~m
    waits := g.waits.map fun w => { w with snapshot := w.snapshot &&& ~~~m, arrived := w.arrived &&& ~~~m, guarded := w.guarded &&& ~~~m }
    loads := (g.loads.map fun l => { l with lanes := l.lanes.filter fun x => !m.getLsbD x.lane }).filter fun l => !l.lanes.isEmpty
    threads := g.threads.mapIdx fun i t => if m.getLsbD i then t.leave else t }
/-- A wait that no lane has arrived at is closed. -/
def Group.closeWaits (g : Group) : Group := { g with waits := g.waits.filter fun w => w.arrived != 0 }
def Group.ended (g : Group) : Bool := g.threads.all fun t => !t.live
def Block.allEnded (b : Block) : Bool := b.groups.all Group.ended

/-- Lanes of a group exit or are killed; a group whose last thread goes ends (R385). -/
def State.leaveLanes (s : State) (blk grp : Nat) (m : LaneSet) : State :=
  let was := match s.group? blk grp with | some g => g.ended | none => true
  let clear (g : Group) : Group := if g.ended then { g with arrival := none } else g
  let s := s.updGroup blk grp fun g => clear (g.dropLanes m).closeWaits
  -- nothing of a doomed attempt's end is seen (R352)
  let doomed := (s.block? blk).any fun b => b.doomed.isSome
  match s.group? blk grp with
  | some g => if g.ended && !was && !doomed then s.endGroup blk grp else s
  | none => s

/-- A record's layout of rung and counts in ARG1 of TRIP and COMMIT, which R433 leaves open (log 13). -/
def rungArg (rung count : Nat) : Dword := BitVec.ofNat 64 (rung + count % 2 ^ 32 * 2 ^ 32)

/-- The block's last thread has exited and nothing is deferred: buffers drain, the ticket passes, an unmonitored ladder attempt
commits (R340, R357), and the weight returns as a release at .pkg (R392, R394, R397, R402). -/
def State.endBlock (s : State) (blk : Nat) : State :=
  match s.block? blk with
  | none => s
  | some b =>
    match s.launch? b.launch with
    | none => s
    | some l =>
      let s := s.releaseLast b.core blk (reqOf l b.core)
      let s := s.updLaunch l.id fun l => l.passOnce b.blkidx b.seen
      let s := if l.lr.ladder then
          (s.gazUpdate l b).log evCOMMIT l.part l.queue (nat32 b.blkidx) (rungArg b.rung 0)
        else s
      let s := s.returnWeight l.id b.weight
      s.updBlock blk fun b => { b with st := .ended, weight := 0 }

/-! ## Reading the tile store (R287, R288) -/

/-- The shadow line, where the attempt has drawn one. -/
def Block.shadow? (b : Block) (line : Nat) : Option (List Byte) := assoc b.shadow line
def Block.tileByte (b : Block) (off : Nat) : Byte :=
  match b.shadow? (off / 128) with
  | some l => l.getD (off % 128) 0
  | none => b.tile.read off
def Block.tileBytes (b : Block) (off n : Nat) : List Byte := (List.range n).map fun i => b.tileByte (off + i)
def Block.tileNat (b : Block) (off n : Nat) : Nat := ofBytes (b.tileBytes off n)

/-! ## Cancelling engine operations (R298, R313) -/

/-- Bytes of one unit that moves as one atomic event: a copy's 16 bytes, a word of an element (R305, R307). -/
def EngOp.words (o : EngOp) : Nat :=
  match o.kind with
  | .gather es _ | .scatter es _ => es / 4
  | _ => 1
/-- How many units an operation has: of a gather or scatter, the words of its elements in turn (R305-R307). -/
def EngOp.unitCount (o : EngOp) : Nat :=
  match o.kind with
  | .copy => o.len / 16
  | .quant _ bf16 _ _ => o.len / (if bf16 then 64 else 128)
  | .gather .. | .scatter .. => o.len * o.words
  | _ => 1
/-- Bytes of one quantised block of 32 elements (R306). -/
def quantBytes (elem : Nat) : Nat := if elem == 0 then 16 else if elem ≤ 2 then 24 else 32
/-- Index e of a gather or scatter: as it was read, else as the tile store holds it now (R307). -/
def EngOp.index (o : EngOp) (b : Block) (list e : Nat) : Nat := (assoc o.idx e).getD (b.tileNat (list + 4 * e) 4)
/-- The aligned 128-byte spans of n bytes. -/
def spansOf (a n : Nat) : List Nat := (List.range ((a + n - 1) / 128 + 1 - a / 128)).map fun i => a / 128 + i
/-- Where unit u of a gather or scatter goes. -/
def EngOp.wordAt (o : EngOp) (b : Block) (u : Nat) : Nat :=
  let e := u / o.words
  let w := u % o.words
  match o.kind with
  | .scatter es list => (o.dst.toNat + o.index b list e * es + 4 * w) % 2 ^ 64
  | _ => o.dst.toNat + 4 * u
/-- The spans of the destination that unit u writes. -/
def EngOp.spans (o : EngOp) (b : Block) (u : Nat) : List Nat :=
  let dst := o.dst.toNat
  match o.kind with
  | .copy => spansOf (dst + 16 * u) 16
  | .quant elem _ _ off => spansOf (dst + u * quantBytes elem) (quantBytes elem) ++ spansOf (0x3FFF * 2 ^ 48 + off + u) 1
  | .gather .. | .scatter .. => spansOf (o.wordAt b u) 4
  | _ => []
/-- The units that share a span with one performed, and so on. -/
def closeSpans (fuel : Nat) (spans : Nat → List Nat) (touched todo : List Nat) : List Nat :=
  match fuel with
  | 0 => []
  | n + 1 =>
    let meets (u : Nat) : Bool := (spans u).any fun x => touched.contains x
    match todo.filter meets with
    | [] => []
    | us => us ++ closeSpans n spans (us.flatMap spans) (todo.filter fun u => !us.contains u)
/-- The units a cancelled operation still performs: every span that some unit has touched is completed (R313) (log 47). -/
def EngOp.cancelUnits (o : EngOp) (b : Block) : List Nat :=
  let performed := (List.range o.unitCount).filter fun u => !o.remaining.contains u
  closeSpans (o.remaining.length + 1) (o.spans b) (performed.flatMap (o.spans b)) o.remaining
/-- A cancelled operation: the units it still performs remain; a traverse computes no further chunk or step, and writes what it has
computed (R376). -/
def EngOp.cancelled (o : EngOp) (b : Block) : EngOp :=
  let isTrav := match o.kind with | .trav | .travst .. => true | _ => false
  let us := if o.finished || isTrav then [] else o.cancelUnits b
  { o with canc := o.canc || !o.finished, remaining := us, finished := us.isEmpty && (o.trav.map TravRun.writes).getD [] == [] }
/-- An ACOLL whose contribution has been read: nothing stops it any more (R298, R313). -/
def EngOp.contributed (o : EngOp) : Bool :=
  match o.kind with
  | .coll .. => o.finished
  | _ => false
/-- Whether an operation signals at a sync word. -/
def EngOp.atWord (o : EngOp) : Bool := eaSpace o.done.toNat == 3
/-- Engine operations of a killed block are cancelled as ACANCEL would (R298); one that signals at the block's own tile store ends
with it, and in a monitored attempt nothing of it remains. -/
def State.cancelOps (s : State) (b : Block) (silent : Bool) : State :=
  let one (o : EngOp) : Option EngOp :=
    if o.blk != b.id then some o
    else if b.monitored then none
    else
      let o := { o.cancelled b with silent := silent || o.silent }
      if o.finished && (o.atWord || o.silent) then none else some o
  s.updCore b.core fun c => { c with ops := c.ops.filterMap one }

/-- Store-fault entries enter a core's queue, with the numbers of its next requests (R269). -/
def Core.takeStores (c : Core) (es : List Store) : Core :=
  es.foldl (fun c e => { c with stores := c.stores ++ [{ e with id := c.nextReq }], nextReq := c.nextReq + 1 }) c
/-- The oldest store-fault entry that a partition's dispatcher holds goes to the first open core with a free entry (R275). -/
def State.placeOne (s : State) (part : Nat) : State :=
  match s.part? part with
  | none => s
  | some p =>
    let free (c : Nat) : Bool := decide (s.faultEntries c < 64)
    match p.held, p.openCores.find? free with
    | e :: r, some c => (s.updPart part fun p => { p with held := r }).updCore c fun k => k.takeStores [e]
    | _, _ => s
/-- The entries that the dispatchers hold go to cores as entries free, the oldest first (R275). -/
def State.placeHeld (s : State) : State :=
  s.partitions.foldl (fun s p => p.held.foldl (fun s _ => s.placeOne p.num) s) s
/-- The store-fault entries of a killed block that left the core with its context join those held (R275). -/
def State.placeStores (s : State) (part : Nat) (es : List Store) : State :=
  (s.updPart part fun p => { p with held := p.held ++ es }).placeHeld

/-- A block is killed: every thread is killed, and R455's list for a block with no live thread, its weight returning as a release at .pkg
(R394). One whose attempt has tripped already issues nothing more, and its abort goes on (R353). -/
def State.killBlock (s : State) (blk : Nat) : State :=
  match s.block? blk with
  | none => s
  | some b =>
    if b.st == .ended || b.st == .killed then s
    else
    match s.launch? b.launch with
    | none => s
    | some l =>
      let leave (s : State) : State := (List.range b.groups.length).foldl (fun s g => s.leaveLanes blk g (BitVec.allOnes 64)) s
      if b.doomed.isSome && b.onCore then leave s
      else
      let s := if b.onCore then s.releaseLast b.core blk (reqOf l b.core) else s
      let s := (leave s).cancelOps b false
      let s := s.placeStores l.part b.savedStores
      let s := s.updLaunch l.id fun l => l.passTicket b.blkidx true
      let s := s.returnWeight l.id b.weight
      let s := s.raiseStatus l.id 7
      s.updBlock blk fun b => { b with st := .killed, weight := 0, deferred := [], images := [], drawn := 0, shadow := [], granules := none,
                                       savedStores := [], doomed := none }

/-- MCHECK (R457): an event and no handler; the block ends as KILLB ends it. -/
def State.mcheck (s : State) (blk : Nat) (addr : Nat) : State :=
  match s.block? blk with
  | none => s
  | some b =>
    let (part, queue) := match s.launch? b.launch with | some l => (l.part, l.queue) | none => (0, 0)
    (s.log evMCHECK part queue (nat32 b.blkidx) (BitVec.ofNat 64 addr)).killBlock blk

/-! ## Drains and releases (R231, R402, R403) -/

/-- A drain that meets an uncorrectable error at the home is the access of the block whose contribution it is. -/
def State.mcheckBuffered (s : State) (e : BufferEntry) : State := s.mcheck e.blk (128 * e.image.line)
/-- A block's atomic-buffer entries are drained. -/
def State.drainBuffers (s : State) (core part blk : Nat) : State := s.drainWith State.mcheckBuffered core part blk
/-- The actions of a release. -/
def State.releaseActs (s : State) (core blk : Nat) (r : Req) (scope : Nat) : State := s.releaseWith State.mcheckBuffered core blk r scope
/-- A release whose effect others see at once: everything before it has been performed. -/
def State.releaseNow (s : State) (core blk : Nat) (r : Req) (scope : Nat) : State :=
  let s := s.releaseActs core blk r scope
  if scope < 2 then s else s.settleCore core r

end Sys2Proof.Machine
end

