-- ==== Sys2Proof/Machine/Regs.lean ====
section
/-! DEFINITION. The registers an instruction reads and writes (for REGRANGE, spec 02 R55-R57, and the scoreboard, 03 R83), its
modifier word (R47), and its pairing class (R80). -/

namespace Sys2Proof.Machine

open Sys2Proof

/-- What the scoreboard follows by name (R83): the register files of R57, mask registers, and sync words by their offset. -/
inductive RFile where
  | v | s | p | acc | k | sync
  deriving DecidableEq, Repr
/-- count registers from first on, read or written. -/
structure RegUse where
  file : RFile
  first : Nat
  count : Nat
  write : Bool
  deriving DecidableEq, Repr

def rv (n c : Nat) : RegUse := { file := .v, first := n, count := c, write := false }
def wv (n c : Nat) : RegUse := { file := .v, first := n, count := c, write := true }
def rs (n c : Nat) : RegUse := { file := .s, first := n, count := c, write := false }
def ws (n c : Nat) : RegUse := { file := .s, first := n, count := c, write := true }
def rp (n : Nat) : RegUse := { file := .p, first := n, count := 1, write := false }
def wp (n : Nat) : RegUse := { file := .p, first := n, count := 1, write := true }
def rpAll : RegUse := { file := .p, first := 0, count := 7, write := false }
def wpAll : RegUse := { file := .p, first := 0, count := 7, write := true }
def racc (n c : Nat) : RegUse := { file := .acc, first := n, count := c, write := false }
def wacc (n c : Nat) : RegUse := { file := .acc, first := n, count := c, write := true }
def rk (n : Nat) : RegUse := { file := .k, first := n, count := 1, write := false }
def wk (n : Nat) : RegUse := { file := .k, first := n, count := 1, write := true }
/-- Operand B (R43). -/
def rb (bk : Bool) (b : RegNum) (c : Nat) : RegUse := if bk then rs b.toNat c else rv b.toNat c
/-- Operand C (R47). -/
def rc (x : BitVec 8) (c : Nat) : RegUse := if x.getLsbD 7 then rs (x.toNat % 128) c else rv x.toNat c
/-- C of OP 0x28 (R150). -/
def rcs (x : BitVec 8) : RegUse := if x.getLsbD 7 then rs (x.toNat % 128) 1 else rs 0 0
/-- The base of layout M: v, or s with UB (R207). -/
def rbase (x : BitVec 8) (a : RegNum) (c : Nat) : RegUse := if x.getLsbD 3 then rs a.toNat c else rv a.toNat c
/-- The probe predicate of LD (R207). -/
def wprobe (x : BitVec 8) : RegUse := if x.getLsbD 2 then wp (x.toNat / 16 % 8) else wp 7
/-- Registers of a value of a type (R45). -/
def typeRegs (t : BitVec 4) : Nat := if type64 t then 2 else 1
/-- Registers of LDP and STP by width (R214). -/
def ldpRegs (x : BitVec 8) : Nat := 2 ^ (x.toNat % 4)
/-- Element code 0x5 by rung (R185); itself where no rung gives it a meaning. -/
def elemAt (rung : Nat) (t : BitVec 4) : BitVec 4 :=
  if t == 5 then (if rung == 0 then 0 else if rung == 1 then 3 else t) else t

/-- The registers an instruction names in a block at a rung. MXQ and MXDQ with code 0x5 at a rung that gives it no format name none in their
element block (log 82). -/
def regsOf (rung : Nat) : Instr → List RegUse
  | .cMov o => [rv o.b.toNat 1, wv o.d.toNat 1]
  | .cMovi o => [wv o.d.toNat 1]
  | .cIadd o => [rv o.d.toNat 1, rv o.b.toNat 1, wv o.d.toNat 1]
  | .cIaddImm o => [rv o.d.toNat 1, wv o.d.toNat 1]
  | .cIsub o => [rv o.d.toNat 1, rv o.b.toNat 1, wv o.d.toNat 1]
  | .cImul o => [rv o.d.toNat 1, rv o.b.toNat 1, wv o.d.toNat 1]
  | .cAnd o => [rv o.d.toNat 1, rv o.b.toNat 1, wv o.d.toNat 1]
  | .cOr o => [rv o.d.toNat 1, rv o.b.toNat 1, wv o.d.toNat 1]
  | .cXor o => [rv o.d.toNat 1, rv o.b.toNat 1, wv o.d.toNat 1]
  | .cShl o => [rv o.d.toNat 1, wv o.d.toNat 1]
  | .cShr o => [rv o.d.toNat 1, wv o.d.toNat 1]
  | .cFadd o => [rv o.d.toNat 1, rv o.b.toNat 1, wv o.d.toNat 1]
  | .cFsub o => [rv o.d.toNat 1, rv o.b.toNat 1, wv o.d.toNat 1]
  | .cFmul o => [rv o.d.toNat 1, rv o.b.toNat 1, wv o.d.toNat 1]
  | .cFmax o => [rv o.d.toNat 1, rv o.b.toNat 1, wv o.d.toNat 1]
  | .cBra _ => []
  | .mov o => [rb o.bk o.b 1, wv o.d.toNat 1]
  | .not o => [rb o.bk o.b 1, wv o.d.toNat 1]
  | .popc o => [rb o.bk o.b 1, wv o.d.toNat 1]
  | .clz o => [rb o.bk o.b 1, wv o.d.toNat 1]
  | .ctz o => [rb o.bk o.b 1, wv o.d.toNat 1]
  | .brev o => [rb o.bk o.b 1, wv o.d.toNat 1]
  | .p2v o => [rpAll, wv o.d.toNat 1]
  | .v2p o => [rb o.bk o.b 1, wpAll]
  | .smov o => [rb o.bk o.b 1, ws o.d.toNat 1]
  | .movi o => [wv o.d.toNat 1]
  | .smovi o => [ws o.d.toNat 1]
  | .allot o => [wp (o.d.toNat % 8)]
  | .srd o => [if o.bk then ws o.d.toNat (if sysRegs64.contains o.a.toNat then 2 else 1) else wv o.d.toNat (if sysRegs64.contains o.a.toNat then 2 else 1)]
  | .swr o => [rb o.bk o.b 1]
  | .iadd o => [rv o.a.toNat 1, rb o.bk o.b 1, wv o.d.toNat 1]
  | .isub o => [rv o.a.toNat 1, rb o.bk o.b 1, wv o.d.toNat 1]
  | .iadc o => [rv o.a.toNat 1, rb o.bk o.b 1, rp ((cOf o.m).toNat % 8), wp ((cOf o.m).toNat % 8), wv o.d.toNat 1]
  | .isbb o => [rv o.a.toNat 1, rb o.bk o.b 1, rp ((cOf o.m).toNat % 8), wp ((cOf o.m).toNat % 8), wv o.d.toNat 1]
  | .imul o => [rv o.a.toNat 1, rb o.bk o.b 1, wv o.d.toNat 1]
  | .imulhI32 o => [rv o.a.toNat 1, rb o.bk o.b 1, wv o.d.toNat 1]
  | .imulhN32 o => [rv o.a.toNat 1, rb o.bk o.b 1, wv o.d.toNat 1]
  | .imad o => [rv o.a.toNat 1, rb o.bk o.b 1, rc (cOf o.m) 1, wv o.d.toNat 1]
  | .imadwI32 o => [rv o.a.toNat 1, rb o.bk o.b 1, rc (cOf o.m) 2, wv o.d.toNat 2]
  | .imadwN32 o => [rv o.a.toNat 1, rb o.bk o.b 1, rc (cOf o.m) 2, wv o.d.toNat 2]
  | .idivI32 o => [rv o.a.toNat 1, rb o.bk o.b 1, wv o.d.toNat 1]
  | .idivN32 o => [rv o.a.toNat 1, rb o.bk o.b 1, wv o.d.toNat 1]
  | .iremI32 o => [rv o.a.toNat 1, rb o.bk o.b 1, wv o.d.toNat 1]
  | .iremN32 o => [rv o.a.toNat 1, rb o.bk o.b 1, wv o.d.toNat 1]
  | .iminI32 o => [rv o.a.toNat 1, rb o.bk o.b 1, wv o.d.toNat 1]
  | .iminN32 o => [rv o.a.toNat 1, rb o.bk o.b 1, wv o.d.toNat 1]
  | .imaxI32 o => [rv o.a.toNat 1, rb o.bk o.b 1, wv o.d.toNat 1]
  | .imaxN32 o => [rv o.a.toNat 1, rb o.bk o.b 1, wv o.d.toNat 1]
  | .and o => [rv o.a.toNat 1, rb o.bk o.b 1, wv o.d.toNat 1]
  | .or o => [rv o.a.toNat 1, rb o.bk o.b 1, wv o.d.toNat 1]
  | .xor o => [rv o.a.toNat 1, rb o.bk o.b 1, wv o.d.toNat 1]
  | .andn o => [rv o.a.toNat 1, rb o.bk o.b 1, wv o.d.toNat 1]
  | .shl o => [rv o.a.toNat 1, rb o.bk o.b 1, wv o.d.toNat 1]
  | .shr o => [rv o.a.toNat 1, rb o.bk o.b 1, wv o.d.toNat 1]
  | .sar o => [rv o.a.toNat 1, rb o.bk o.b 1, wv o.d.toNat 1]
  | .rol o => [rv o.a.toNat 1, rb o.bk o.b 1, wv o.d.toNat 1]
  | .ror o => [rv o.a.toNat 1, rb o.bk o.b 1, wv o.d.toNat 1]
  | .shlImm o => [rv o.a.toNat 1, wv o.d.toNat 1]
  | .shrImm o => [rv o.a.toNat 1, wv o.d.toNat 1]
  | .sarImm o => [rv o.a.toNat 1, wv o.d.toNat 1]
  | .rolImm o => [rv o.a.toNat 1, wv o.d.toNat 1]
  | .rorImm o => [rv o.a.toNat 1, wv o.d.toNat 1]
  | .fshl o => [rv o.a.toNat 1, rb o.bk o.b 1, rc (cOf o.m) 1, wv o.d.toNat 1]
  | .bfe o => [rv o.a.toNat 1, rb o.bk o.b 1, wv o.d.toNat 1]
  | .bfi o => [rv o.a.toNat 1, rb o.bk o.b 1, rc (cOf o.m) 1, wv o.d.toNat 1]
  | .byteperm o => [rv o.a.toNat 1, rb o.bk o.b 1, rc (cOf o.m) 1, wv o.d.toNat 1]
  | .lea o => [rv o.a.toNat 2, rb o.bk o.b 1, wv o.d.toNat 2]
  | .iadd64 o => [rv o.a.toNat 2, rb o.bk o.b 2, wv o.d.toNat 2]
  | .isub64 o => [rv o.a.toNat 2, rb o.bk o.b 2, wv o.d.toNat 2]
  | .sadd o => [rs o.a.toNat 1, rcs (cOf o.m), ws o.d.toNat 1]
  | .ssub o => [rs o.a.toNat 1, rcs (cOf o.m), ws o.d.toNat 1]
  | .smul o => [rs o.a.toNat 1, rcs (cOf o.m), ws o.d.toNat 1]
  | .sand o => [rs o.a.toNat 1, rcs (cOf o.m), ws o.d.toNat 1]
  | .sor o => [rs o.a.toNat 1, rcs (cOf o.m), ws o.d.toNat 1]
  | .sxor o => [rs o.a.toNat 1, rcs (cOf o.m), ws o.d.toNat 1]
  | .sshl o => [rs o.a.toNat 1, rcs (cOf o.m), ws o.d.toNat 1]
  | .sshr o => [rs o.a.toNat 1, rcs (cOf o.m), ws o.d.toNat 1]
  | .ssetp _ o => [rs o.a.toNat 1, rcs (cOf o.m), wp (o.d.toNat % 8)]
  | .setp o => [rv o.a.toNat 1, rb o.bk o.b 1, rp ((cOf o.m).toNat % 8), wp (o.d.toNat % 8)]
  | .sel o => [rv o.a.toNat 1, rb o.bk o.b 1, rp ((cOf o.m).toNat % 8), wv o.d.toNat 1]
  | .plop o => [rp (o.a.toNat % 8), rp (o.b.toNat % 8), wp (o.d.toNat % 8)]
  | .idot4I8 o => [rv o.a.toNat 1, rb o.bk o.b 1, rc (cOf o.m) 1, wv o.d.toNat 1]
  | .idot4N8 o => [rv o.a.toNat 1, rb o.bk o.b 1, rc (cOf o.m) 1, wv o.d.toNat 1]
  | .idot4I4 o => [rv o.a.toNat 1, rb o.bk o.b 1, rc (cOf o.m) 1, wv o.d.toNat 1]
  | .idot4N4 o => [rv o.a.toNat 1, rb o.bk o.b 1, rc (cOf o.m) 1, wv o.d.toNat 1]
  | .fadd o => [rv o.a.toNat 1, rb o.bk o.b 1, wv o.d.toNat 1]
  | .fsub o => [rv o.a.toNat 1, rb o.bk o.b 1, wv o.d.toNat 1]
  | .fmul o => [rv o.a.toNat 1, rb o.bk o.b 1, wv o.d.toNat 1]
  | .ffma o => [rv o.a.toNat 1, rb o.bk o.b 1, rc (cOf o.m) 1, wv o.d.toNat 1]
  | .fmin o => [rv o.a.toNat 1, rb o.bk o.b 1, wv o.d.toNat 1]
  | .fmax o => [rv o.a.toNat 1, rb o.bk o.b 1, wv o.d.toNat 1]
  | .fdiv o => [rv o.a.toNat 1, rb o.bk o.b 1, wv o.d.toNat 1]
  | .fsqrt o => [rb o.bk o.b 1, wv o.d.toNat 1]
  | .frcp o => [rb o.bk o.b 1, wv o.d.toNat 1]
  | .frsq o => [rb o.bk o.b 1, wv o.d.toNat 1]
  | .fex2 o => [rb o.bk o.b 1, wv o.d.toNat 1]
  | .flg2 o => [rb o.bk o.b 1, wv o.d.toNat 1]
  | .fsin o => [rb o.bk o.b 1, wv o.d.toNat 1]
  | .fcos o => [rb o.bk o.b 1, wv o.d.toNat 1]
  | .ftanh o => [rb o.bk o.b 1, wv o.d.toNat 1]
  | .frnd o => [rb o.bk o.b 1, wv o.d.toNat 1]
  | .fclass o => [rb o.bk o.b 1, wv o.d.toNat 1]
  | .fsetp o => [rv o.a.toNat 1, rb o.bk o.b 1, rp ((cOf o.m).toNat % 8), wp (o.d.toNat % 8)]
  | .fscale o => [rv o.a.toNat 1, rb o.bk o.b 1, wv o.d.toNat 1]
  | .frexp o => [rv o.a.toNat 1, wv o.d.toNat 2]
  | .dadd o => [rv o.a.toNat 2, rb o.bk o.b 2, wv o.d.toNat 2]
  | .dsub o => [rv o.a.toNat 2, rb o.bk o.b 2, wv o.d.toNat 2]
  | .dmul o => [rv o.a.toNat 2, rb o.bk o.b 2, wv o.d.toNat 2]
  | .dfma o => [rv o.a.toNat 2, rb o.bk o.b 2, rc (cOf o.m) 2, wv o.d.toNat 2]
  | .dmin o => [rv o.a.toNat 2, rb o.bk o.b 2, wv o.d.toNat 2]
  | .dmax o => [rv o.a.toNat 2, rb o.bk o.b 2, wv o.d.toNat 2]
  | .ddiv o => [rv o.a.toNat 2, rb o.bk o.b 2, wv o.d.toNat 2]
  | .dsqrt o => [rb o.bk o.b 2, wv o.d.toNat 2]
  | .drcp o => [rb o.bk o.b 2, wv o.d.toNat 2]
  | .drnd o => [rb o.bk o.b 2, wv o.d.toNat 2]
  | .dsetp o => [rv o.a.toNat 2, rb o.bk o.b 2, rp ((cOf o.m).toNat % 8), wp (o.d.toNat % 8)]
  | .pkaddF16 o => [rv o.a.toNat 1, rb o.bk o.b 1, wv o.d.toNat 1]
  | .pkaddBf16 o => [rv o.a.toNat 1, rb o.bk o.b 1, wv o.d.toNat 1]
  | .pkmulF16 o => [rv o.a.toNat 1, rb o.bk o.b 1, wv o.d.toNat 1]
  | .pkmulBf16 o => [rv o.a.toNat 1, rb o.bk o.b 1, wv o.d.toNat 1]
  | .pkfmaF16 o => [rv o.a.toNat 1, rb o.bk o.b 1, rc (cOf o.m) 1, wv o.d.toNat 1]
  | .pkfmaBf16 o => [rv o.a.toNat 1, rb o.bk o.b 1, rc (cOf o.m) 1, wv o.d.toNat 1]
  | .pkminF16 o => [rv o.a.toNat 1, rb o.bk o.b 1, wv o.d.toNat 1]
  | .pkminBf16 o => [rv o.a.toNat 1, rb o.bk o.b 1, wv o.d.toNat 1]
  | .pkmaxF16 o => [rv o.a.toNat 1, rb o.bk o.b 1, wv o.d.toNat 1]
  | .pkmaxBf16 o => [rv o.a.toNat 1, rb o.bk o.b 1, wv o.d.toNat 1]
  | .pksetpF16 o => [rv o.a.toNat 1, rb o.bk o.b 1, rp ((cOf o.m).toNat % 8), wp (o.d.toNat % 8), wp (o.d.toNat % 8 + 1)]
  | .pksetpBf16 o => [rv o.a.toNat 1, rb o.bk o.b 1, rp ((cOf o.m).toNat % 8), wp (o.d.toNat % 8), wp (o.d.toNat % 8 + 1)]
  | .cvt o => [rv o.a.toNat (typeRegs o.st), wv o.d.toNat (typeRegs o.dt)]
  | .pack o => [rv o.a.toNat (typeRegs o.st), rc (cOf o.m) (typeRegs o.st), rv o.d.toNat 1, wv o.d.toNat 1]
  | .unpk o => [rv o.a.toNat 1, wv o.d.toNat 2]
  | .mxq o => [rv o.a.toNat (wideRegs o.st), wv o.d.toNat (elemRegs (elemAt rung o.dt)), wv (cOf o.m).toNat 1]
  | .mxdq o => [rv o.a.toNat (elemRegs (elemAt rung o.st)), rc (cOf o.m) 1, wv o.d.toNat (wideRegs o.dt)]
  | .fenv o => [rv o.a.toNat 1, rb o.bk o.b 1, wv o.d.toNat 1]
  | .fflg o => [rb o.bk o.b 1, wv o.d.toNat 1]
  | .kmov o => (if o.b == 1 then [rs o.a.toNat 2] else if o.b == 2 then [ws o.d.toNat 2] else [])
  | .kop _ => []
  | .kpop o => [ws o.d.toNat 1]
  | .join _ => []
  | .leave _ => []
  | .waitk _ => []
  | .vote o => [rp (o.a.toNat % 8), if (cOf o.m).toNat / 32 == 3 then ws o.d.toNat 2 else wp (o.d.toNat % 8)]
  | .shfl o => [rv o.a.toNat 1, rb o.bk o.b 1, wv o.d.toNat 1]
  | .redux o => [rv o.a.toNat 1, wv o.d.toNat 1]
  | .matchLanes o => [rv o.a.toNat (if (cOf o.m).toNat / 32 == 1 then 2 else 1), wv o.d.toNat 2]
  | .scan o => [rv o.a.toNat 1, wv o.d.toNat 1]
  | .elect o => [wp (o.d.toNat % 8)]
  | .bra _ => []
  | .brc o => [rp ((cOf o.m).toNat % 8)]
  | .jmp o => [rv o.a.toNat 2]
  | .call o => [wv (cOf o.m).toNat 2]
  | .calli o => [rv o.a.toNat 2, wv o.d.toNat 2]
  | .ret o => [rv (cOf o.m).toNat 2]
  | .exit _ => []
  | .region => []
  | .yield _ => []
  | .nop => []
  | .sleep _ => []
  | .ldN8 o => [rbase (cOf o.m) o.a 2, wv o.d.toNat 1, wprobe (cOf o.m)]
  | .ldI8 o => [rbase (cOf o.m) o.a 2, wv o.d.toNat 1, wprobe (cOf o.m)]
  | .ldN16 o => [rbase (cOf o.m) o.a 2, wv o.d.toNat 1, wprobe (cOf o.m)]
  | .ldI16 o => [rbase (cOf o.m) o.a 2, wv o.d.toNat 1, wprobe (cOf o.m)]
  | .ldB32 o => [rbase (cOf o.m) o.a 2, wv o.d.toNat 1, wprobe (cOf o.m)]
  | .ldB64 o => [rbase (cOf o.m) o.a 2, wv o.d.toNat 2, wprobe (cOf o.m)]
  | .ldB128 o => [rbase (cOf o.m) o.a 2, wv o.d.toNat 4, wprobe (cOf o.m)]
  | .stB8 o => [rbase (cOf o.m) o.a 2, rv o.d.toNat 1]
  | .stB16 o => [rbase (cOf o.m) o.a 2, rv o.d.toNat 1]
  | .stB32 o => [rbase (cOf o.m) o.a 2, rv o.d.toNat 1]
  | .stB64 o => [rbase (cOf o.m) o.a 2, rv o.d.toNat 2]
  | .stB128 o => [rbase (cOf o.m) o.a 2, rv o.d.toNat 4]
  | .ldp o => [rbase (cOf o.m) o.a 1, wv o.d.toNat (ldpRegs (cOf o.m))]
  | .stp o => [rbase (cOf o.m) o.a 1, rv o.d.toNat (ldpRegs (cOf o.m))]
  | .pref o => [rbase (cOf o.m) o.a 2]
  | .cctlIi o => [rv o.a.toNat 2, rb o.bk o.b 1]
  | .cctlWb o => [rv o.a.toNat 2, rb o.bk o.b 1]
  | .cctlInv o => [rv o.a.toNat 2, rb o.bk o.b 1]
  | .cctlWbAll _ => []
  | .cctlInvAll _ => []
  | .cctlRodrop o => [rv o.a.toNat 2, rb o.bk o.b 1]
  | .fenceAr _ => []
  | .fenceAcq _ => []
  | .fenceRel _ => []
  | .fenceSc _ => []
  | .atomB32 o => [rv o.a.toNat 2, rb o.bk o.b 1, wv o.d.toNat 1]
  | .atomB64 o => [rv o.a.toNat 2, rb o.bk o.b 2, wv o.d.toNat 2]
  | .casB32 o => [rv o.a.toNat 2, rb o.bk o.b 1, rv o.d.toNat 1, wv o.d.toNat 1, wp ((cOf o.m).toNat / 16 % 8)]
  | .casB64 o => [rv o.a.toNat 2, rb o.bk o.b 2, rv o.d.toNat 2, wv o.d.toNat 2, wp ((cOf o.m).toNat / 16 % 8)]
  | .ldacqB32 o => [rbase (cOf o.m) o.a 2, wv o.d.toNat 1]
  | .ldacqB64 o => [rbase (cOf o.m) o.a 2, wv o.d.toNat 2]
  | .strelB32 o => [rbase (cOf o.m) o.a 2, rv o.d.toNat 1]
  | .strelB64 o => [rbase (cOf o.m) o.a 2, rv o.d.toNat 2]
  | .drainst _ => []
  | .pgreq o => [rv o.a.toNat 2, rb o.bk o.b 1]
  | .pghint o => [rv o.a.toNat 2, rb o.bk o.b 1]
  | .ldtB32 o => [rbase (cOf o.m) o.a 1, wv o.d.toNat 1]
  | .ldtB128 o => [rbase (cOf o.m) o.a 1, wv o.d.toNat 4]
  | .sttB32 o => [rbase (cOf o.m) o.a 1, rv o.d.toNat 1]
  | .sttB128 o => [rbase (cOf o.m) o.a 1, rv o.d.toNat 4]
  | .tzero o => [rv o.a.toNat 1, rb o.bk o.b 1]
  | .syncarm o => [rs o.a.toNat 1, rb o.bk o.b 1]
  | .syncwait o => [rs o.a.toNat 1, rb o.bk o.b 1, wv o.d.toNat 1]
  | .acopy o => [rs o.a.toNat 8, ws o.d.toNat 1]
  | .acopyQuant o => [rs o.a.toNat 8, rs o.b.toNat 1, ws o.d.toNat 1]
  | .agath o => [rs o.a.toNat 8, rs o.b.toNat 1, ws o.d.toNat 1]
  | .ascat o => [rs o.a.toNat 8, rs o.b.toNat 1, ws o.d.toNat 1]
  | .acoll o => [rs o.a.toNat 8, ws o.d.toNat 1]
  | .adigest o => [rs o.a.toNat 8, ws o.d.toNat 1]
  | .await o => [rv o.a.toNat 2, rb o.bk o.b 1, wv o.d.toNat 1]
  | .acancel o => [rb o.bk o.b 1, wp (o.d.toNat % 8)]
  | .mma o => [rv o.a.toNat (if o.d.toNat / 8 == 10 then 0 else mmaRegs (o.d.toNat / 8)), rs o.b.toNat 1, wacc (o.d.toNat % 8) (if o.d.toNat / 8 == 9 then 2 else 1)]
  | .mmasp o => [rv o.a.toNat (if o.d.toNat / 8 == 10 then 0 else mmaspRegs (o.d.toNat / 8)), rs o.b.toNat 1, wacc (o.d.toNat % 8) (if o.d.toNat / 8 == 9 then 2 else 1)]
  | .accz o => [wacc (o.d.toNat % 8) 1]
  | .accld o => [rs o.a.toNat 1, rs o.b.toNat 1, wacc (o.d.toNat % 8) (if o.d.getLsbD 3 then 2 else 1)]
  | .accst o => [rs o.a.toNat 2, rs o.b.toNat 1, racc (o.d.toNat % 8) (if o.d.getLsbD 3 then 2 else 1)]
  | .accrd o => [racc (o.a.toNat % 8) (if o.a.getLsbD 3 then 2 else 1), wv o.d.toNat 16]
  | .accwr o => [rv o.a.toNat 16, wacc (o.d.toNat % 8) (if o.d.getLsbD 3 then 2 else 1)]
  | .mmaflg o => [rb o.bk o.b 1, wv o.d.toNat 1]
  | .monset o => [rb o.bk o.b 1]
  | .trxchk o => [if o.b == 0 then wp (o.d.toNat % 8) else wv o.d.toNat 1]
  | .trxesc _ => []
  | .trav o => [rs o.a.toNat 4, ws o.d.toNat 1]
  | .travst o => [rs o.a.toNat 4, ws o.d.toNat 1]
  | .barinit o => [rb o.bk o.b 1]
  | .bararr o => [ws o.d.toNat 1]
  | .barwait o => [rb o.bk o.b 1]
  | .bar _ => []
  | .tkwait o => [rb o.bk o.b 1, wp (o.d.toNat % 8)]
  | .tkpass _ => []
  | .spawn o => [rs o.a.toNat 2, rb o.bk o.b 1, wp (o.d.toNat % 8)]
  | .wret o => [rb o.bk o.b 1]
  | .mwait o => [rv o.a.toNat 2, rb o.bk o.b (if (cOf o.m).getLsbD 3 then 2 else 1), wv o.d.toNat (if (cOf o.m).getLsbD 3 then 2 else 1)]
  | .red o => [rv o.a.toNat 2, rb o.bk o.b (if o.d.getLsbD 0 then 2 else 1)]
  | .redfl _ => []
  | .redarm o => [rs o.a.toNat 2, wp (o.d.toNat % 8)]
  | .ownset o => [rs o.a.toNat 4]
  | .launch o => [rs o.a.toNat 2, rb o.bk o.b 1, wp (o.d.toNat % 8)]
  | .trap _ => []
  | .bkpt => []
  | .tret => []
  | .killg _ => []
  | .killb _ => []
  | .fltrd o => [wv o.d.toNat 4]
  | .waitkRelease => []
  | .memberWaitComplete => []
  | .unsatisfiableWait => []
  | .sleepEnd => []
  | .syncwaitComplete => []
  | .collectiveRound => []
  | .awaitComplete => []
  | .syncWordArrival => []
  | .engineCompletionUpdate => []
  | .matrixOpComplete => []
  | .ladderAbort => []
  | .ladderCommit => []
  | .shadowStallResolve => []
  | .traverseComplete => []
  | .barrierArrive => []
  | .barwaitComplete => []
  | .tkwaitComplete => []
  | .mwaitWake => []
  | .updateLineFire => []
  | .impreciseFaultDelivery => []
  | .loadResponse => []
  | .storeCheckResponse => []
  | .leaseWriteback => []
  | .writebackAccept => []
  | .leaseExpiry => []
  | .translationChangeComplete => []
  | .pageMoveComplete => []
  | .settledExpiry => []
  | .hotInterval => []
  | .scrubUncorrectable => []
  | .swapTrigger => []
  | .swapout => []
  | .dispatchDecision => []
  | .launchAccept => []
  | .launchComplete => []
  | .budgetPeriod => []
  | .wdogExpire => []
  | .preemptDone => []
  | .logReadIndexWrite => []
  | .queueTailWrite => []
  | .registerWrite => []
  | .partSet => []
  | .partFree => []
  | .qCreate => []
  | .qConfig => []
  | .qEnable => []
  | .qHalt => []
  | .qDestroy => []
  | .budgetSet => []
  | .budgetRead => []
  | .partParam => []
  | .preempt => []
  | .reopen => []
  | .drain => []
  | .kick => []
  | .xlate => []
  | .migrate => []
  | .commCreate => []
  | .commFree => []
  | .gazClear => []
  | .evlogSet => []
  | .replicaSet => []
  | .evlogStat => []
  | .podSet => []
  | .aclSet => []
  | .pwrState => []
  | .pwrCap => []
  | .eccRead => []
  | .selftest => []
  | .fwLoad => []
  | .attest => []
  | .netSet => []
  | .replicaCompare => []
  | .dbgen => []
  | .brk => []
  | .halt => []
  | .haltb => []
  | .resume => []
  | .step => []
  | .dbgRd => []
  | .dbgWr => []
  | .addressBreakpointHalt => []
  | .hostCxlMemAccess => []
  | .hostSnoop => []
  | .hostAtomicop => []
  | .podRemoteAccess => []
  | .linkDown => []
  | .deviceUnreachable => []
  | .netAckTimeout => []
  | .standbyWake => []
  | .powerOn => []
  | .portReturn => []
  | .powerOff => []
  | .arithmeticClockStep => []
  | .coreReservation => []
  | .flitReplay => []

/-- The modifier word an instruction carries (R47), none for a class that has none. -/
def instrMods : Instr → Option Mods
  | .cMov _ => none
  | .cMovi _ => none
  | .cIadd _ => none
  | .cIaddImm _ => none
  | .cIsub _ => none
  | .cImul _ => none
  | .cAnd _ => none
  | .cOr _ => none
  | .cXor _ => none
  | .cShl _ => none
  | .cShr _ => none
  | .cFadd _ => none
  | .cFsub _ => none
  | .cFmul _ => none
  | .cFmax _ => none
  | .cBra _ => none
  | .mov o => o.m
  | .not o => o.m
  | .popc o => o.m
  | .clz o => o.m
  | .ctz o => o.m
  | .brev o => o.m
  | .p2v o => o.m
  | .v2p o => o.m
  | .smov o => o.m
  | .movi _ => none
  | .smovi _ => none
  | .allot o => o.m
  | .srd o => o.m
  | .swr o => o.m
  | .iadd o => o.m
  | .isub o => o.m
  | .iadc o => o.m
  | .isbb o => o.m
  | .imul o => o.m
  | .imulhI32 o => o.m
  | .imulhN32 o => o.m
  | .imad o => o.m
  | .imadwI32 o => o.m
  | .imadwN32 o => o.m
  | .idivI32 o => o.m
  | .idivN32 o => o.m
  | .iremI32 o => o.m
  | .iremN32 o => o.m
  | .iminI32 o => o.m
  | .iminN32 o => o.m
  | .imaxI32 o => o.m
  | .imaxN32 o => o.m
  | .and o => o.m
  | .or o => o.m
  | .xor o => o.m
  | .andn o => o.m
  | .shl o => o.m
  | .shr o => o.m
  | .sar o => o.m
  | .rol o => o.m
  | .ror o => o.m
  | .shlImm o => o.m
  | .shrImm o => o.m
  | .sarImm o => o.m
  | .rolImm o => o.m
  | .rorImm o => o.m
  | .fshl o => o.m
  | .bfe o => o.m
  | .bfi o => o.m
  | .byteperm o => o.m
  | .lea o => o.m
  | .iadd64 o => o.m
  | .isub64 o => o.m
  | .sadd o => o.m
  | .ssub o => o.m
  | .smul o => o.m
  | .sand o => o.m
  | .sor o => o.m
  | .sxor o => o.m
  | .sshl o => o.m
  | .sshr o => o.m
  | .ssetp _ o => o.m
  | .setp o => o.m
  | .sel o => o.m
  | .plop o => o.m
  | .idot4I8 o => o.m
  | .idot4N8 o => o.m
  | .idot4I4 o => o.m
  | .idot4N4 o => o.m
  | .fadd o => o.m
  | .fsub o => o.m
  | .fmul o => o.m
  | .ffma o => o.m
  | .fmin o => o.m
  | .fmax o => o.m
  | .fdiv o => o.m
  | .fsqrt o => o.m
  | .frcp o => o.m
  | .frsq o => o.m
  | .fex2 o => o.m
  | .flg2 o => o.m
  | .fsin o => o.m
  | .fcos o => o.m
  | .ftanh o => o.m
  | .frnd o => o.m
  | .fclass o => o.m
  | .fsetp o => o.m
  | .fscale o => o.m
  | .frexp o => o.m
  | .dadd o => o.m
  | .dsub o => o.m
  | .dmul o => o.m
  | .dfma o => o.m
  | .dmin o => o.m
  | .dmax o => o.m
  | .ddiv o => o.m
  | .dsqrt o => o.m
  | .drcp o => o.m
  | .drnd o => o.m
  | .dsetp o => o.m
  | .pkaddF16 o => o.m
  | .pkaddBf16 o => o.m
  | .pkmulF16 o => o.m
  | .pkmulBf16 o => o.m
  | .pkfmaF16 o => o.m
  | .pkfmaBf16 o => o.m
  | .pkminF16 o => o.m
  | .pkminBf16 o => o.m
  | .pkmaxF16 o => o.m
  | .pkmaxBf16 o => o.m
  | .pksetpF16 o => o.m
  | .pksetpBf16 o => o.m
  | .cvt o => o.m
  | .pack o => o.m
  | .unpk o => o.m
  | .mxq o => o.m
  | .mxdq o => o.m
  | .fenv o => o.m
  | .fflg o => o.m
  | .kmov o => o.m
  | .kop o => o.m
  | .kpop o => o.m
  | .join o => o.m
  | .leave o => o.m
  | .waitk o => o.m
  | .vote o => o.m
  | .shfl o => o.m
  | .redux o => o.m
  | .matchLanes o => o.m
  | .scan o => o.m
  | .elect o => o.m
  | .bra o => o.m
  | .brc o => o.m
  | .jmp o => o.m
  | .call o => o.m
  | .calli o => o.m
  | .ret o => o.m
  | .exit o => o.m
  | .region => none
  | .yield o => o.m
  | .nop => none
  | .sleep o => o.m
  | .ldN8 o => o.m
  | .ldI8 o => o.m
  | .ldN16 o => o.m
  | .ldI16 o => o.m
  | .ldB32 o => o.m
  | .ldB64 o => o.m
  | .ldB128 o => o.m
  | .stB8 o => o.m
  | .stB16 o => o.m
  | .stB32 o => o.m
  | .stB64 o => o.m
  | .stB128 o => o.m
  | .ldp o => o.m
  | .stp o => o.m
  | .pref o => o.m
  | .cctlIi o => o.m
  | .cctlWb o => o.m
  | .cctlInv o => o.m
  | .cctlWbAll o => o.m
  | .cctlInvAll o => o.m
  | .cctlRodrop o => o.m
  | .fenceAr o => o.m
  | .fenceAcq o => o.m
  | .fenceRel o => o.m
  | .fenceSc o => o.m
  | .atomB32 o => o.m
  | .atomB64 o => o.m
  | .casB32 o => o.m
  | .casB64 o => o.m
  | .ldacqB32 o => o.m
  | .ldacqB64 o => o.m
  | .strelB32 o => o.m
  | .strelB64 o => o.m
  | .drainst o => o.m
  | .pgreq o => o.m
  | .pghint o => o.m
  | .ldtB32 o => o.m
  | .ldtB128 o => o.m
  | .sttB32 o => o.m
  | .sttB128 o => o.m
  | .tzero o => o.m
  | .syncarm o => o.m
  | .syncwait o => o.m
  | .acopy o => o.m
  | .acopyQuant o => o.m
  | .agath o => o.m
  | .ascat o => o.m
  | .acoll o => o.m
  | .adigest o => o.m
  | .await o => o.m
  | .acancel o => o.m
  | .mma o => o.m
  | .mmasp o => o.m
  | .accz o => o.m
  | .accld o => o.m
  | .accst o => o.m
  | .accrd o => o.m
  | .accwr o => o.m
  | .mmaflg o => o.m
  | .monset o => o.m
  | .trxchk o => o.m
  | .trxesc o => o.m
  | .trav o => o.m
  | .travst o => o.m
  | .barinit o => o.m
  | .bararr o => o.m
  | .barwait o => o.m
  | .bar o => o.m
  | .tkwait o => o.m
  | .tkpass o => o.m
  | .spawn o => o.m
  | .wret o => o.m
  | .mwait o => o.m
  | .red o => o.m
  | .redfl o => o.m
  | .redarm o => o.m
  | .ownset o => o.m
  | .launch o => o.m
  | .trap o => o.m
  | .bkpt => none
  | .tret => none
  | .killg o => o.m
  | .killb o => o.m
  | .fltrd o => o.m
  | .waitkRelease => none
  | .memberWaitComplete => none
  | .unsatisfiableWait => none
  | .sleepEnd => none
  | .syncwaitComplete => none
  | .collectiveRound => none
  | .awaitComplete => none
  | .syncWordArrival => none
  | .engineCompletionUpdate => none
  | .matrixOpComplete => none
  | .ladderAbort => none
  | .ladderCommit => none
  | .shadowStallResolve => none
  | .traverseComplete => none
  | .barrierArrive => none
  | .barwaitComplete => none
  | .tkwaitComplete => none
  | .mwaitWake => none
  | .updateLineFire => none
  | .impreciseFaultDelivery => none
  | .loadResponse => none
  | .storeCheckResponse => none
  | .leaseWriteback => none
  | .writebackAccept => none
  | .leaseExpiry => none
  | .translationChangeComplete => none
  | .pageMoveComplete => none
  | .settledExpiry => none
  | .hotInterval => none
  | .scrubUncorrectable => none
  | .swapTrigger => none
  | .swapout => none
  | .dispatchDecision => none
  | .launchAccept => none
  | .launchComplete => none
  | .budgetPeriod => none
  | .wdogExpire => none
  | .preemptDone => none
  | .logReadIndexWrite => none
  | .queueTailWrite => none
  | .registerWrite => none
  | .partSet => none
  | .partFree => none
  | .qCreate => none
  | .qConfig => none
  | .qEnable => none
  | .qHalt => none
  | .qDestroy => none
  | .budgetSet => none
  | .budgetRead => none
  | .partParam => none
  | .preempt => none
  | .reopen => none
  | .drain => none
  | .kick => none
  | .xlate => none
  | .migrate => none
  | .commCreate => none
  | .commFree => none
  | .gazClear => none
  | .evlogSet => none
  | .replicaSet => none
  | .evlogStat => none
  | .podSet => none
  | .aclSet => none
  | .pwrState => none
  | .pwrCap => none
  | .eccRead => none
  | .selftest => none
  | .fwLoad => none
  | .attest => none
  | .netSet => none
  | .replicaCompare => none
  | .dbgen => none
  | .brk => none
  | .halt => none
  | .haltb => none
  | .resume => none
  | .step => none
  | .dbgRd => none
  | .dbgWr => none
  | .addressBreakpointHalt => none
  | .hostCxlMemAccess => none
  | .hostSnoop => none
  | .hostAtomicop => none
  | .podRemoteAccess => none
  | .linkDown => none
  | .deviceUnreachable => none
  | .netAckTimeout => none
  | .standbyWake => none
  | .powerOn => none
  | .portReturn => none
  | .powerOff => none
  | .arithmeticClockStep => none
  | .coreReservation => none
  | .flitReplay => none

/-- Pairing classes (R80). -/
inductive PairClass where
  | a | x | m | c | n
  deriving DecidableEq, Repr
/-- R80; a compact instruction has the class of its base instruction. -/
def pairClass : Instr → PairClass
  | .cMov _ | .cMovi _ | .cIadd _ | .cIaddImm _ | .cIsub _ | .cImul _ | .cAnd _ | .cOr _ | .cXor _ | .cShl _ | .cShr _
  | .cFadd _ | .cFsub _ | .cFmul _ | .cFmax _ | .mov _ | .not _ | .popc _ | .clz _ | .ctz _ | .brev _ | .p2v _ | .v2p _
  | .movi _ | .iadd _ | .isub _ | .iadc _ | .isbb _ | .imul _ | .imulhI32 _ | .imulhN32 _ | .imad _ | .imadwI32 _
  | .imadwN32 _ | .iminI32 _ | .iminN32 _ | .imaxI32 _ | .imaxN32 _ | .and _ | .or _ | .xor _ | .andn _ | .shl _
  | .shr _ | .sar _ | .rol _ | .ror _ | .shlImm _ | .shrImm _ | .sarImm _ | .rolImm _ | .rorImm _ | .fshl _ | .bfe _
  | .bfi _ | .byteperm _ | .lea _ | .iadd64 _ | .isub64 _ | .setp _ | .sel _ | .plop _ | .idot4I8 _ | .idot4N8 _
  | .idot4I4 _ | .idot4N4 _ | .fadd _ | .fsub _ | .fmul _ | .ffma _ | .fmin _ | .fmax _ | .fsetp _ | .fscale _
  | .frexp _ | .pkaddF16 _ | .pkaddBf16 _ | .pkmulF16 _ | .pkmulBf16 _ | .pkfmaF16 _ | .pkfmaBf16 _ | .pkminF16 _
  | .pkminBf16 _ | .pkmaxF16 _ | .pkmaxBf16 _ | .pksetpF16 _ | .pksetpBf16 _ | .cvt _ | .pack _ | .unpk _ | .fenv _
  | .fflg _ => .a
  | .idivI32 _ | .idivN32 _ | .iremI32 _ | .iremN32 _ | .fdiv _ | .fsqrt _ | .frcp _ | .frsq _ | .fex2 _ | .flg2 _
  | .fsin _ | .fcos _ | .ftanh _ | .frnd _ | .fclass _ | .dadd _ | .dsub _ | .dmul _ | .dfma _ | .dmin _ | .dmax _
  | .ddiv _ | .dsqrt _ | .drcp _ | .drnd _ | .dsetp _ | .mxq _ | .mxdq _ => .x
  | .ldN8 _ | .ldI8 _ | .ldN16 _ | .ldI16 _ | .ldB32 _ | .ldB64 _ | .ldB128 _ | .stB8 _ | .stB16 _ | .stB32 _
  | .stB64 _ | .stB128 _ | .ldp _ | .stp _ | .pref _ => .m
  | .cBra _ | .bra _ | .brc _ | .jmp _ | .call _ | .calli _ | .ret _ | .region | .yield _ | .nop | .sleep _ => .c
  | _ => .n
/-- R81: set 1 of the first class and set 2 of the second issue in one cycle. -/
def pairs (first second : PairClass) : Bool :=
  match first, second with
  | .n, _ => false
  | _, .n => false
  | .a, _ => true
  | _, .a => true
  | p, q => p != q

/-- REGRANGE (R57): the use lies within the allotments n of v and m of s. Predicates and tiles are checked elsewhere or always
in range. -/
def RegUse.inRange (u : RegUse) (vallot uallot accs : Nat) : Bool :=
  u.count == 0 ||
  match u.file with
  | .v => decide (u.first + u.count ≤ vallot)
  | .s => decide (u.first + u.count ≤ uallot)
  | .acc => decide (u.first + u.count ≤ accs)
  | .p | .k | .sync => true

/-- The mask register a cross-lane instruction names (R111). -/
def rkn (c : BitVec 8) : List RegUse := if c.getLsbD 4 then [rk (c.toNat % 16)] else []
/-- The mask registers an instruction reads or writes (R105-R111). -/
def masksOf : Instr → List RegUse
  | .kmov o => if o.b == 0 then [rk o.a.toNat, wk o.d.toNat] else if o.b == 1 then [wk o.d.toNat] else [rk o.a.toNat]
  | .kop o =>
    let op := (cOf o.m).toNat % 8
    (if op < 5 then [rk o.a.toNat] else []) ++ (if op < 4 then [rk o.b.toNat] else []) ++ [wk o.d.toNat]
  | .kpop o => [rk o.a.toNat]
  | .join o => [rk o.d.toNat, wk o.d.toNat]
  | .leave o => [rk o.d.toNat, wk o.d.toNat]
  | .waitk o => [rk o.d.toNat]
  | .vote o => rkn (cOf o.m)
  | .shfl o => rkn (cOf o.m)
  | .redux o => rkn (cOf o.m)
  | .matchLanes o => rkn (cOf o.m)
  | .scan o => rkn (cOf o.m)
  | .elect o => rkn (cOf o.m)
  | _ => []

/-- Two uses share a register. -/
def RegUse.overlaps (a b : RegUse) : Bool :=
  a.file == b.file && a.count != 0 && b.count != 0 && decide (a.first < b.first + b.count) && decide (b.first < a.first + a.count)

end Sys2Proof.Machine
end

