-- ==== Sys2Proof/Machine/Ops.lean ====
section
/-! DEFINITION. The issue set an instruction is executed by (spec 03 R78), the order of its checks (02 R55-R58), fault records, taking a
fault and returning from its handler (15 R440-R454), boundary instructions (03 R94), and the shapes in which instructions act:
per lane (R58), once for the set (04 R121), and as events. -/

namespace Sys2Proof.Machine

open Sys2Proof

/-! ## The issue set -/

/-- The issue set under execution with the block, group and launch it belongs to. -/
structure Sel where
  issue : Issue
  b : Block
  g : Group
  l : Launch

/-- None where State.issue names no resident group. -/
def State.sel (s : State) : Option Sel :=
  s.issue.bind fun i => (s.block? i.blk).bind fun b => (b.groups[i.grp]?).bind fun g => (s.launch? b.launch).map fun l =>
    { issue := i, b := b, g := g, l := l }

def Sel.blk (c : Sel) : Nat := c.issue.blk
def Sel.grp (c : Sel) : Nat := c.issue.grp
def Sel.req (c : Sel) : Req := reqOf c.l c.b.core
/-- The lanes of the set, ascending. -/
def Sel.lanes (c : Sel) : List Nat := lanesOf c.issue.lanes
/-- A lane's thread; a lane outside the group reads as one that has exited. -/
def Thread.blank : Thread :=
  { pc := 0, region := 0, st := .exited, v := [], p := 0, fpenv := 1, fpflags := 0, starve := 0, horizon := none, parkSet := [],
    fetchPark := false, denied := none, trap := none, last := none, imprecise := [], codeRanges := [], armRecord := none }
def Group.thread (g : Group) (lane : Nat) : Thread := g.threads.getD lane Thread.blank
def Sel.thread (c : Sel) (lane : Nat) : Thread := c.g.thread lane
/-- The guard-true lanes of the set (R58), ascending. -/
def Sel.guarded (c : Sel) (i : Instr) : List Nat := c.lanes.filter fun l => guardOk (instrMods i) (c.thread l)

/-! ## Fault records (R440-R442) -/

/-- A fault before it has a record. -/
structure Fail where
  code : Nat
  addr : Dword
  detail : Word
  deriving DecidableEq, Repr
def mkFail (code : Nat) (addr : Nat) (detail : Nat) : Fail :=
  { code := code, addr := BitVec.ofNat 64 addr, detail := nat32 detail }

/-- Bits 63:0 of a record (R440). -/
def FaultRec.low (r : FaultRec) : Dword :=
  concat r.detail (nat32 (r.grp.toNat * 2 ^ 14 + r.lane.toNat * 2 ^ 8 + r.code.toNat))
/-- Word i of the 256 bits, i = 0 the lowest (R456). -/
def FaultRec.word (r : FaultRec) (i : Nat) : Word :=
  match i with
  | 0 => lo32 r.low
  | 1 => r.detail
  | 2 => lo32 r.addr
  | 3 => hi32 r.addr
  | 4 => r.pco
  | 5 => r.rego
  | 6 => r.block
  | _ => r.seql

/-- The record of a fault of a thread, with the number its FAULT event is about to take. -/
def State.record (s : State) (b : Block) (l : Launch) (grp lane : Nat) (pc region : Dword) (f : Fail) : FaultRec :=
  { seql := nat32 s.nextSeq, block := nat32 b.blkidx, rego := lo32 (region - l.lr.code), pco := lo32 (pc - l.lr.code),
    addr := f.addr, detail := f.detail, grp := BitVec.ofNat 7 grp, lane := BitVec.ofNat 6 lane, code := BitVec.ofNat 8 f.code }
/-- Its FAULT event (R441), or for a park its PAGE event (R267). -/
def State.logRecord (s : State) (type : BitVec 8) (l : Launch) (r : FaultRec) : State :=
  s.log type l.part l.queue r.block r.low

/-! ## Taking a fault and returning (R443-R450, R454) -/

/-- Trap entry (R446). -/
def Thread.enterTrap (t : Thread) (handler resume : Dword) (r : FaultRec) : Thread :=
  { t with
    trap := some { resume := resume, region := t.region, record := r }
    last := some r, st := .runnable, pc := handler, region := handler, armRecord := none }
/-- Return from a handler (R454); none outside one. -/
def Thread.leaveTrap (t : Thread) : Option Thread :=
  t.trap.map fun k => { t with trap := none, st := .runnable, pc := k.resume, region := k.region }

/-- A logged record is delivered (R443): the handler, or the end of the block where there is none or the thread is in one (R449). -/
def State.deliver (s : State) (blk grp lane : Nat) (resume : Dword) (r : FaultRec) : State :=
  match s.block? blk with
  | none => s
  | some b =>
    let handler := match s.launch? b.launch with | some l => l.lr.handler | none => 0
    let trapped := match s.thread? blk grp lane with | some t => t.trapped | none => true
    if handler == 0 || trapped then s.killBlock blk
    else s.updGroup blk grp fun g =>
      { g.updThread lane (fun t => t.enterTrap handler resume r) with latch := none }

/-- A fault one lane raises, with its resume PC; a `late` one is imprecise (class S). -/
structure LaneFail where
  lane : Nat
  fail : Fail
  resume : Dword
  late : Bool := false
  deriving DecidableEq, Repr

/-- The threads stay at the instruction and issue it again later (R94, R434). -/
def State.holdLanes (s : State) (blk grp : Nat) (lanes : LaneSet) : State :=
  s.updGroup blk grp fun g =>
    { g with threads := g.threads.mapIdx fun i t => if lanes.getLsbD i then t.setState (.waiting .hold) else t }

/-- A thread that stays at an instruction that has not been performed. -/
def Thread.holds (t : Thread) : Bool :=
  match t.st with
  | .waiting .hold | .waiting .shadow | .waiting .full => true
  | _ => false
/-- What an event does to some lanes, unless one of them would stay where it stopped for want of room in the log (R434) or of a unit: then
it does not happen yet. -/
def State.wholly (t : State) (blk grp : Nat) (lanes : LaneSet) : Option State :=
  if (lanesOf lanes).any fun l => (t.thread? blk grp l).any Thread.holds then none else some t

/-- The records of faults raised by one instruction of one set, in ascending lane order (R441); a thread that finds the log full stays
where it is (R434). An imprecise one is never lost: step issues no set that would leave its event held (State.issueSet). Answers the
records to deliver. -/
def State.logFails (s : State) (b : Block) (l : Launch) (grp : Nat) (pc : Dword) (fs : List LaneFail) :
    State × List (LaneFail × FaultRec) :=
  match fs with
  | [] => (s, [])
  | f :: r =>
    if s.logFull && !f.late then State.logFails (s.holdLanes b.id grp (laneBit f.lane)) b l grp pc r
    else
      let region := match s.thread? b.id grp f.lane with | some t => t.region | none => 0
      let x := s.record b l grp f.lane pc region f.fail
      let (s, rs) := State.logFails (s.logRecord evFAULT l x) b l grp pc r
      (s, (f, x) :: rs)
/-- An imprecise record waits for its thread's next boundary (R444); one of a thread that has exited or been killed goes nowhere (R101,
R275). -/
def State.keepRecord (s : State) (blk grp lane : Nat) (r : FaultRec) : State :=
  s.updThread blk grp lane fun t => if t.live then { t with imprecise := t.imprecise ++ [r] } else t
/-- Faults of the set (R442): logged, then the precise ones delivered. -/
def Sel.raise (c : Sel) (s : State) (fs : List LaneFail) : State :=
  let (s, rs) := s.logFails c.b c.l c.grp c.issue.pc fs
  rs.foldl (fun s x => if x.1.late then s.keepRecord c.blk c.grp x.1.lane x.2 else s.deliver c.blk c.grp x.1.lane x.1.resume x.2) s
/-- The same fault of class P in each of some lanes. -/
def Sel.raiseEach (c : Sel) (s : State) (lanes : List Nat) (f : Fail) : State :=
  c.raise s (lanes.map fun l => { lane := l, fail := f, resume := c.issue.pc })

/-- An imprecise record of a thread (R444) that no instruction raises at its issue: logged at once, delivered at its next boundary. -/
def State.raiseImprecise (s : State) (blk grp lane : Nat) (pc : Dword) (f : Fail) : State :=
  match s.block? blk with
  | none => s
  | some b =>
    match s.launch? b.launch, s.thread? blk grp lane with
    | some l, some t =>
      let r := s.record b l grp lane pc t.region f
      (s.logRecord evFAULT l r).keepRecord blk grp lane r
    | _, _ => s

/-- A write to a register of the latched fragment empties the latch (R324). -/
def Group.spoil (g : Group) (uses : List RegUse) : Group :=
  match g.latch with
  | some (first, _, n) => if uses.any fun u => u.write && u.overlaps (rv first n) then { g with latch := none } else g
  | none => g

/-! ## The order of checks (R55-R58) -/

/-- The 32 bits at the PC of an instruction (R56), zero-extended for a compact one. -/
def instrWord (i : Instr) : Word :=
  match encode i with
  | some bs => nat32 (ofBytes (bs.take 4))
  | none => 0

/-- Every register the instruction names is within the allotments in force (R57). -/
def Sel.rangeOk (c : Sel) (i : Instr) : Bool :=
  (regsOf c.b.rung i).all fun u => u.inRange c.g.vallot c.g.uallot c.l.lr.accs

/-- How a thread's instruction is executed: by the issue set that State.issue names; REGRANGE first (R55); the platform stays as it
is, since no instruction of a thread changes it. -/
def runSet (i : Instr) (s : State) (f : Sel → State) : Host.Outcome State Fault Refusal :=
  match s.sel with
  | none => .fault .noIssue
  | some c =>
    let t := if c.rangeOk i then f c else c.raiseEach s c.lanes (mkFail cREGRANGE 0 (instrWord i).toNat)
    .next { t with toPlat := s.toPlat }

/-- What an event leaves where its rule says that it does not happen (a response nothing waits for, a wait that is not over): nothing but
the model's own note of it (log 3). -/
def State.idle (s : State) : State := { s with subject := .idle }
/-- How an event or command is executed: `none` where it does not happen. -/
def runEvent (s : State) (t : Option State) : Host.Outcome State Fault Refusal :=
  match t with
  | none => .next s.idle
  | some t => .next { t with toPlat := s.toPlat }
/-- The same for the rows that may change the platform. -/
def runPlatform (s : State) (t : Option State) : Host.Outcome State Fault Refusal := .next (t.getD s.idle)

/-! ## Lane by lane -/

/-- What an instruction does in one thread. -/
inductive LaneOut where
  | done (t : Thread)
  | raise (f : Fail)

def LaneOut.apply (o : LaneOut) (t : Thread) : Thread :=
  match o with
  | .done t' => t'
  | .raise _ => t
def LaneOut.fail (o : LaneOut) : Option Fail :=
  match o with
  | .done _ => none
  | .raise f => some f
/-- The PC moves past the instruction where nothing is raised. -/
def LaneOut.pass (o : LaneOut) (len : Nat) : LaneOut :=
  match o with
  | .done t => .done (t.advance len)
  | .raise f => .raise f

/-- One lane of the set: outside it nothing, guard-false only the PC (R58). -/
def Sel.laneStep (c : Sel) (i : Instr) (f : Nat → Thread → LaneOut) (lane : Nat) (t : Thread) : LaneOut :=
  if c.issue.lanes.getLsbD lane then
    if guardOk (instrMods i) t then f lane t else .done (t.advance (Instr.len i))
  else .done t
/-- The lanes that fault, ascending. -/
def Sel.fails (c : Sel) (step : Nat → Thread → LaneOut) : List LaneFail :=
  c.lanes.filterMap fun l => (step l (c.thread l)).fail.map fun f => { lane := l, fail := f, resume := c.issue.pc }
/-- All threads of the group after one instruction, and the faults it raised. -/
def Sel.apply (c : Sel) (s : State) (step : Nat → Thread → LaneOut) : State :=
  c.raise (s.updGroup c.blk c.grp fun g => { g with threads := g.threads.mapIdx fun l t => (step l t).apply t }) (c.fails step)

/-- An instruction that acts in each guard-true thread by itself; the PC moves past it where it raises nothing. -/
def perLane (i : Instr) (s : State) (f : Group → Nat → Thread → LaneOut) : Host.Outcome State Fault Refusal :=
  runSet i s fun c => c.apply s (c.laneStep i fun l t => (f c.g l t).pass (Instr.len i))
/-- The same where nothing can be raised. -/
def pureLane (i : Instr) (s : State) (f : Group → Nat → Thread → Thread) : Host.Outcome State Fault Refusal :=
  perLane i s fun g l t => .done (f g l t)
/-- An instruction that sets the PC itself (R98-R100). -/
def jumpLane (i : Instr) (s : State) (f : Group → Nat → Thread → LaneOut) : Host.Outcome State Fault Refusal :=
  runSet i s fun c => c.apply s (c.laneStep i (f c.g))

/-! ## Once for the set (R121) -/

/-- A change of each thread of a group, by lane. -/
def Group.each (g : Group) (f : Nat → Thread → Thread) : Group := { g with threads := g.threads.mapIdx f }
/-- Every lane of the set but those `stay` names moves past the instruction. -/
def Sel.advanceBut (c : Sel) (s : State) (i : Instr) (stay : Nat → Bool) : State :=
  s.updGroup c.blk c.grp fun g => g.each fun l t => if c.issue.lanes.getLsbD l && !stay l then t.advance (Instr.len i) else t
/-- Every lane of the set moves past the instruction. -/
def Sel.advanceAll (c : Sel) (s : State) (i : Instr) : State :=
  s.updGroup c.blk c.grp fun g =>
    { g with threads := g.threads.mapIdx fun l t => if c.issue.lanes.getLsbD l then t.advance (Instr.len i) else t }
/-- A write of group state, done once when some thread is guard-true; `f` gets the lowest guard-true thread and the guard-true lanes. -/
def onceGroup (i : Instr) (s : State) (f : Thread → LaneSet → Group → Group) : Host.Outcome State Fault Refusal :=
  runSet i s fun c =>
    let s := match c.guarded i with
      | [] => s
      | l :: r => s.updGroup c.blk c.grp (f (c.thread l) (laneSet (l :: r)))
    c.advanceAll s i

/-! ## Boundary instructions (R93, R94) -/

/-- An earlier load of the lane is outstanding; a prefetch is none (R215). -/
def Group.loading (g : Group) (lane : Nat) : Bool := g.loads.any fun l => !l.prefetch && l.lanes.any fun x => x.lane == lane
/-- The whole set holds until the condition that stops some of its lanes is over. -/
def Sel.hold (c : Sel) (s : State) : State := s.holdLanes c.blk c.grp c.issue.lanes
/-- The set is not ready, since the unit it needs cannot accept it (R27, R83, R196, R295, R426): nothing is issued. -/
def Sel.full (c : Sel) (s : State) : State :=
  s.updGroup c.blk c.grp fun g =>
    { g with threads := g.threads.mapIdx fun i t => if c.issue.lanes.getLsbD i then t.setState (.waiting .full) else t }
/-- R94 before the instruction is performed: the region entry of the threads is the instruction. -/
def Sel.enterRegion (c : Sel) (s : State) (lanes : List Nat) : State :=
  s.updGroup c.blk c.grp fun g => { g with threads := g.threads.mapIdx fun l t => if lanes.contains l then t.setRegion c.issue.pc else t }
/-- R94 after it: the instruction is behind the thread, and so is its region entry. -/
def Thread.pass (t : Thread) (len : Nat) : Thread := { t with pc := t.pc + BitVec.ofNat 64 len, region := t.pc + BitVec.ofNat 64 len }
/-- The lanes of a set pass a boundary instruction: the guard-true ones with their region entry, the others only in their PC. -/
def Sel.passAll (c : Sel) (s : State) (i : Instr) : State :=
  let one (l : Nat) (t : Thread) : Thread :=
    if c.issue.lanes.getLsbD l then
      if guardOk (instrMods i) (c.thread l) then t.pass (Instr.len i) else t.advance (Instr.len i)
    else t
  s.updGroup c.blk c.grp fun g => { g with threads := g.threads.mapIdx one }
/-- A boundary instruction: `f` performs it once every earlier load of the guard-true threads has returned. A lane that fails its check at
issue faults at once, in the region it is in; `f` makes the check again where no lane has to wait (R247, R296, R395, R401). -/
def runChecked (i : Instr) (s : State) (check : Sel → Nat → Option Fail) (f : Sel → State → State) : Host.Outcome State Fault Refusal :=
  runSet i s fun c =>
    let bad := (c.guarded i).filterMap fun l => (check c l).map fun e => (l, e)
    let ok := (c.guarded i).filter fun l => !bad.any fun x => x.1 == l
    if ok.any fun l => c.g.loading l then
      c.raise (s.holdLanes c.blk c.grp (c.issue.lanes &&& ~~~(laneSet (bad.map Prod.fst))))
        (bad.map fun x => { lane := x.1, fail := x.2, resume := c.issue.pc })
    else f c (c.enterRegion s ok)
/-- A boundary instruction without such a check. -/
def runBoundary (i : Instr) (s : State) (f : Sel → State → State) : Host.Outcome State Fault Refusal := runChecked i s (fun _ _ => none) f
/-- The fault of an address. -/
def failOf {α : Type} (x : Except Fail α) : Option Fail :=
  match x with
  | .error f => some f
  | .ok _ => none

end Sys2Proof.Machine
end

