-- ==== Sys2Proof/Machine/Integer.lean ====
section
/-! DEFINITION. The instructions of OP 0x00-0x2F on v registers and predicates (spec 04 R134-R149), and the compact forms that equal
them (02 R40). -/

namespace Sys2Proof.Machine

open Sys2Proof

/-! ## Shapes -/

/-- vD := f b (R135). -/
def unaryV (i : Instr) (o : OpU) (s : State) (f : Word → Word) : Host.Outcome State Fault Refusal :=
  pureLane i s fun g _ t => t.setV o.d.toNat (f (operandB g t o.bk o.b))
/-- vD := f a b (R132). -/
def binaryV (i : Instr) (o : OpR) (s : State) (f : Word → Word → Word) : Host.Outcome State Fault Refusal :=
  pureLane i s fun g _ t => t.setV o.d.toNat (f (t.vr o.a.toNat) (operandB g t o.bk o.b))
/-- vD := f a b c. -/
def ternaryV (i : Instr) (o : OpR) (s : State) (f : Word → Word → Word → Word) : Host.Outcome State Fault Refusal :=
  pureLane i s fun g _ t =>
    t.setV o.d.toNat (f (t.vr o.a.toNat) (operandB g t o.bk o.b) (operandC g t (modsOf o.m).c))
/-- vD := f a imm5. -/
def shiftImmV (i : Instr) (o : OpSI) (s : State) (f : Word → Nat → Word) : Host.Outcome State Fault Refusal :=
  pureLane i s fun _ _ t => t.setV o.d.toNat (f (t.vr o.a.toNat) o.imm.toNat)
/-- vd := f vd vb of a compact form (R40). -/
def compactV (i : Instr) (o : OpC) (s : State) (f : Word → Word → Word) : Host.Outcome State Fault Refusal :=
  pureLane i s fun _ _ t => t.setV o.d.toNat (f (t.vr o.d.toNat) (t.vr o.b.toNat))
/-- vd := f vd imm5 of a compact form. -/
def compactImm (i : Instr) (o : OpC) (s : State) (f : Word → BitVec 5 → Word) : Host.Outcome State Fault Refusal :=
  pureLane i s fun _ _ t => t.setV o.d.toNat (f (t.vr o.d.toNat) o.b)
/-- The pair vD := f (pair A) (pair B) (R139). -/
def binaryPair (i : Instr) (o : OpR) (s : State) (f : Dword → Dword → Dword) : Host.Outcome State Fault Refusal :=
  pureLane i s fun g _ t => t.setPair o.d.toNat (f (t.vPair o.a.toNat) (pairB g t o.bk o.b))

/-! ## Arithmetic on words (R136-R146) -/

/-- An exact integer as a word, saturated to i32 under `.sat`. -/
def wordOfInt (sat : Bool) (x : Int) : Word := BitVec.ofInt 32 (if sat then satI 32 x else x)
/-- The high word of a 64-bit product. -/
def highWord (x : Int) : Word := hi32 (BitVec.ofInt 64 x)
/-- R140: the quotient and the remainder of signed division toward zero. -/
def divI (sat : Bool) (a b : Word) : Word :=
  if b == 0 then 0xFFFFFFFF
  else if a == 0x80000000 && b == 0xFFFFFFFF then (if sat then 0x7FFFFFFF else 0x80000000)
  else BitVec.ofInt 32 (a.toInt.tdiv b.toInt)
def remI (a b : Word) : Word :=
  if b == 0 then a
  else if a == 0x80000000 && b == 0xFFFFFFFF then 0
  else BitVec.ofInt 32 (a.toInt.tmod b.toInt)
def divN (a b : Word) : Word := if b == 0 then 0xFFFFFFFF else nat32 (a.toNat / b.toNat)
def remN (a b : Word) : Word := if b == 0 then a else nat32 (a.toNat % b.toNat)
def minI (a b : Word) : Word := if b.slt a then b else a
def maxI (a b : Word) : Word := if a.slt b then b else a
def minN (a b : Word) : Word := if b.ult a then b else a
def maxN (a b : Word) : Word := if a.ult b then b else a

/-- R142, by the amount n. -/
def shlBy (a : Word) (n : Nat) : Word := if 32 ≤ n then 0 else a <<< n
def shrBy (a : Word) (n : Nat) : Word := if 32 ≤ n then 0 else a >>> n
def sarBy (a : Word) (n : Nat) : Word := if 32 ≤ n then (if a.getLsbD 31 then 0xFFFFFFFF else 0) else a.sshiftRight n
def rolBy (a : Word) (n : Nat) : Word := hi32 (concat a a <<< (n % 32))
def rorBy (a : Word) (n : Nat) : Word := lo32 (concat a a >>> (n % 32))
/-- R143. -/
def funnel (a b c : Word) : Word := hi32 (concat a c <<< (b.toNat % 64))

/-- The word whose bit j is f j. -/
def wordOfBits (f : Nat → Bool) : Word := (List.range 32).foldl (fun r j => if f j then r ||| BitVec.ofNat 32 (2 ^ j) else r) 0
def fieldPos (b : Word) : Nat := b.toNat % 256
def fieldLen (b : Word) : Nat := min (b.toNat / 256 % 256) 32
/-- BFE of R144. -/
def bitExtract (isSigned : Bool) (a b : Word) : Word :=
  let pos := fieldPos b
  let len := fieldLen b
  let bitOf (i : Nat) : Bool := if i < 32 then a.getLsbD i else isSigned && a.getLsbD 31
  if len == 0 then 0
  else wordOfBits fun j => if j < len then bitOf (pos + j) else isSigned && bitOf (pos + len - 1)
/-- BFI of R144. -/
def bitInsert (a b c : Word) : Word :=
  let pos := fieldPos b
  let len := fieldLen b
  wordOfBits fun j => if pos ≤ j && j < pos + len then a.getLsbD (j - pos) else c.getLsbD j
/-- BYTEPERM of R144. -/
def bytePerm (a b c : Word) : Word :=
  let x := (concat c a).toNat
  let one (i : Nat) : Nat :=
    let q := field b.toNat (4 * i + 3) (4 * i)
    let y := field x (8 * (q % 8) + 7) (8 * (q % 8))
    if q / 8 == 1 then (if y / 128 == 1 then 0xFF else 0) else y
  nat32 (one 0 + one 1 * 2 ^ 8 + one 2 * 2 ^ 16 + one 3 * 2 ^ 24)
/-- R145. -/
def leaPair (c : BitVec 8) (a : Dword) (b : Word) : Dword :=
  let e : Dword := if c.getLsbD 3 then b.setWidth 64 else b.signExtend 64
  a + e <<< (c.toNat % 8)
/-- Element k of w bits of a word, by its type. -/
def dotElem (isSigned : Bool) (w : Nat) (x : Word) (k : Nat) : Int :=
  let e := field x.toNat (w * k + w - 1) (w * k)
  if isSigned then signed w e else e
/-- R146 with elements of w bits. -/
def dot4 (isSigned : Bool) (w : Nat) (sat : Bool) (a b c : Word) : Word :=
  let x : Int := (List.range (32 / w)).foldl (fun s k => s + dotElem isSigned w a k * dotElem isSigned w b k)
    (if isSigned then c.toInt else (c.toNat : Int))
  BitVec.ofInt 32 (if sat then (if isSigned then satI 32 x else satN 32 x) else x)

/-- Whether SAT stands in the modifier word. -/
def satOf (m : Option Mods) : Bool := (modsOf m).sat

/-! ## Moves and unary operations (R134, R135) -/

def execMov (o : OpU) (s : State) : Host.Outcome State Fault Refusal := unaryV (.mov o) o s fun b => b
def execNot (o : OpU) (s : State) : Host.Outcome State Fault Refusal := unaryV (.not o) o s fun b => ~~~b
def execPopc (o : OpU) (s : State) : Host.Outcome State Fault Refusal := unaryV (.popc o) o s fun b => nat32 (popCount b)
def execClz (o : OpU) (s : State) : Host.Outcome State Fault Refusal := unaryV (.clz o) o s fun b => nat32 (clz32 b)
def execCtz (o : OpU) (s : State) : Host.Outcome State Fault Refusal := unaryV (.ctz o) o s fun b => nat32 (ctz32 b)
def execBrev (o : OpU) (s : State) : Host.Outcome State Fault Refusal := unaryV (.brev o) o s bitReverse
/-- R135, F 6. -/
def execP2v (o : OpU) (s : State) : Host.Outcome State Fault Refusal :=
  pureLane (.p2v o) s fun _ _ t => t.setV o.d.toNat (t.p.setWidth 32)
/-- R135, F 7: the mask is D. -/
def execV2p (o : OpU) (s : State) : Host.Outcome State Fault Refusal :=
  pureLane (.v2p o) s fun g _ t =>
    { t with p := (t.p &&& ~~~o.d) ||| ((operandB g t o.bk o.b).setWidth 7 &&& o.d) }
/-- R134. -/
def execMovi (o : OpL) (s : State) : Host.Outcome State Fault Refusal :=
  pureLane (.movi o) s fun _ _ t => t.setV o.d.toNat o.lit

/-! ## Addition, subtraction and multiplication (R136-R139) -/

def execIadd (o : OpR) (s : State) : Host.Outcome State Fault Refusal :=
  binaryV (.iadd o) o s fun a b => wordOfInt (satOf o.m) (a.toInt + b.toInt)
def execIsub (o : OpR) (s : State) : Host.Outcome State Fault Refusal :=
  binaryV (.isub o) o s fun a b => wordOfInt (satOf o.m) (a.toInt - b.toInt)
def execImul (o : OpR) (s : State) : Host.Outcome State Fault Refusal :=
  binaryV (.imul o) o s fun a b => wordOfInt (satOf o.m) (a.toInt * b.toInt)
def execImulhI32 (o : OpR) (s : State) : Host.Outcome State Fault Refusal :=
  binaryV (.imulhI32 o) o s fun a b => highWord (a.toInt * b.toInt)
def execImulhN32 (o : OpR) (s : State) : Host.Outcome State Fault Refusal :=
  binaryV (.imulhN32 o) o s fun a b => highWord (a.toNat * b.toNat)
def execImad (o : OpR) (s : State) : Host.Outcome State Fault Refusal :=
  ternaryV (.imad o) o s fun a b c => wordOfInt (satOf o.m) (a.toInt * b.toInt + c.toInt)
/-- R137. -/
def execImadwI32 (o : OpR) (s : State) : Host.Outcome State Fault Refusal :=
  pureLane (.imadwI32 o) s fun g _ t =>
    t.setPair o.d.toNat (BitVec.ofInt 64 ((t.vr o.a.toNat).toInt * (operandB g t o.bk o.b).toInt + (pairC g t (modsOf o.m).c).toInt))
def execImadwN32 (o : OpR) (s : State) : Host.Outcome State Fault Refusal :=
  pureLane (.imadwN32 o) s fun g _ t =>
    t.setPair o.d.toNat (BitVec.ofNat 64 ((t.vr o.a.toNat).toNat * (operandB g t o.bk o.b).toNat + (pairC g t (modsOf o.m).c).toNat))
/-- R138: the carry predicate is C bits 2:0. -/
def execIadc (o : OpR) (s : State) : Host.Outcome State Fault Refusal :=
  pureLane (.iadc o) s fun g _ t =>
    let pc := (modsOf o.m).c.toNat % 8
    let x := (t.vr o.a.toNat).toNat + (operandB g t o.bk o.b).toNat + (t.pr pc).toNat
    (t.setV o.d.toNat (nat32 x)).setP pc (decide (2 ^ 32 ≤ x))
def execIsbb (o : OpR) (s : State) : Host.Outcome State Fault Refusal :=
  pureLane (.isbb o) s fun g _ t =>
    let pc := (modsOf o.m).c.toNat % 8
    let a := t.vr o.a.toNat
    let y := (operandB g t o.bk o.b).toNat + (t.pr pc).toNat
    (t.setV o.d.toNat (a - nat32 y)).setP pc (decide (a.toNat < y))
def execIadd64 (o : OpR) (s : State) : Host.Outcome State Fault Refusal := binaryPair (.iadd64 o) o s fun a b => a + b
def execIsub64 (o : OpR) (s : State) : Host.Outcome State Fault Refusal := binaryPair (.isub64 o) o s fun a b => a - b

/-! ## Division, minimum, maximum, logic (R140, R141) -/

def execIdivI32 (o : OpR) (s : State) : Host.Outcome State Fault Refusal := binaryV (.idivI32 o) o s (divI (satOf o.m))
def execIdivN32 (o : OpR) (s : State) : Host.Outcome State Fault Refusal := binaryV (.idivN32 o) o s divN
def execIremI32 (o : OpR) (s : State) : Host.Outcome State Fault Refusal := binaryV (.iremI32 o) o s remI
def execIremN32 (o : OpR) (s : State) : Host.Outcome State Fault Refusal := binaryV (.iremN32 o) o s remN
def execIminI32 (o : OpR) (s : State) : Host.Outcome State Fault Refusal := binaryV (.iminI32 o) o s minI
def execIminN32 (o : OpR) (s : State) : Host.Outcome State Fault Refusal := binaryV (.iminN32 o) o s minN
def execImaxI32 (o : OpR) (s : State) : Host.Outcome State Fault Refusal := binaryV (.imaxI32 o) o s maxI
def execImaxN32 (o : OpR) (s : State) : Host.Outcome State Fault Refusal := binaryV (.imaxN32 o) o s maxN
def execAnd (o : OpR) (s : State) : Host.Outcome State Fault Refusal := binaryV (.and o) o s fun a b => a &&& b
def execOr (o : OpR) (s : State) : Host.Outcome State Fault Refusal := binaryV (.or o) o s fun a b => a ||| b
def execXor (o : OpR) (s : State) : Host.Outcome State Fault Refusal := binaryV (.xor o) o s fun a b => a ^^^ b
def execAndn (o : OpR) (s : State) : Host.Outcome State Fault Refusal := binaryV (.andn o) o s fun a b => a &&& ~~~b

/-! ## Shifts, bit fields, bytes (R142-R144) -/

def execShl (o : OpR) (s : State) : Host.Outcome State Fault Refusal := binaryV (.shl o) o s fun a b => shlBy a b.toNat
def execShr (o : OpR) (s : State) : Host.Outcome State Fault Refusal := binaryV (.shr o) o s fun a b => shrBy a b.toNat
def execSar (o : OpR) (s : State) : Host.Outcome State Fault Refusal := binaryV (.sar o) o s fun a b => sarBy a b.toNat
def execRol (o : OpR) (s : State) : Host.Outcome State Fault Refusal := binaryV (.rol o) o s fun a b => rolBy a b.toNat
def execRor (o : OpR) (s : State) : Host.Outcome State Fault Refusal := binaryV (.ror o) o s fun a b => rorBy a b.toNat
def execShlImm (o : OpSI) (s : State) : Host.Outcome State Fault Refusal := shiftImmV (.shlImm o) o s shlBy
def execShrImm (o : OpSI) (s : State) : Host.Outcome State Fault Refusal := shiftImmV (.shrImm o) o s shrBy
def execSarImm (o : OpSI) (s : State) : Host.Outcome State Fault Refusal := shiftImmV (.sarImm o) o s sarBy
def execRolImm (o : OpSI) (s : State) : Host.Outcome State Fault Refusal := shiftImmV (.rolImm o) o s rolBy
def execRorImm (o : OpSI) (s : State) : Host.Outcome State Fault Refusal := shiftImmV (.rorImm o) o s rorBy
def execFshl (o : OpR) (s : State) : Host.Outcome State Fault Refusal := ternaryV (.fshl o) o s funnel
def execBfe (o : OpR) (s : State) : Host.Outcome State Fault Refusal :=
  binaryV (.bfe o) o s (bitExtract ((modsOf o.m).c.getLsbD 0))
def execBfi (o : OpR) (s : State) : Host.Outcome State Fault Refusal := ternaryV (.bfi o) o s bitInsert
def execByteperm (o : OpR) (s : State) : Host.Outcome State Fault Refusal := ternaryV (.byteperm o) o s bytePerm
/-- R145. -/
def execLea (o : OpR) (s : State) : Host.Outcome State Fault Refusal :=
  pureLane (.lea o) s fun g _ t =>
    t.setPair o.d.toNat (leaPair (modsOf o.m).c (t.vPair o.a.toNat) (operandB g t o.bk o.b))

/-! ## Dot products (R146) -/

def execIdot4I8 (o : OpR) (s : State) : Host.Outcome State Fault Refusal := ternaryV (.idot4I8 o) o s (dot4 true 8 (satOf o.m))
def execIdot4N8 (o : OpR) (s : State) : Host.Outcome State Fault Refusal := ternaryV (.idot4N8 o) o s (dot4 false 8 (satOf o.m))
def execIdot4I4 (o : OpR) (s : State) : Host.Outcome State Fault Refusal := ternaryV (.idot4I4 o) o s (dot4 true 4 (satOf o.m))
def execIdot4N4 (o : OpR) (s : State) : Host.Outcome State Fault Refusal := ternaryV (.idot4N4 o) o s (dot4 false 4 (satOf o.m))

/-! ## Predicates and selection (R147-R149) -/

/-- The predicate that a C field of R148 combines with. -/
def combinePred (t : Thread) (c : BitVec 8) : Bool := t.pr (c.toNat % 8) != c.getLsbD 5
def execSetp (o : OpR) (s : State) : Host.Outcome State Fault Refusal :=
  pureLane (.setp o) s fun g _ t =>
    let c := (modsOf o.m).c
    let x := intCompare (o.d.toNat / 8) (t.vr o.a.toNat) (operandB g t o.bk o.b)
    t.setP (o.d.toNat % 8) (combine c x (combinePred t c))
def execSel (o : OpR) (s : State) : Host.Outcome State Fault Refusal :=
  pureLane (.sel o) s fun g _ t =>
    let c := (modsOf o.m).c
    t.setV o.d.toNat (if t.pr (c.toNat % 8) != c.getLsbD 3 then t.vr o.a.toNat else operandB g t o.bk o.b)
def execPlop (o : OpR) (s : State) : Host.Outcome State Fault Refusal :=
  pureLane (.plop o) s fun _ _ t =>
    let k := 2 * (t.pr (o.b.toNat % 8)).toNat + (t.pr (o.a.toNat % 8)).toNat
    t.setP (o.d.toNat % 8) (bit (o.d.toNat / 8) k)

/-! ## Compact forms (R40) -/

def execCMov (o : OpC) (s : State) : Host.Outcome State Fault Refusal := compactV (.cMov o) o s fun _ b => b
def execCMovi (o : OpC) (s : State) : Host.Outcome State Fault Refusal := compactImm (.cMovi o) o s fun _ i => i.signExtend 32
def execCIadd (o : OpC) (s : State) : Host.Outcome State Fault Refusal := compactV (.cIadd o) o s fun a b => a + b
def execCIaddImm (o : OpC) (s : State) : Host.Outcome State Fault Refusal :=
  compactImm (.cIaddImm o) o s fun a i => a + i.signExtend 32
def execCIsub (o : OpC) (s : State) : Host.Outcome State Fault Refusal := compactV (.cIsub o) o s fun a b => a - b
def execCImul (o : OpC) (s : State) : Host.Outcome State Fault Refusal := compactV (.cImul o) o s fun a b => a * b
def execCAnd (o : OpC) (s : State) : Host.Outcome State Fault Refusal := compactV (.cAnd o) o s fun a b => a &&& b
def execCOr (o : OpC) (s : State) : Host.Outcome State Fault Refusal := compactV (.cOr o) o s fun a b => a ||| b
def execCXor (o : OpC) (s : State) : Host.Outcome State Fault Refusal := compactV (.cXor o) o s fun a b => a ^^^ b
def execCShl (o : OpC) (s : State) : Host.Outcome State Fault Refusal := compactImm (.cShl o) o s fun a i => shlBy a i.toNat
def execCShr (o : OpC) (s : State) : Host.Outcome State Fault Refusal := compactImm (.cShr o) o s fun a i => shrBy a i.toNat

end Sys2Proof.Machine
end

