-- ==== Sys2Proof/Machine/Fp.lean ====
section
/-! DEFINITION. The FP32, FP64 and packed 16-bit instructions of OP 0x30-0x53, FENV and FFLG: spec 05 R164-R178, R186-R188, and the
compact FP forms (02 R40). -/

namespace Sys2Proof.Machine

open Sys2Proof

/-! ## Shapes -/

/-- The end of R164: an enabled flag traps and nothing is written (R165), else the write and the flags. -/
def fpDone (t t' : Thread) (fl : Flags) : LaneOut :=
  if trapsOn t.fpenv fl then .raise (mkFail cFPTRAP 0 fl.toNat) else .done (t'.raiseFlags fl)

/-- Operand i (0 = A, 1 = B, 2 = C) after R164's reads. -/
def fpRead (f : Fmt) (env : FpEnv) (m : Mods) (i : Nat) (x : Nat) : FVal × Flags := fpOperand f env (absOf m i) (negOf m i) x

/-- A function of A and B (R164). -/
def fpOut2 (f : Fmt) (fn : RMode → FVal → FVal → FpRes) (env : FpEnv) (m : Mods) (a b : Nat) : FpOut :=
  let x := fpRead f env m 0 a
  let y := fpRead f env m 1 b
  fpFinish f env [x.1, y.1] (x.2 ||| y.2) false (fn env.mode x.1 y.1)
/-- a * b + c, rounded once (R167). -/
def fpOut3 (f : Fmt) (env : FpEnv) (m : Mods) (a b c : Nat) : FpOut :=
  let x := fpRead f env m 0 a
  let y := fpRead f env m 1 b
  let z := fpRead f env m 2 c
  fpFinish f env [x.1, y.1, z.1] (x.2 ||| y.2 ||| z.2) (zeroTimesInf x.1 y.1) (fnFma env.mode x.1 y.1 z.1)
/-- A function of B. -/
def fpOut1 (f : Fmt) (fn : FVal → FpRes) (env : FpEnv) (m : Mods) (b : Nat) : FpOut :=
  let y := fpRead f env m 1 b
  fpFinish f env [y.1] y.2 false (fn y.1)
/-- Minimum or maximum (R168). -/
def fpOutMinMax (isMax : Bool) (f : Fmt) (env : FpEnv) (m : Mods) (a b : Nat) : FpOut :=
  let x := fpRead f env m 0 a
  let y := fpRead f env m 1 b
  fpMinMax f env isMax x.1 y.1 (x.2 ||| y.2)
/-- Rounding to an integral value (R171). -/
def fpOutRint (f : Fmt) (env : FpEnv) (m : Mods) (b : Nat) : FpOut :=
  let y := fpRead f env m 1 b
  fpRint f env y.1 y.2
/-- A comparison (R173). -/
def fpOutCompare (f : Fmt) (env : FpEnv) (m : Mods) (code a b : Nat) : Bool × Flags :=
  let x := fpRead f env m 0 a
  let y := fpRead f env m 1 b
  fpCompare code x.1 y.1 (x.2 ||| y.2)

def fnSub (mode : RMode) (a b : FVal) : FpRes := fnAdd mode a (b.setNeg !b.neg)
def fnMul2 (_ : RMode) (a b : FVal) : FpRes := fnMul a b
def fnDiv2 (_ : RMode) (a b : FVal) : FpRes := fnDiv a b
def fnDrcp (b : FVal) : FpRes := fnRecip fmtF64 (fun x => (Config.approxDrcp (BitVec.ofNat 64 x)).toNat) b
/-- a * 2^k (R175). -/
def fnScale (k : Int) (a : FVal) : FpRes :=
  match a with
  | .inf n => .inf n
  | .fin n m e => if m == 0 then .zero n else .real { neg := n, m := m, e := e + k, sticky := false }
  | _ => .invalid

/-- An FP32 instruction with result vD. -/
def f32Lane (i : Instr) (s : State) (d : RegNum) (m : Option Mods) (f : Group → Thread → FpEnv → FpOut) :
    Host.Outcome State Fault Refusal :=
  perLane i s fun g _ t =>
    let r := f g t (fpEnvOf t.fpenv (modsOf m))
    fpDone t (t.setV d.toNat (nat32 r.bits)) r.flags
def f32Binary (i : Instr) (o : OpR) (s : State) (f : FpEnv → Mods → Nat → Nat → FpOut) : Host.Outcome State Fault Refusal :=
  f32Lane i s o.d o.m fun g t env => f env (modsOf o.m) (t.vr o.a.toNat).toNat (operandB g t o.bk o.b).toNat
def f32Unary (i : Instr) (o : OpU) (s : State) (f : FpEnv → Mods → Nat → FpOut) : Host.Outcome State Fault Refusal :=
  f32Lane i s o.d o.m fun g t env => f env (modsOf o.m) (operandB g t o.bk o.b).toNat
/-- A compact FP form: the environment, every modifier at its default (R166). -/
def f32Compact (i : Instr) (o : OpC) (s : State) (f : FpEnv → Mods → Nat → Nat → FpOut) : Host.Outcome State Fault Refusal :=
  f32Lane i s (BitVec.ofNat 7 o.d.toNat) none fun _ t env => f env Mods.default (t.vr o.d.toNat).toNat (t.vr o.b.toNat).toNat
/-- An FP64 instruction with the result pair vD (R177). -/
def f64Lane (i : Instr) (s : State) (d : RegNum) (m : Option Mods) (f : Group → Thread → FpEnv → FpOut) :
    Host.Outcome State Fault Refusal :=
  perLane i s fun g _ t =>
    let r := f g t (fpEnvOf t.fpenv (modsOf m))
    fpDone t (t.setPair d.toNat (BitVec.ofNat 64 r.bits)) r.flags
def f64Binary (i : Instr) (o : OpR) (s : State) (f : FpEnv → Mods → Nat → Nat → FpOut) : Host.Outcome State Fault Refusal :=
  f64Lane i s o.d o.m fun g t env => f env (modsOf o.m) (t.vPair o.a.toNat).toNat (pairB g t o.bk o.b).toNat
def f64Unary (i : Instr) (o : OpU) (s : State) (f : FpEnv → Mods → Nat → FpOut) : Host.Outcome State Fault Refusal :=
  f64Lane i s o.d o.m fun g t env => f env (modsOf o.m) (pairB g t o.bk o.b).toNat
/-- Half h of a word. -/
def half (x : Word) (h : Nat) : Nat := field x.toNat (16 * h + 15) (16 * h)
/-- A packed instruction: both halves, flags ORed (R178). -/
def packedLane (i : Instr) (o : OpR) (s : State) (f : FpEnv → Mods → Nat → Nat → Nat → FpOut) :
    Host.Outcome State Fault Refusal :=
  f32Lane i s o.d o.m fun g t env =>
    let a := t.vr o.a.toNat
    let b := operandB g t o.bk o.b
    let c := operandC g t (modsOf o.m).c
    let one (h : Nat) : FpOut := f env (modsOf o.m) (half a h) (half b h) (half c h)
    { bits := (one 0).bits + (one 1).bits * 2 ^ 16, flags := (one 0).flags ||| (one 1).flags }

/-! ## FP32 (R167-R171) -/

def execFadd (o : OpR) (s : State) : Host.Outcome State Fault Refusal := f32Binary (.fadd o) o s (fpOut2 fmtF32 fnAdd)
def execFsub (o : OpR) (s : State) : Host.Outcome State Fault Refusal := f32Binary (.fsub o) o s (fpOut2 fmtF32 fnSub)
def execFmul (o : OpR) (s : State) : Host.Outcome State Fault Refusal := f32Binary (.fmul o) o s (fpOut2 fmtF32 fnMul2)
def execFdiv (o : OpR) (s : State) : Host.Outcome State Fault Refusal := f32Binary (.fdiv o) o s (fpOut2 fmtF32 fnDiv2)
def execFfma (o : OpR) (s : State) : Host.Outcome State Fault Refusal :=
  f32Lane (.ffma o) s o.d o.m fun g t env =>
    fpOut3 fmtF32 env (modsOf o.m) (t.vr o.a.toNat).toNat (operandB g t o.bk o.b).toNat (operandC g t (modsOf o.m).c).toNat
def execFmin (o : OpR) (s : State) : Host.Outcome State Fault Refusal := f32Binary (.fmin o) o s (fpOutMinMax false fmtF32)
def execFmax (o : OpR) (s : State) : Host.Outcome State Fault Refusal := f32Binary (.fmax o) o s (fpOutMinMax true fmtF32)
def execFsqrt (o : OpU) (s : State) : Host.Outcome State Fault Refusal := f32Unary (.fsqrt o) o s (fpOut1 fmtF32 fnSqrt)
def execFrcp (o : OpU) (s : State) : Host.Outcome State Fault Refusal := f32Unary (.frcp o) o s (fpOut1 fmtF32 (fnApprox .frcp))
def execFrsq (o : OpU) (s : State) : Host.Outcome State Fault Refusal := f32Unary (.frsq o) o s (fpOut1 fmtF32 (fnApprox .frsq))
def execFex2 (o : OpU) (s : State) : Host.Outcome State Fault Refusal := f32Unary (.fex2 o) o s (fpOut1 fmtF32 (fnApprox .fex2))
def execFlg2 (o : OpU) (s : State) : Host.Outcome State Fault Refusal := f32Unary (.flg2 o) o s (fpOut1 fmtF32 (fnApprox .flg2))
def execFsin (o : OpU) (s : State) : Host.Outcome State Fault Refusal := f32Unary (.fsin o) o s (fpOut1 fmtF32 (fnApprox .fsin))
def execFcos (o : OpU) (s : State) : Host.Outcome State Fault Refusal := f32Unary (.fcos o) o s (fpOut1 fmtF32 (fnApprox .fcos))
def execFtanh (o : OpU) (s : State) : Host.Outcome State Fault Refusal := f32Unary (.ftanh o) o s (fpOut1 fmtF32 (fnApprox .ftanh))
def execFrnd (o : OpU) (s : State) : Host.Outcome State Fault Refusal := f32Unary (.frnd o) o s (fpOutRint fmtF32)
/-- R172: the operand is taken raw, and no flag is raised. -/
def execFclass (o : OpU) (s : State) : Host.Outcome State Fault Refusal :=
  unaryV (.fclass o) o s fun b => nat32 (fpClass fmtF32 b.toNat)

/-! ## Comparison, scaling, decomposition (R173-R176) -/

/-- The predicate write of R174, combined as R148. -/
def Thread.setCompared (t : Thread) (n : Nat) (c : BitVec 8) (x : Bool) : Thread := t.setP n (combine c x (combinePred t c))
def execFsetp (o : OpR) (s : State) : Host.Outcome State Fault Refusal :=
  perLane (.fsetp o) s fun g _ t =>
    let m := modsOf o.m
    let r := fpOutCompare fmtF32 (fpEnvOf t.fpenv m) m (o.d.toNat / 8) (t.vr o.a.toNat).toNat (operandB g t o.bk o.b).toNat
    fpDone t (t.setCompared (o.d.toNat % 8) m.c r.1) r.2
def execDsetp (o : OpR) (s : State) : Host.Outcome State Fault Refusal :=
  perLane (.dsetp o) s fun g _ t =>
    let m := modsOf o.m
    let r := fpOutCompare fmtF64 (fpEnvOf t.fpenv m) m (o.d.toNat / 8) (t.vPair o.a.toNat).toNat (pairB g t o.bk o.b).toNat
    fpDone t (t.setCompared (o.d.toNat % 8) m.c r.1) r.2
/-- PKSETP: half 0 to p, half 1 to the next; both combine with the predicate as it was before. -/
def packedSetp (i : Instr) (f : Fmt) (o : OpR) (s : State) : Host.Outcome State Fault Refusal :=
  perLane i s fun g _ t =>
    let m := modsOf o.m
    let env := fpEnvOf t.fpenv m
    let one (h : Nat) : Bool × Flags :=
      fpOutCompare f env m (o.d.toNat / 8) (half (t.vr o.a.toNat) h) (half (operandB g t o.bk o.b) h)
    let q := combinePred t m.c
    let n := o.d.toNat % 8
    fpDone t ((t.setP n (combine m.c (one 0).1 q)).setP (n + 1) (combine m.c (one 1).1 q)) ((one 0).2 ||| (one 1).2)
def execPksetpF16 (o : OpR) (s : State) : Host.Outcome State Fault Refusal := packedSetp (.pksetpF16 o) fmtF16 o s
def execPksetpBf16 (o : OpR) (s : State) : Host.Outcome State Fault Refusal := packedSetp (.pksetpBf16 o) fmtBf16 o s
def execFscale (o : OpR) (s : State) : Host.Outcome State Fault Refusal :=
  f32Lane (.fscale o) s o.d o.m fun g t env =>
    let x := fpRead fmtF32 env (modsOf o.m) 0 (t.vr o.a.toNat).toNat
    fpFinish fmtF32 env [x.1] x.2 false (fnScale (operandB g t o.bk o.b).toInt x.1)
def execFrexp (o : OpR) (s : State) : Host.Outcome State Fault Refusal :=
  perLane (.frexp o) s fun _ _ t =>
    let env := fpEnvOf t.fpenv (modsOf o.m)
    let x := fpRead fmtF32 env (modsOf o.m) 0 (t.vr o.a.toNat).toNat
    let (bits, e, fl) := fpFrexp env x.1 x.2
    fpDone t ((t.setV o.d.toNat (nat32 bits)).setV (o.d.toNat + 1) (BitVec.ofInt 32 e)) fl

/-! ## FP64 (R177) -/

def execDadd (o : OpR) (s : State) : Host.Outcome State Fault Refusal := f64Binary (.dadd o) o s (fpOut2 fmtF64 fnAdd)
def execDsub (o : OpR) (s : State) : Host.Outcome State Fault Refusal := f64Binary (.dsub o) o s (fpOut2 fmtF64 fnSub)
def execDmul (o : OpR) (s : State) : Host.Outcome State Fault Refusal := f64Binary (.dmul o) o s (fpOut2 fmtF64 fnMul2)
def execDdiv (o : OpR) (s : State) : Host.Outcome State Fault Refusal := f64Binary (.ddiv o) o s (fpOut2 fmtF64 fnDiv2)
def execDfma (o : OpR) (s : State) : Host.Outcome State Fault Refusal :=
  f64Lane (.dfma o) s o.d o.m fun g t env =>
    fpOut3 fmtF64 env (modsOf o.m) (t.vPair o.a.toNat).toNat (pairB g t o.bk o.b).toNat (pairC g t (modsOf o.m).c).toNat
def execDmin (o : OpR) (s : State) : Host.Outcome State Fault Refusal := f64Binary (.dmin o) o s (fpOutMinMax false fmtF64)
def execDmax (o : OpR) (s : State) : Host.Outcome State Fault Refusal := f64Binary (.dmax o) o s (fpOutMinMax true fmtF64)
def execDsqrt (o : OpU) (s : State) : Host.Outcome State Fault Refusal := f64Unary (.dsqrt o) o s (fpOut1 fmtF64 fnSqrt)
def execDrcp (o : OpU) (s : State) : Host.Outcome State Fault Refusal := f64Unary (.drcp o) o s (fpOut1 fmtF64 fnDrcp)
def execDrnd (o : OpU) (s : State) : Host.Outcome State Fault Refusal := f64Unary (.drnd o) o s (fpOutRint fmtF64)

/-! ## Packed (R178) -/

/-- Two operands of a packed instruction, the third unread. -/
def packed2 (f : FpEnv → Mods → Nat → Nat → FpOut) (env : FpEnv) (m : Mods) (a b _ : Nat) : FpOut := f env m a b
def execPkaddF16 (o : OpR) (s : State) : Host.Outcome State Fault Refusal := packedLane (.pkaddF16 o) o s (packed2 (fpOut2 fmtF16 fnAdd))
def execPkaddBf16 (o : OpR) (s : State) : Host.Outcome State Fault Refusal := packedLane (.pkaddBf16 o) o s (packed2 (fpOut2 fmtBf16 fnAdd))
def execPkmulF16 (o : OpR) (s : State) : Host.Outcome State Fault Refusal := packedLane (.pkmulF16 o) o s (packed2 (fpOut2 fmtF16 fnMul2))
def execPkmulBf16 (o : OpR) (s : State) : Host.Outcome State Fault Refusal := packedLane (.pkmulBf16 o) o s (packed2 (fpOut2 fmtBf16 fnMul2))
def execPkfmaF16 (o : OpR) (s : State) : Host.Outcome State Fault Refusal := packedLane (.pkfmaF16 o) o s (fpOut3 fmtF16)
def execPkfmaBf16 (o : OpR) (s : State) : Host.Outcome State Fault Refusal := packedLane (.pkfmaBf16 o) o s (fpOut3 fmtBf16)
def execPkminF16 (o : OpR) (s : State) : Host.Outcome State Fault Refusal := packedLane (.pkminF16 o) o s (packed2 (fpOutMinMax false fmtF16))
def execPkminBf16 (o : OpR) (s : State) : Host.Outcome State Fault Refusal := packedLane (.pkminBf16 o) o s (packed2 (fpOutMinMax false fmtBf16))
def execPkmaxF16 (o : OpR) (s : State) : Host.Outcome State Fault Refusal := packedLane (.pkmaxF16 o) o s (packed2 (fpOutMinMax true fmtF16))
def execPkmaxBf16 (o : OpR) (s : State) : Host.Outcome State Fault Refusal := packedLane (.pkmaxBf16 o) o s (packed2 (fpOutMinMax true fmtBf16))

/-! ## Compact forms (R40) -/

def execCFadd (o : OpC) (s : State) : Host.Outcome State Fault Refusal := f32Compact (.cFadd o) o s (fpOut2 fmtF32 fnAdd)
def execCFsub (o : OpC) (s : State) : Host.Outcome State Fault Refusal := f32Compact (.cFsub o) o s (fpOut2 fmtF32 fnSub)
def execCFmul (o : OpC) (s : State) : Host.Outcome State Fault Refusal := f32Compact (.cFmul o) o s (fpOut2 fmtF32 fnMul2)
def execCFmax (o : OpC) (s : State) : Host.Outcome State Fault Refusal := f32Compact (.cFmax o) o s (fpOutMinMax true fmtF32)

/-! ## FENV and FFLG (R186, R187) -/

def execFenv (o : OpR) (s : State) : Host.Outcome State Fault Refusal :=
  pureLane (.fenv o) s fun g _ t =>
    let a := t.vr o.a.toNat
    let b := operandB g t o.bk o.b
    { t.setV o.d.toNat t.fpenv with fpenv := writeFpenv t.fpenv ((t.fpenv &&& ~~~b) ||| (a &&& b)) }
def execFflg (o : OpR) (s : State) : Host.Outcome State Fault Refusal :=
  pureLane (.fflg o) s fun g _ t =>
    { t.setV o.d.toNat t.fpflags with fpflags := writeFpflags (t.fpflags &&& ~~~(operandB g t o.bk o.b)) }

end Sys2Proof.Machine
end

