-- ==== Sys2Proof/Machine/Monitor.lean ====
section
/-! DEFINITION. The monitors of a ladder attempt, its doom, and the core's shadow pool: spec 11 R341, R342, R346-R351, R360; 09 R288. -/

namespace Sys2Proof.Machine

open Sys2Proof

/-- The cause in a TRIP event (R351), in the layout of log 13. -/
def TripCause.code : TripCause → Nat
  | .range => 0
  | .cancellation => 1
  | .exhaustion => 2
  | .escalation => 3
  | .ceiling => 4
/-- ARG1 of TRIP (log 13): CCOUNT in bits 63:35 and RCOUNT in bits 34:6, 29 bits each, the cause in 5:3, the rung in 2:0. -/
def tripArg (b : Block) (cause : TripCause) : Dword :=
  BitVec.ofNat 64 (b.rung % 8 + cause.code * 2 ^ 3 + b.rcount % 2 ^ 29 * 2 ^ 6 + b.ccount % 2 ^ 29 * 2 ^ 35)

/-- R351: the first decision dooms a monitored attempt; exhaustion and TRXESC.top make it unfit for the Gazetteer (R357). -/
def State.doom (s : State) (blk : Nat) (cause : TripCause) : State :=
  match s.block? blk with
  | none => s
  | some b =>
    if b.monitored && b.doomed.isNone then
      let (part, queue) := match s.launch? b.launch with | some l => (l.part, l.queue) | none => (0, 0)
      let seq := s.nextSeq
      let s := s.log evTRIP part queue (nat32 b.blkidx) (tripArg b cause)
      s.updBlock blk fun b => { b with doomed := some cause, doomedAt := s.clockOf b.core, tripSeq := seq,
                                       unfit := b.unfit || cause == .exhaustion || cause == .ceiling }
    else s

/-- The test of R350; none is made while the block is swapping, swapped or ready (R353). -/
def State.tripTest (s : State) (blk : Nat) : State :=
  match s.block? blk with
  | none => s
  | some b =>
    if b.st == .resident && b.thr != 0 then
      if b.thr ≤ b.rcount then s.doom blk .range
      else if b.thr ≤ b.ccount then s.doom blk .cancellation
      else s
    else s

/-- A count of R346, which saturates. -/
def satCount (x n : Nat) : Nat := min (x + n) 0xFFFFFFFF
/-- R348: n is added to RCOUNT of a monitored attempt, and dropped elsewhere (R346). -/
def State.addRange (s : State) (blk n : Nat) : State :=
  (s.updBlock blk fun b => if b.monitored then { b with rcount := satCount b.rcount n } else b).tripTest blk
/-- R349. -/
def State.addCancel (s : State) (blk n : Nat) : State :=
  (s.updBlock blk fun b => if b.monitored then { b with ccount := satCount b.ccount n } else b).tripTest blk
/-- R358. -/
def State.addSkip (s : State) (blk n : Nat) : State :=
  s.updBlock blk fun b => if b.monitored then { b with skcount := satCount b.skcount n } else b

/-! ## The shadow pool (R288, R341) -/

/-- The shadow lines a block holds: tile-store lines, deferred lines and deferred images, and those that stalled writes have drawn. -/
def Block.shadowLines (b : Block) : Nat :=
  b.drawn + b.shadow.length + b.deferred.length + b.images.foldl (fun n im => n + im.type.shadowLines) 0
/-- The free lines of a core's pool of 4,096. -/
def State.shadowFree (s : State) (core : Nat) : Nat :=
  4096 - (s.blocksOn core).foldl (fun n b => n + b.shadowLines) 0

/-- R342: lines that are not free abort the attempt to the ceiling rung, except in a DET launch, where the thread stalls (R360). -/
inductive ShadowRoom where
  | free | exhausted | stall
  deriving DecidableEq, Repr
def State.shadowRoom (s : State) (b : Block) (l : Launch) (n : Nat) : ShadowRoom :=
  if n == 0 || n ≤ s.shadowFree b.core + b.drawn then .free else if l.lr.det then .stall else .exhausted
/-- A write takes n lines, those drawn for it first. -/
def State.takeShadow (s : State) (blk n : Nat) : State := s.updBlock blk fun b => { b with drawn := b.drawn - n }
/-- Lanes stall; the write draws what the pool has (R360). -/
def State.stallShadow (s : State) (blk grp : Nat) (lanes : LaneSet) : State :=
  let free := match s.block? blk with | some b => s.shadowFree b.core | none => 0
  (s.updBlock blk fun b => { b with drawn := b.drawn + free }).updGroup blk grp fun g =>
    g.each fun i t => if lanes.getLsbD i then t.setState (.waiting .shadow) else t

end Sys2Proof.Machine
end

