-- ==== Sys2Proof/Machine/Convert.lean ====
section
/-! DEFINITION. CVT, PACK, UNPK, MXQ and MXDQ: spec 05 R154, R155, R179-R185. -/

namespace Sys2Proof.Machine

open Sys2Proof

/-! ## Types (R51) -/

/-- Width and signedness of an integer type code. -/
def typeWidth (t : BitVec 4) : Nat := 8 * 2 ^ (t.toNat % 4)
def typeSigned (t : BitVec 4) : Bool := t.toNat / 4 == 1
/-- The format of a float type code. -/
def typeFmt (t : BitVec 4) : Fmt :=
  match t.toNat with
  | 0x8 => fmtF64
  | 0x9 => fmtF32
  | 0xA => fmtF16
  | 0xB => fmtBf16
  | 0xC => fmtE4m3
  | _ => fmtE5m2
/-- Bits of a value of a type. -/
def typeBits (t : BitVec 4) : Nat := if typeInt t then typeWidth t else (typeFmt t).mag + 1
/-- The format of an MX element code (R52); none for the codes that name no element. -/
def elemFmt (t : BitVec 4) : Option Fmt :=
  match t.toNat with
  | 0 => some fmtE2m1
  | 1 => some fmtE2m3
  | 2 => some fmtE3m2
  | 3 => some fmtE4m3
  | 4 => some fmtE5m2
  | _ => none
/-- Emax(el) of R183. -/
def elemEmax (t : BitVec 4) : Int :=
  match t.toNat with
  | 0 => 2
  | 1 => 2
  | 2 => 4
  | 3 => 8
  | _ => 15

/-! ## CVT (R179, R180) -/

/-- An integer of a type from the low bits of a register. -/
def intValue (t : BitVec 4) (x : Nat) : Int :=
  if typeSigned t then signed (typeWidth t) (x % 2 ^ typeWidth t) else (x % 2 ^ typeWidth t : Nat)
/-- Sat(x, t). -/
def satType (t : BitVec 4) (x : Int) : Int := if typeSigned t then satI (typeWidth t) x else satN (typeWidth t) x
/-- x modulo the width of a type. -/
def wrapType (t : BitVec 4) (x : Int) : Nat := (x % (2 ^ typeWidth t : Int)).toNat

/-- An exact finite value scaled by 2^k and rounded to an integer under the mode, and whether that is inexact. -/
def roundInt (mode : RMode) (n : Bool) (m : Nat) (e : Int) : Int × Bool :=
  let r := roundShift mode n m (-e) false
  (if n then -(r.1 : Int) else r.1, r.2)

/-- Float to integer; a value too large for any integer type is not expanded. -/
def floatToInt (dt : BitVec 4) (env : FpEnv) (v : FVal) (fl : Flags) : Nat × Flags :=
  match v with
  | .nan .. => (0, fl ||| fIV)
  | .inf n => (wrapType dt (satType dt (if n then -(2 ^ 64) else 2 ^ 64)), fl ||| fIV)
  | .fin n m e =>
    let e := e + env.scale
    if m != 0 && 80 < e + (bitLen m : Int) then (wrapType dt (satType dt (if n then -(2 ^ 64) else 2 ^ 64)), fl ||| fIV)
    else
      let y := roundInt env.mode n m e
      let z := satType dt y.1
      (wrapType dt z, if z != y.1 then fl ||| fIV else if y.2 then fl ||| fIX else fl)

/-- A conversion from the bits of a type to the bits of another (R179). -/
def convert (dt st : BitVec 4) (env : FpEnv) (x : Nat) : Nat × Flags :=
  if typeInt st then
    let v := intValue st x
    if typeInt dt then (wrapType dt (if env.sat then satType dt v else v), 0)
    else
      let r := fpFinish (typeFmt dt) env [] 0 false
        (if v == 0 then .zero false else .real { neg := decide (v < 0), m := v.natAbs, e := 0, sticky := false })
      (r.bits, r.flags)
  else
    let sf := typeFmt st
    let v := fpOperand sf env false false (x % 2 ^ (sf.mag + 1))
    if typeInt dt then floatToInt dt env v.1 v.2
    else
      let r := fpFinish (typeFmt dt) env [v.1] v.2 false
        (match v.1 with
        | .inf n => .inf n
        | .fin n m e => if m == 0 then .zero n else .real { neg := n, m := m, e := e, sticky := false }
        | _ => .invalid)
      (r.bits, r.flags)

/-- R180: a result in its register. -/
def extendType (t : BitVec 4) (x : Nat) : Word :=
  if typeInt t && typeSigned t && typeWidth t < 32 then BitVec.ofInt 32 (signed (typeWidth t) x) else nat32 x
/-- A register operand of a type. -/
def Thread.typed (t : Thread) (ty : BitVec 4) (n : Nat) : Nat := if type64 ty then (t.vPair n).toNat else (t.vr n).toNat
/-- A C operand of a type. -/
def typedC (g : Group) (t : Thread) (ty : BitVec 4) (c : BitVec 8) : Nat :=
  if type64 ty then (pairC g t c).toNat else (operandC g t c).toNat

def execCvt (o : OpT) (s : State) : Host.Outcome State Fault Refusal :=
  perLane (.cvt o) s fun _ _ t =>
    let r := convert o.dt o.st (fpEnvOf t.fpenv (modsOf o.m)) (t.typed o.st o.a.toNat)
    fpDone t (if type64 o.dt then t.setPair o.d.toNat (BitVec.ofNat 64 r.1) else t.setV o.d.toNat (extendType o.dt r.1)) r.2
/-- R181. -/
def execPack (o : OpT) (s : State) : Host.Outcome State Fault Refusal :=
  perLane (.pack o) s fun g _ t =>
    let env := fpEnvOf t.fpenv (modsOf o.m)
    let y0 := convert o.dt o.st env (t.typed o.st o.a.toNat)
    let y1 := convert o.dt o.st env (typedC g t o.st (modsOf o.m).c)
    let x := if typeBits o.dt == 16 then y1.1 * 2 ^ 16 + y0.1
      else (t.vr o.d.toNat).toNat % 2 ^ 16 * 2 ^ 16 + y1.1 * 2 ^ 8 + y0.1
    fpDone t (t.setV o.d.toNat (nat32 x)) (y0.2 ||| y1.2)

/-- One element widened exactly (R182) (log 41). -/
def widen (st : BitVec 4) (env : FpEnv) (x : Nat) : Word × Flags :=
  if typeInt st then (extendType st x, 0)
  else
    let v := fpOperand (typeFmt st) env false false x
    if v.1.isNaN then (nat32 (nanResult fmtF32 env [v.1]), if v.1.isSignalling then v.2 ||| fIV else v.2)
    else (nat32 (valueBits fmtF32 v.1), v.2)
/-- R182: C bit 0 selects the high bytes of an 8-bit source. -/
def execUnpk (o : OpT) (s : State) : Host.Outcome State Fault Refusal :=
  perLane (.unpk o) s fun _ _ t =>
    let env := fpEnvOf t.fpenv (modsOf o.m)
    let w := typeBits o.st
    let first := if (modsOf o.m).c.getLsbD 0 then 2 else 0
    let elem (k : Nat) : Nat := field (t.vr o.a.toNat).toNat (w * (first + k) + w - 1) (w * (first + k))
    let y0 := widen o.st env (elem 0)
    let y1 := widen o.st env (elem 1)
    fpDone t ((t.setV o.d.toNat y0.1).setV (o.d.toNat + 1) y1.1) (y0.2 ||| y1.2)

/-! ## MX blocks (R154, R183, R184) -/

/-- Concat of registers, the first lowest. -/
def wordsNat (xs : List Word) : Nat := xs.foldr (fun x r => x.toNat + 2 ^ 32 * r) 0
/-- n words of a value, the lowest first. -/
def natWords (n x : Nat) : List Word := (List.range n).map fun i => nat32 (x / 2 ^ (32 * i))
/-- 32 elements of w bits of a block, and back (R154). -/
def blockElems (w x : Nat) : List Nat := (List.range 32).map fun j => field x (w * j + w - 1) (w * j)
def elemsNat (w : Nat) (es : List Nat) : Nat := es.foldr (fun e r => e % 2 ^ w + 2 ^ w * r) 0

/-- |v|'s floor(log2) for a finite non-zero value. -/
def FVal.exp (v : FVal) : Int :=
  match v with
  | .fin _ m e => e + (bitLen m : Int) - 1
  | _ => 0
def FVal.nonzero (v : FVal) : Bool :=
  match v with
  | .fin _ m _ => m != 0
  | _ => false
def FVal.finite (v : FVal) : Bool :=
  match v with
  | .fin .. => true
  | _ => false

/-- A block quantised (R183, R306): elements, scale, flags, sat and fl. -/
structure Quant where
  elems : List Nat
  scale : Nat
  flags : Flags
  sat : Nat
  fl : Nat
  deriving DecidableEq, Repr

/-- One element: its bits, flags, and whether it counts in sat and in fl. -/
def quantElem (el : Fmt) (emax : Int) (mode : RMode) (sh : Int) (v : FVal) : Nat × Flags × Bool × Bool :=
  match v with
  | .fin n m e =>
    let r := roundTo el mode true { neg := n, m := m, e := e - sh, sticky := false }
    let q := if el.isInf r.1 then el.withSign n el.maxMag else r.1
    (q, r.2, v.nonzero && decide (emax + 1 ≤ v.exp - sh), v.nonzero && el.isZero q)
  | _ => (0, 0, false, false)
/-- R183 on the values of a block, DN apart. -/
def quantize (el : Fmt) (emax : Int) (mode : RMode) (src : List FVal) : Quant :=
  if src.any fun v => !v.finite then
    { elems := List.replicate 32 0, scale := 0xFF
      flags := if src.any fun v => v.isInf || v.isSignalling then fIV else 0
      sat := src.countP fun v => !v.finite, fl := 0 }
  else
    let big := (src.filter FVal.nonzero).map FVal.exp
    let sh : Int := match big with
      | [] => 0
      | x :: r => max (-127) (min 127 (r.foldl max x - emax))
    let qs := src.map (quantElem el emax mode sh)
    { elems := qs.map fun q => q.1, scale := (sh + 127).toNat, flags := qs.foldl (fun f q => f ||| q.2.1) 0
      sat := qs.countP fun q => q.2.2.1, fl := qs.countP fun q => q.2.2.2 }

/-- The source format of MXQ and the destination format of MXDQ. -/
def wideFmt (t : BitVec 4) : Fmt := if t == 0x9 then fmtF32 else fmtBf16
/-- LADDERFLT for an element code that names no element here (R185). -/
def noElem : Fail := mkFail cLADDERFLT 0 1

/-- MXQ in one thread: the new thread and the counts. -/
def mxqThread (rung : Nat) (o : OpT) (t : Thread) : LaneOut × Nat :=
  let dt := elemAt rung o.dt
  match elemFmt dt with
  | none => (.raise noElem, 0)
  | some el =>
    let m := modsOf o.m
    let wide := wideFmt o.st
    let w := wide.mag + 1
    let raw := blockElems w (wordsNat (t.vList o.a.toNat w))
    let q := quantize el (elemEmax dt) (fpEnvOf t.fpenv m).mode (raw.map wide.value)
    let fl := if raw.any wide.isSubnormal then q.flags ||| fDN else q.flags
    let regs := natWords (el.mag + 1) (elemsNat (el.mag + 1) q.elems)
    (fpDone t ((t.setList o.d.toNat regs).setV m.c.toNat (nat32 q.scale)) fl, if trapsOn t.fpenv fl then 0 else q.sat + q.fl)
/-- A block of the rung's element passes v127 (R183-R185); one of a fixed element that does has no encoding. -/
def pastEnd (rung : Nat) (i : Instr) : Bool :=
  match i with
  | .mxq o => decide (128 < o.d.toNat + elemRegs (elemAt rung o.dt))
  | .mxdq o => decide (128 < o.a.toNat + elemRegs (elemAt rung o.st))
  | _ => false
/-- Such a block raises ILLEGAL, before REGRANGE (R55). -/
def runElem (i : Instr) (s : State) (f : Sel → State) : Host.Outcome State Fault Refusal :=
  match s.sel with
  | none => .fault .noIssue
  | some c =>
    if pastEnd c.b.rung i then
      .next { c.raiseEach s c.lanes (mkFail cILLEGAL 0 (instrWord i).toNat) with toPlat := s.toPlat }
    else runSet i s f
/-- R183; the counts go to the range monitor of a monitored attempt (R348). -/
def execMxq (o : OpT) (s : State) : Host.Outcome State Fault Refusal :=
  runElem (.mxq o) s fun c =>
    let step := c.laneStep (.mxq o) fun _ t =>
      match (mxqThread c.b.rung o t).1 with
      | .done t' => .done (t'.advance (Instr.len (.mxq o)))
      | .raise f => .raise f
    let n := ((c.guarded (.mxq o)).map fun l => (mxqThread c.b.rung o (c.thread l)).2).sum
    let s := c.apply s step
    if n == 0 then s else s.addRange c.blk n

/-- One element of MXDQ; an infinite one stays infinite, since SAT belongs to the rounding (R184). -/
def dequantElem (el wide : Fmt) (env : FpEnv) (sc q : Nat) : Nat × Flags :=
  let dn : Flags := if el.isSubnormal q then fDN else 0
  if sc == 0xFF || el.isNaN q then (wide.canonical, (if el.isSignalling q then fIV else 0) ||| dn)
  else match el.value q with
    | .fin n m e =>
      let r := roundTo wide env.mode false { neg := n, m := m, e := e + sc - 127, sticky := false }
      (if env.sat && wide.isInf r.1 then wide.withSign n wide.maxMag else r.1, r.2 ||| dn)
    | v => (wide.withSign v.neg wide.infMag, dn)
/-- R184. -/
def execMxdq (o : OpT) (s : State) : Host.Outcome State Fault Refusal :=
  runElem (.mxdq o) s fun c => c.apply s (c.laneStep (.mxdq o) fun _ t =>
    let st := elemAt c.b.rung o.st
    match elemFmt st with
    | none => .raise noElem
    | some el =>
      let m := modsOf o.m
      let env := fpEnvOf t.fpenv m
      let wide := wideFmt o.dt
      let w := el.mag + 1
      let sc := (operandC c.g t m.c).toNat % 256
      let rs := (blockElems w (wordsNat (t.vList o.a.toNat w))).map (dequantElem el wide env sc)
      let fl := rs.foldl (fun f r => f ||| r.2) 0
      let regs := natWords (wide.mag + 1) (elemsNat (wide.mag + 1) (rs.map fun r => r.1))
      fpDone t ((t.setList o.d.toNat regs).advance (Instr.len (.mxdq o))) fl)

end Sys2Proof.Machine
end

