-- ==== Sys2Proof/Machine/Members.lean ====
section
/-! DEFINITION. Waits of cross-lane and whole-group instructions: arrival, MASKFLT, and the return of the members (spec 03 R87-R90,
R94, 10 R322, 04 R124). -/

namespace Sys2Proof.Machine

open Sys2Proof

def maskFlt (detail : Nat) : Fail := mkFail cMASKFLT 0 detail

/-- An open wait that threads reaching pc join (R87): under the implied mask one that is not a trapped thread's own. -/
def Group.openWait (g : Group) (pc : Dword) (named : Bool) : Option MemberWait :=
  g.waits.find? fun w => w.pc == pc && (named || !(lanesOf w.arrived).any fun l => (g.thread l).trapped)

/-- Threads of the group become member-waiting at an open wait, or at a new one with the snapshot given; guard-false members arrive too
(R59). -/
def Sel.join (c : Sel) (s : State) (i : Instr) (at_ : MemberWait ⊕ LaneSet) : State :=
  let lanes := c.issue.lanes
  let guarded := laneSet (c.guarded i)
  s.updGroup c.blk c.grp fun g =>
    let waits := match at_ with
      | .inr snap => g.waits ++ [{ pc := c.issue.pc, instr := i, snapshot := snap, arrived := lanes, guarded := guarded }]
      | .inl x => g.waits.map fun w =>
        if w == x then { w with arrived := w.arrived ||| lanes, guarded := w.guarded ||| guarded } else w
    { g with waits := waits, threads := g.threads.mapIdx fun l t => if lanes.getLsbD l then t.setState .member else t }

/-- A set arrives (R87, R88): `mask` is the named mask register's value, none for the implied mask. -/
def Sel.arriveTested (c : Sel) (s : State) (i : Instr) (mask : Option LaneSet) : State :=
  let trapped := c.lanes.any fun l => (c.thread l).trapped
  let own := mask.isNone && trapped
  match (if own then none else c.g.openWait c.issue.pc mask.isSome) with
  | none =>
    let snap := match mask with
      | some m => m
      | none => if trapped then c.issue.lanes else c.g.liveLanes
    if !laneSubset snap c.g.liveLanes then c.raiseEach s c.lanes (maskFlt 1)
    else if !laneSubset c.issue.lanes snap then c.raiseEach s c.lanes (maskFlt 2)
    else c.join s i (.inr snap)
  | some w =>
    if mask.any fun m => m != w.snapshot then c.raiseEach s c.lanes (maskFlt 4)
    else if !laneSubset c.issue.lanes w.snapshot then c.raiseEach s c.lanes (maskFlt 2)
    else c.join s i (.inl w)

/-- A cross-lane instruction (R111): a boundary instruction for every arriving thread (R94), the guard-false ones included, which
arrive too (R59) (log 18). -/
def crossLane (i : Instr) (s : State) (c8 : BitVec 8) : Host.Outcome State Fault Refusal :=
  runSet i s fun c =>
    if c.lanes.any fun l => c.g.loading l then c.hold s
    else
      let mask := if c8.getLsbD 4 then some (c.g.kr (c8.toNat % 16)) else none
      c.arriveTested (c.enterRegion s c.lanes) i mask

/-- An instruction the whole group issues (R90, R124, R322), a boundary for each member (R94): a trapped thread takes MASKFLT detail 5
alone. -/
def wholeGroup (i : Instr) (s : State) : Host.Outcome State Fault Refusal :=
  runSet i s fun c =>
    if c.lanes.any fun l => c.g.loading l then c.hold s
    else
      let s := c.enterRegion s c.lanes
      if c.lanes.any fun l => (c.thread l).trapped then c.raiseEach s c.lanes (maskFlt 5)
      else c.arriveTested s i none

/-! ## Completion -/

/-- The members leave a wait: each is runnable behind the instruction, and so is its region entry (R87, R94). -/
def Group.releaseWait (g : Group) (w : MemberWait) (keep : LaneSet) : Group :=
  { g with
    waits := g.waits.filter fun x => x != w
    threads := g.threads.mapIdx fun l t =>
      if keep.getLsbD l then (t.setState .runnable).pass (Instr.len w.instr) else t }
/-- The members that fault return to the instruction (R88, R165). -/
def Group.refuseWait (g : Group) (lanes : LaneSet) : Group :=
  { g with threads := g.threads.mapIdx fun l t => if lanes.getLsbD l then t.setState .runnable else t }
/-- Every lane of the snapshot has arrived (R87). -/
def MemberWait.complete (w : MemberWait) : Bool := laneSubset w.snapshot w.arrived && w.arrived != 0

/-- The selection that a wait's members make, for the records their faults get. -/
def State.waitSel (s : State) (blk grp : Nat) (w : MemberWait) : Option Sel :=
  State.sel { s with issue := some { blk := blk, grp := grp, lanes := w.arrived, pc := w.pc } }

/-- A wait closes: its effect on the group, its members released, those that fault excepted, and their records. -/
def State.closeWait (s : State) (blk grp : Nat) (w : MemberWait) (f : Group → Group) (fs : List LaneFail) : State :=
  let bad := laneSet (fs.map LaneFail.lane)
  let s := s.updGroup blk grp fun g => ((f g).releaseWait w (w.arrived &&& ~~~bad)).refuseWait bad
  match s.waitSel blk grp w with
  | some c => c.raise s fs
  | none => s
/-- A fault of a wait's every member (R88, R316, R326). -/
def State.failWait (s : State) (blk grp : Nat) (w : MemberWait) (f : Fail) : State :=
  s.closeWait blk grp w id ((lanesOf w.arrived).map fun l => { lane := l, fail := f, resume := w.pc })

end Sys2Proof.Machine
end

