-- ==== Sys2Proof/Machine/Masks.lean ====
section
/-! DEFINITION. Mask registers: KMOV, KOP, KPOP, JOIN, LEAVE, WAITK and the release of its waiters (spec 03 R105-R110). -/

namespace Sys2Proof.Machine

open Sys2Proof

/-- A boundary instruction that writes group state once, when some thread is guard-true (R105); `f` gets the guard-true lanes. -/
def maskOp (i : Instr) (s : State) (f : LaneSet → Group → Group) : Host.Outcome State Fault Refusal :=
  runBoundary i s fun c s =>
    match c.guarded i with
    | [] => c.passAll s i
    | l :: r => c.passAll (s.updGroup c.blk c.grp (f (laneSet (l :: r)))) i

def execKmov (o : OpR) (s : State) : Host.Outcome State Fault Refusal :=
  maskOp (.kmov o) s fun _ g =>
    match o.b.toNat with
    | 0 => g.setK o.d.toNat (g.kr o.a.toNat)
    | 1 => g.setK o.d.toNat (g.sPair o.a.toNat)
    | _ => g.setSPair o.d.toNat (g.kr o.a.toNat)

/-- R107; `e` is the set of guard-true threads. -/
def kopValue (op : Nat) (g : Group) (e a b : LaneSet) : LaneSet :=
  match op with
  | 0 => a &&& b
  | 1 => a ||| b
  | 2 => a ^^^ b
  | 3 => a &&& ~~~b
  | 4 => ~~~a
  | 5 => g.liveLanes
  | _ => e
def execKop (o : OpR) (s : State) : Host.Outcome State Fault Refusal :=
  maskOp (.kop o) s fun e g =>
    g.setK o.d.toNat (kopValue ((modsOf o.m).c.toNat % 8) g e (g.kr o.a.toNat) (g.kr o.b.toNat))
/-- R108: B 0 counts, B 1 finds the lowest lane, 64 where there is none. -/
def execKpop (o : OpR) (s : State) : Host.Outcome State Fault Refusal :=
  maskOp (.kpop o) s fun _ g =>
    let k := g.kr o.a.toNat
    g.setS o.d.toNat (nat32 (if o.b == 0 then popCount k else ((lanesOf k).head?).getD 64))
def execJoin (o : OpR) (s : State) : Host.Outcome State Fault Refusal :=
  maskOp (.join o) s fun e g => g.setK o.d.toNat (g.kr o.d.toNat ||| e)
def execLeave (o : OpR) (s : State) : Host.Outcome State Fault Refusal :=
  maskOp (.leave o) s fun e g => g.setK o.d.toNat (g.kr o.d.toNat &&& ~~~e)

/-- R110: the threads of the set become member-waiting. -/
def execWaitk (o : OpR) (s : State) : Host.Outcome State Fault Refusal :=
  runBoundary (.waitk o) s fun c s =>
    s.updGroup c.blk c.grp fun g =>
      { g with threads := g.threads.mapIdx fun l t =>
          if c.issue.lanes.getLsbD l then t.setState (.waitk o.d.toNat (Instr.len (.waitk o))) else t }

/-- The thread waits at a WAITK on k. -/
def Thread.waitsAt (t : Thread) (k : Nat) : Bool :=
  match t.st with
  | .waitk n _ => n == k
  | _ => false
/-- R110: every lane set in k waits at a WAITK on k; a trapped one has not arrived (log 19). -/
def Group.waitkReady (g : Group) (k : Nat) : Bool :=
  g.threads.any (fun t => t.waitsAt k) &&
  (lanesOf (g.kr k)).all fun l => (g.thread l).waitsAt k && !(g.thread l).trapped
/-- A waiter of WAITK released. -/
def Thread.passWaitk (t : Thread) (k : Nat) : Thread :=
  match t.st with
  | .waitk n len => if n == k then (t.setState .runnable).pass len else t
  | _ => t
/-- WAITK_RELEASE; a mask wait that names a halted thread waits (R459). -/
def execWaitkRelease (s : State) : Host.Outcome State Fault Refusal :=
  runEvent s (match s.subject with
    | .mask blk grp k =>
      match s.group? blk grp with
      | some g =>
        if !g.halted && g.waitkReady k then some (s.updGroup blk grp fun g => { g with threads := g.threads.map fun t => t.passWaitk k })
        else none
      | none => none
    | _ => none)

end Sys2Proof.Machine
end

