-- ==== Sys2Proof/Machine/CrossLane.lean ====
section
/-! DEFINITION. Cross-lane instructions: their arrivals and what each does when its wait completes (spec 03 R92, R111-R115). -/

namespace Sys2Proof.Machine

open Sys2Proof

/-! ## Arrivals -/

def execVote (o : OpR) (s : State) : Host.Outcome State Fault Refusal := crossLane (.vote o) s (modsOf o.m).c
def execShfl (o : OpR) (s : State) : Host.Outcome State Fault Refusal := crossLane (.shfl o) s (modsOf o.m).c
def execRedux (o : OpR) (s : State) : Host.Outcome State Fault Refusal := crossLane (.redux o) s (modsOf o.m).c
def execMatchLanes (o : OpR) (s : State) : Host.Outcome State Fault Refusal := crossLane (.matchLanes o) s (modsOf o.m).c
def execScan (o : OpR) (s : State) : Host.Outcome State Fault Refusal := crossLane (.scan o) s (modsOf o.m).c
def execElect (o : OpR) (s : State) : Host.Outcome State Fault Refusal := crossLane (.elect o) s (modsOf o.m).c

/-! ## The combining tree (R92) -/

/-- One level of the tree. -/
def pairUp {α : Type} (op : α → α → α) : List α → List α
  | a :: b :: r => op a b :: pairUp op r
  | l => l
/-- Six levels, for at most 64 contributors. -/
def treeFold {α : Type} (op : α → α → α) (id : α) (l : List α) : α :=
  ((pairUp op (pairUp op (pairUp op (pairUp op (pairUp op (pairUp op l)))))).head?).getD id

/-- A value with the flags that formed it. -/
abbrev Flagged := Word × Flags
/-- The operations of R114, under the environment of the lowest contributor. -/
def reduxOp (op : Nat) (env : FpEnv) (x y : Flagged) : Flagged :=
  let a := x.1
  let b := y.1
  let fl := x.2 ||| y.2
  let fp (r : FpOut) : Flagged := (nat32 r.bits, fl ||| r.flags)
  match op with
  | 0 => (a + b, fl)
  | 1 => (minI a b, fl)
  | 2 => (maxI a b, fl)
  | 3 => (minN a b, fl)
  | 4 => (maxN a b, fl)
  | 5 => (a &&& b, fl)
  | 6 => (a ||| b, fl)
  | 7 => (a ^^^ b, fl)
  | 8 => fp (fpOut2 fmtF32 fnAdd env Mods.default a.toNat b.toNat)
  | 9 => fp (fpOutMinMax false fmtF32 env Mods.default a.toNat b.toNat)
  | _ => fp (fpOutMinMax true fmtF32 env Mods.default a.toNat b.toNat)
def reduxId (op : Nat) : Word :=
  match op with
  | 1 => 0x7FFFFFFF
  | 2 => 0x80000000
  | 3 => 0xFFFFFFFF
  | 5 => 0xFFFFFFFF
  | 8 => 0x80000000
  | 9 => 0x7F800000
  | 10 => 0xFF800000
  | _ => 0

/-! ## Effects at completion -/

/-- A write in each contributor. -/
def Group.mapLanes (g : Group) (m : LaneSet) (f : Nat → Thread → Thread) : Group :=
  { g with threads := g.threads.mapIdx fun l t => if m.getLsbD l then f l t else t }

/-- R112. -/
def voteDone (o : OpR) (con : LaneSet) (g : Group) : Group :=
  let ls := lanesOf con
  let yes (l : Nat) : Bool := (g.thread l).pr (o.a.toNat % 8) != o.a.getLsbD 3
  match (modsOf o.m).c.toNat / 32 with
  | 0 => g.mapLanes con fun _ t => t.setP (o.d.toNat % 8) (ls.any yes)
  | 1 => g.mapLanes con fun _ t => t.setP (o.d.toNat % 8) (ls.all yes)
  | 2 => g.mapLanes con fun _ t => t.setP (o.d.toNat % 8) (ls.all yes || !ls.any yes)
  | _ => if ls.isEmpty then g else g.setSPair o.d.toNat (laneSet (ls.filter yes))
/-- The source lane of R113, none below lane 0. -/
def shflSource (mode l b : Nat) : Option Nat :=
  match mode with
  | 0 => some b
  | 1 => if b ≤ l then some (l - b) else none
  | 2 => some (l + b)
  | _ => some (l ^^^ b)
/-- R113: the source, or the lane itself where the source is no contributor; a uniform B is read now, in the completing cycle (log 24). -/
def shflDone (o : OpR) (con : LaneSet) (g : Group) : Group :=
  g.mapLanes con fun l t =>
    let src := shflSource ((modsOf o.m).c.toNat / 32) l (operandB g t o.bk o.b).toNat
    let lane := match src with
      | some x => if x < 64 && con.getLsbD x then x else l
      | none => l
    t.setV o.d.toNat ((g.thread lane).vr o.a.toNat)
/-- R115. -/
def matchDone (o : OpR) (con : LaneSet) (g : Group) : Group :=
  let value (t : Thread) : Dword :=
    if (modsOf o.m).c.toNat / 32 == 1 then t.vPair o.a.toNat else (t.vr o.a.toNat).setWidth 64
  g.mapLanes con fun _ t =>
    t.setPair o.d.toNat (laneSet ((lanesOf con).filter fun l => value (g.thread l) == value t))
def electDone (o : OpR) (con : LaneSet) (g : Group) : Group :=
  g.mapLanes con fun l t => t.setP (o.d.toNat % 8) (((lanesOf con).head?).any fun x => x == l)

/-- R114: the result and flags of each contributor, by lane. -/
def reduxResults (isScan : Bool) (o : OpR) (con : LaneSet) (g : Group) : List (Nat × Flagged) :=
  let ls := lanesOf con
  let m := modsOf o.m
  let low := match ls with | l :: _ => (g.thread l).fpenv | [] => 1
  let env := fpEnvOf low { Mods.default with rnd := m.rnd }
  let op := o.b.toNat % 16
  let tree (xs : List Nat) : Flagged :=
    treeFold (reduxOp op env) (reduxId op, 0) (xs.map fun l => ((g.thread l).vr o.a.toNat, 0))
  let all := tree ls
  let excl := m.c.toNat / 32 == 1
  ls.map fun l => (l, if isScan then tree (ls.filter fun x => x < l || (x == l && !excl)) else all)
/-- The contributors that take FPTRAP (R114, R165). -/
def reduxFails (rs : List (Nat × Flagged)) (g : Group) (pc : Dword) : List LaneFail :=
  rs.filterMap fun r =>
    if trapsOn (g.thread r.1).fpenv r.2.2 then
      some { lane := r.1, fail := mkFail cFPTRAP 0 r.2.2.toNat, resume := pc }
    else none
def reduxDone (o : OpR) (rs : List (Nat × Flagged)) (g : Group) : Group :=
  g.mapLanes (laneSet (rs.map Prod.fst)) fun l t =>
    match assoc rs l with
    | some r => if trapsOn t.fpenv r.2 then t else (t.setV o.d.toNat r.1).raiseFlags r.2
    | none => t

/-- UNSATISFIABLE_WAIT (R89): every member-waiting thread takes MASKFLT detail 3, and the waits close. -/
def Group.unsatisfiable (g : Group) : Bool :=
  let memberWaiting (t : Thread) : Bool := match t.st with | .member => true | .waitk .. => true | _ => false
  g.threads.any memberWaiting && g.threads.all (fun t => memberWaiting t || !t.live) &&
  g.waits.all (fun w => !w.complete) && (List.range 12).all fun k => !g.waitkReady k
def State.failAllWaits (s : State) (blk grp : Nat) (g : Group) : State :=
  let lanes := (List.range 64).filter fun l => (g.thread l).live
  let s := s.updGroup blk grp fun g => { g with waits := [], threads := g.threads.map fun t => if t.live then t.setState .runnable else t }
  -- each thread's record carries its own PC: one set per lane, ascending
  lanes.foldl (fun s l =>
    match State.sel { s with issue := some { blk := blk, grp := grp, lanes := laneBit l, pc := (g.thread l).pc } } with
    | some c => c.raiseEach s [l] (maskFlt 3)
    | none => s) s
def execUnsatisfiableWait (s : State) : Host.Outcome State Fault Refusal :=
  runEvent s (match s.subject with
    | .group blk grp =>
      match s.group? blk grp with
      | some g => if !g.halted && g.unsatisfiable then (s.failAllWaits blk grp g).wholly blk grp (BitVec.allOnes 64) else none
      | none => none
    | _ => none)

end Sys2Proof.Machine
end

