-- ==== Sys2Proof/Machine/Allot.lean ====
section
/-! DEFINITION. ALLOT: the group's vector and uniform allotments (spec 04 R122-R127). -/

namespace Sys2Proof.Machine

open Sys2Proof

/-- Registers of a file that a group holds; a DET launch gives none back (R127). -/
def heldV (l : Launch) (g : Group) : Nat := 64 * (if l.lr.det then max g.vallot l.lr.vregs else g.vallot)
def heldS (l : Launch) (g : Group) : Nat := if l.lr.det then max g.uallot l.lr.uregs else g.uallot
/-- Sum over the groups that a core's scheduler holds. -/
def State.sumGroups (s : State) (core sched : Nat) (f : Launch → Group → Nat) : Nat :=
  (s.blocksOn core).foldl (fun n b =>
    match s.launch? b.launch with
    | some l => b.groups.foldl (fun n g => if g.sched == sched then n + f l g else n) n
    | none => n) 0
/-- Room (R126), for registers of the vector file or of the uniform file. -/
def State.roomFor (s : State) (core sched : Nat) (uniform : Bool) (need : Nat) : Bool :=
  if uniform then decide (s.sumGroups core sched heldS + need ≤ 4096) else decide (s.sumGroups core sched heldV + need ≤ 98304)

/-- Registers released, or allotted as zeros (R125). -/
def resize (n : Nat) (xs : List Word) : List Word := xs.take n ++ List.replicate (n - xs.length) 0
def Group.setAllot (g : Group) (uniform : Bool) (n : Nat) : Group :=
  if uniform then { g with uallot := n, s := resize n g.s }
  else { g with vallot := n, threads := g.threads.map fun t => { t with v := resize n t.v } }

/-- D bit 3 names the file, A holds n - 1 (R123). -/
def allotUniform (o : OpR) : Bool := o.d.getLsbD 3
/-- Whether the change succeeds (R125, R127). -/
def State.allotOk (s : State) (b : Block) (l : Launch) (g : Group) (o : OpR) : Bool :=
  let n := o.a.toNat + 1
  let cur := if allotUniform o then g.uallot else g.vallot
  if n ≤ cur then true
  else if l.lr.det then decide (n ≤ if allotUniform o then l.lr.uregs else l.lr.vregs)
  else s.roomFor b.core g.sched (allotUniform o) (if allotUniform o then n - cur else 64 * (n - cur))
/-- ALLOT's effect on its group (R125); it empties the operand latch (R324). -/
def allotDone (o : OpR) (ok : Bool) (g : Group) : Group :=
  let g := if ok then g.setAllot (allotUniform o) (o.a.toNat + 1) else g
  { g with latch := none, threads := g.threads.map fun t => t.setP (o.d.toNat % 8) ok }

/-- R124. -/
def execAllot (o : OpR) (s : State) : Host.Outcome State Fault Refusal := wholeGroup (.allot o) s

end Sys2Proof.Machine
end

