-- ==== Sys2Proof/Machine/Shake.lean ====
section
/-! DEFINITION. SHAKE256 as FIPS 202 defines it (spec 09 R311, 16 R474, R475): Keccak-f[1600] on 25 lanes of 64 bits, rate 136 bytes. -/

namespace Sys2Proof.Machine

open Sys2Proof

/-- The register of FIPS 202's rc(t) after t shifts: its bit 0 is rc(t). -/
def rcRegister : Nat → Nat
  | 0 => 1
  | t + 1 =>
    let r := 2 * rcRegister t
    if 256 ≤ r then Nat.xor r 0x171 else r
/-- The constant that iota adds in round i: bit 2^j - 1 is rc(j + 7i). -/
def iotaConst (i : Nat) : Dword :=
  (List.range 7).foldl (fun c j => if (rcRegister (j + 7 * i)).testBit 0 then c ||| BitVec.ofNat 64 (2 ^ (2 ^ j - 1)) else c) 0
/-- The lanes in the order of rho's walk from lane (1, 0), each a step (x, y) to (y, 2x + 3y) further. -/
def rhoLane : Nat → Nat × Nat
  | 0 => (1, 0)
  | t + 1 => ((rhoLane t).2, (2 * (rhoLane t).1 + 3 * (rhoLane t).2) % 5)
/-- How far rho turns lane (x, y): by the triangular number of its place on the walk; lane (0, 0) stays. -/
def rhoTurn (x y : Nat) : Nat :=
  match (List.range 24).find? fun t => rhoLane t == (x, y) with
  | some t => (t + 1) * (t + 2) / 2 % 64
  | none => 0

/-- The state of Keccak-f[1600]: five planes (y) of five lanes (x). -/
abbrev Planes := List (List Dword)
def Planes.lane (a : Planes) (x y : Nat) : Dword := (a.getD (y % 5) []).getD (x % 5) 0
/-- The state whose lane (x, y) is f x y. -/
def Planes.of (f : Nat → Nat → Dword) : Planes := (List.range 5).map fun y => (List.range 5).map fun x => f x y
def keccakTheta (a : Planes) : Planes :=
  let parity := (List.range 5).map fun x => (List.range 5).foldl (fun p y => p ^^^ a.lane x y) 0
  let p (x : Nat) : Dword := parity.getD (x % 5) 0
  Planes.of fun x y => a.lane x y ^^^ (p (x + 4) ^^^ (p (x + 1)).rotateLeft 1)
def keccakRho (a : Planes) : Planes := Planes.of fun x y => (a.lane x y).rotateLeft (rhoTurn x y)
def keccakPi (a : Planes) : Planes := Planes.of fun x y => a.lane (x + 3 * y) x
def keccakChi (a : Planes) : Planes := Planes.of fun x y => a.lane x y ^^^ (~~~(a.lane (x + 1) y) &&& a.lane (x + 2) y)
def keccakIota (i : Nat) (a : Planes) : Planes := Planes.of fun x y => if x == 0 && y == 0 then a.lane 0 0 ^^^ iotaConst i else a.lane x y
def keccakF (a : Planes) : Planes :=
  (List.range 24).foldl (fun a i => keccakIota i (keccakChi (keccakPi (keccakRho (keccakTheta a))))) a

/-- A block of 136 bytes is added into the first 17 lanes, plane by plane, and the permutation is run. -/
def absorb (a : Planes) (block : List Byte) : Planes :=
  keccakF (Planes.of fun x y =>
    if x + 5 * y < 17 then a.lane x y ^^^ BitVec.ofNat 64 (ofBytes ((block.drop (8 * (x + 5 * y))).take 8)) else a.lane x y)
/-- The message with the SHAKE suffix 1111 and the padding 10*1, a whole number of blocks. -/
def shakePad (m : List Byte) : List Byte :=
  let n := 136 - m.length % 136
  m ++ (List.range n).map fun i => (if i == 0 then 0x1F else 0) ||| (if i + 1 == n then 0x80 else 0)
/-- The blocks of a padded message, in turn. -/
def absorbAll (n : Nat) (a : Planes) (m : List Byte) : Planes :=
  match n with
  | 0 => a
  | n + 1 => absorbAll n (absorb a (m.take 136)) (m.drop 136)
/-- The first 64 bytes of SHAKE256: the first eight lanes. -/
def shake256 (m : List Byte) : List Byte :=
  let p := shakePad m
  let a := absorbAll (p.length / 136) (Planes.of fun _ _ => 0) p
  (List.range 8).flatMap fun i => bytesLE 8 (a.lane (i % 5) (i / 5)).toNat

end Sys2Proof.Machine
end

