-- ==== Sys2Proof/Machine/Survey.lean ====
section
/-! DEFINITION. The Surveyor of DET launches: signatures, conflicts and capacity (spec 13 R409, R410). -/

namespace Sys2Proof.Machine

open Sys2Proof

/-- What one access touches: a line of global memory or of the tile store, and the bytes read, written and contributed to. -/
structure Touch where
  tile : Bool
  line : Nat
  reads : BitVec 128
  writes : BitVec 128
  reds : BitVec 128
  deriving DecidableEq, Repr

/-- Byte offsets as a mask. -/
def maskOf (offs : List Nat) : BitVec 128 := offs.foldl (fun m o => m ||| BitVec.ofNat 128 (2 ^ o)) 0

/-- Who accesses, for the Surveyor: a group or an engine operation of a block, and what is ordered before it. -/
structure Party where
  blk : Nat
  grp : Nat
  span : Nat
  interval : Nat
  known : List (Nat × Nat × Nat)
  deriving DecidableEq, Repr
def Group.party (g : Group) (blk : Nat) : Party := { blk := blk, grp := g.idx, span := g.span, interval := g.interval, known := g.known }
/-- The operations a group has issued are numbered apart from the groups. -/
def opParty (grp interval : Nat) : Nat := 128 * (interval + 1) + grp
def EngOp.surveyed (o : EngOp) : Party := { blk := o.blk, grp := o.party, span := 0, interval := 0, known := o.known }
/-- The signature's interval is ordered before the party's present one (R409): they are of one party, or barrier edges, tickets, issues
and joins carried it. -/
def orderedBefore (p : Party) (x : Signature) : Bool :=
  (x.blk == p.blk && x.grp == p.grp) || p.known.any fun k => k.1 == x.blk && k.2.1 == x.grp && decide (x.interval ≤ k.2.2)
/-- The bytes of a line that both access, at least one of them writing; RED counts as a write against all but RED. -/
def Touch.clash (t : Touch) (x : Signature) : BitVec 128 :=
  if t.tile == x.tile && t.line == x.line then
    t.writes &&& (x.reads ||| x.writes ||| x.reds) ||| t.reds &&& (x.reads ||| x.writes) ||| t.reads &&& (x.writes ||| x.reds)
  else 0
def Touch.conflicts (t : Touch) (x : Signature) : Bool := t.clash x != 0
/-- The address of the lowest byte of a line that a mask names. -/
def Touch.low (t : Touch) (m : BitVec 128) : Nat :=
  let a := 128 * t.line + (((List.range 128).find? fun i => m.getLsbD i).getD 0)
  if t.tile then tileEa a else a

/-- Not yet freed (R410): some group of its launch, a group yet to come included, or some operation under way is in an interval that is
not ordered with it (log 30). -/
def State.sigHeld (s : State) (x : Signature) : Bool :=
  match s.launch? x.launch with
  | none => false
  | some l =>
    l.next < l.lr.blocks ||
    (s.blocks.any fun b => b.launch == x.launch && (!x.tile || b.id == x.blk) && b.groups.any fun g => !g.ended && !orderedBefore (g.party b.id) x) ||
    s.cores.any fun c => c.ops.any fun o => o.launch == x.launch && (!x.tile || o.blk == x.blk) && !orderedBefore o.surveyed x

/-- The detail of DETCONF (R410); of an operation, the other party's group is the one that issued it. -/
def detDetail (cause grp blkidx : Nat) : Nat := cause + grp % 128 * 2 ^ 8 + blkidx % 2 ^ 17 * 2 ^ 15

/-- The line signatures that the DET launches of a partition hold: one for each line, party and interval (R410). -/
def State.sigCount (s : State) (part : Nat) : Nat :=
  let mine := s.signatures.filter fun x => match s.launch? x.launch with | some k => k.part == part | none => false
  (mine.map fun x => (x.launch, x.blk, x.grp, x.span, x.tile, x.line)).eraseDups.length
/-- One access of a party of a DET launch is recorded; the details of the conflicts it completes, or of the exhausted capacity, each with
the lowest address concerned. -/
def State.survey (s : State) (l : Launch) (p : Party) (t : Touch) : State × List (Nat × Nat) :=
  if !l.lr.det then (s, [])
  else
    let s := { s with signatures := s.signatures.filter s.sigHeld }
    let bad := s.signatures.filter fun x =>
      x.launch == l.id && (!t.tile || x.blk == p.blk) && t.conflicts x && !orderedBefore p x
    let details := bad.map fun x => (detDetail 1 x.grp (match s.block? x.blk with | some o => o.blkidx | none => 0), t.low (t.clash x))
    let kept (x : Signature) : Bool :=
      x.launch == l.id && x.blk == p.blk && x.grp == p.grp && x.span == p.span && x.tile == t.tile && x.line == t.line
    let mine (x : Signature) : Bool := kept x && x.interval == p.interval
    let new : Signature := { launch := l.id, blk := p.blk, grp := p.grp, span := p.span, interval := p.interval, tile := t.tile, line := t.line,
                             reads := t.reads, writes := t.writes, reds := t.reds }
    if s.signatures.any mine then
      ({ s with signatures := s.signatures.map fun x => if mine x then
          { x with reads := x.reads ||| t.reads, writes := x.writes ||| t.writes, reds := x.reds ||| t.reds } else x }, details)
    else
      let capacity := match s.part? l.part with | some p => p.capacity | none => 0
      if !s.signatures.any kept && capacity ≤ s.sigCount l.part then (s, details ++ [(detDetail 2 0 0, t.low (t.reads ||| t.writes ||| t.reds))])
      else ({ s with signatures := s.signatures ++ [new] }, details)
/-- Several accesses, with all their details and addresses. -/
def State.surveyTouches (s : State) (l : Launch) (p : Party) (ts : List Touch) : State × List (Nat × Nat) :=
  ts.foldl (fun r t => let x := r.1.survey l p t; (x.1, r.2 ++ x.2)) (s, [])
/-- The same, the details alone: a thread's record names the address of its access (R442). -/
def State.surveyAll (s : State) (l : Launch) (p : Party) (ts : List Touch) : State × List Nat :=
  let x := s.surveyTouches l p ts
  (x.1, x.2.map Prod.fst)
/-- Conflicts that an access of a set completes beside the one it faults with: each is logged too (R410). -/
def State.logConflicts (s : State) (c : Sel) (lane ea : Nat) (ds : List Nat) : State :=
  ds.foldl (fun s d => s.logRecord evFAULT c.l (s.record c.b c.l c.grp lane c.issue.pc (c.thread lane).region (mkFail cDETCONF ea d))) s

end Sys2Proof.Machine
end

