-- ==== Sys2Proof/Machine/Access.lean ====
section
/-! DEFINITION. What a thread's access names: its bytes, the checks at issue, and the tile store with its shadow (spec 06 R189, R190,
R203-R205, R210; 09 R287, R288; 13 R412). -/

namespace Sys2Proof.Machine

open Sys2Proof

/-! ## Addresses -/

/-- The device address of byte o of a thread's private words (R204). -/
def privateByte (dev : Nat) (l : Launch) (b : Block) (grp lane o : Nat) : Nat :=
  let w := o / 4
  normEa dev (l.lr.swap.toNat + b.blkidx * l.lr.groups * l.lr.priv * 256 + ((grp * l.lr.priv + w) * 64 + lane) * 4 + o % 4)
/-- The global bytes of an access of n bytes at ea, which is not in space 0x3. -/
def State.bytesAt (s : State) (c : Sel) (lane ea n : Nat) : List Nat :=
  (List.range n).map fun i =>
    if eaSpace ea == 2 then privateByte s.dev c.l c.b c.grp lane (eaOff ea + i) else normEa s.dev (ea + i)

/-- A range of the block's declared ranges holds the n bytes at ea whole (R412). -/
def Block.owns (b : Block) (ea n : Nat) : Bool :=
  b.owners.any fun r => r.2 != 0 && decide (r.1 + r.2 ≤ 2 ^ 64) && decide (r.1 ≤ ea) && decide (ea + n ≤ r.1 + r.2)

/-- The checks of R210 for n bytes at ea: space, alignment to `align` (1 for none), the limits of spaces 0x2 and 0x3, ownership. -/
def State.checkAccess (s : State) (c : Sel) (ea n align : Nat) (owned : Bool) : Option Fail :=
  match spaceFault s.podSize ea with
  | some d => some (mkFail cADDRSPACE ea d)
  | none =>
    if ea % align != 0 then some (mkFail cMISALIGN ea 0)
    else if eaSpace ea == 2 && 4 * c.l.lr.priv < eaOff ea + n then some (mkFail cPRIVLIM ea 0)
    else if eaSpace ea == 3 && c.l.lr.tiles < eaOff ea + n then some (mkFail cTILELIM ea 0)
    else if owned && c.l.lr.own && eaSpace ea ≤ 1 && !c.b.owns ea n then some (mkFail cOWNFLT ea 1)
    else none

/-- The entry a page of an address has, if any, for park sets and requests. -/
def answerKey : Answer → Option EntryKey
  | .served _ k _ _ _ => some k
  | .direct _ k => k
  | .absent k => some k
  | .filling k => some k
  | .rejected k => some k
  | _ => none

/-! ## The tile store (R287, R288) -/

/-- One byte written: into the tile store, or in a monitored attempt into its shadow line, drawn where there is none. -/
def Block.tilePut (b : Block) (off : Nat) (v : Byte) : Block :=
  if b.monitored then
    let line := match b.shadow? (off / 128) with
      | some l => l
      | none => b.tile.readBytes (off / 128 * 128) 128
    { b with shadow := assocSet b.shadow (off / 128) (line.set (off % 128) v) }
  else { b with tile := b.tile.write off v }
def Block.tileWrite (b : Block) (bs : List (Nat × Byte)) : Block := bs.foldl (fun b x => b.tilePut x.1 x.2) b
/-- Consecutive bytes from off on. -/
def runOf (off : Nat) (bs : List Byte) : List (Nat × Byte) := bs.zipIdx.map fun x => (off + x.2, x.1)
/-- The shadow lines that writes at these offsets would draw. -/
def Block.newShadow (b : Block) (offs : List Nat) : Nat :=
  if b.monitored then ((offs.map fun o => o / 128).eraseDups.filter fun n => (b.shadow? n).isNone).length else 0

/-- Writes to a block's tile store: performed, or where the shadow pool has no line the attempt is doomed (R288), or the writer
stalls in a DET launch (none, R360). -/
def State.tileStore (s : State) (b : Block) (l : Launch) (bs : List (Nat × Byte)) : Option State :=
  let n := b.newShadow (bs.map Prod.fst)
  match s.shadowRoom b l n with
  | .free => some ((s.takeShadow b.id n).updBlock b.id fun b => b.tileWrite bs)
  | .exhausted => some (s.doom b.id .exhaustion)
  | .stall => none

end Sys2Proof.Machine
end

