-- ==== Sys2Proof/Machine/Park.lean ====
section
/-! DEFINITION. A thread that meets a fault response: the horizon, parking, delivery at the region entry, and waking (spec 03 R95, 06
R211, 08 R262, R267, R268). -/

namespace Sys2Proof.Machine

open Sys2Proof

/-- A page as a park set names it. -/
def addPage (ps : List ParkPage) (k : EntryKey) (toDevice : Bool) : List ParkPage :=
  if ps.any fun p => p.key == k && p.toDevice == toDevice then ps else ps ++ [{ key := k, woken := false, toDevice := toDevice, logged := false }]

/-- The fault of a thread's access at a page (R211, R267): what `State.stop` is told. -/
inductive Stop where
  | page (key : EntryKey) (toDevice : Bool)
  | deny (f : Fail)
  deriving DecidableEq, Repr

/-- A thread inside an instruction that it has issued and that waits, sleeps or has arrived: the instruction takes its full effect before the
thread parks or meets its denial (R95). -/
def TState.open (x : TState) : Bool :=
  match x with
  | .member | .waitk .. | .sleeping .. | .yielding .. => true
  | .waiting (.sync ..) | .waiting (.await ..) | .waiting .arrive | .waiting (.barrier ..) | .waiting (.ticket ..) | .waiting (.mwait ..) => true
  | _ => false
/-- The PC of the next instruction a thread would issue (R95): behind the one it waits or sleeps in; a boundary instruction that waits under
R94 is not performed yet, and is itself the next (log 4). -/
def Thread.nextPc (t : Thread) : Dword :=
  let past (len : Nat) : Dword := t.pc + BitVec.ofNat 64 len
  match t.st with
  | .waitk _ len => past len
  | .sleeping _ len => past len
  | .yielding _ _ len => past len
  | .waiting (.sync _ _ _ len) => past len
  | .waiting (.await _ _ _ len) => past len
  | .waiting (.barrier _ _ _ _ len) => past len
  | .waiting (.ticket _ _ len) => past len
  | .waiting (.mwait _ _ _ _ _ len _) => past len
  | _ => t.pc
/-- One fault response of the access with the number `id` by the instruction at pc: the thread stops at its horizon. The first denial
in program order is kept, its SEQL holding `id` until the record is logged. -/
def State.stop (s : State) (blk grp lane id : Nat) (pc : Dword) (why : Stop) (ea : Nat) : State :=
  match s.block? blk, s.thread? blk grp lane with
  | some b, some t =>
    match s.launch? b.launch with
    | none => s
    | some l =>
      let horizon := t.horizon.getD t.nextPc
      let denials (f : Fail) : FaultRec × Option FaultRec :=
        let r := { s.record b l grp lane pc t.region f with seql := nat32 id }
        match t.denied with
        | some d => if d.seql.toNat ≤ id then (d, some r) else (r, some d)
        | none => (r, none)
      let deny (f : Fail) : State :=
        let (kept, other) := denials f
        -- a conflict is reported, though another denial is delivered (R410)
        let s := match other with
          | some d => if d.code == BitVec.ofNat 8 cDETCONF then s.logRecord evFAULT l { d with seql := nat32 s.nextSeq } else s
          | none => s
        s.updThread blk grp lane fun _ => { t with horizon := some horizon, fetchPark := false, denied := some kept }
      match why with
      | .deny f => deny f
      | .page k dev =>
        if l.lr.nopark then deny (mkFail cPAGE ea (lo32 horizon).toNat)
        else s.updThread blk grp lane fun _ => { t with horizon := some horizon, fetchPark := false, parkSet := addPage t.parkSet k dev }
  | _, _ => s

/-- The PAGE events of a thread that parks: one for each page of its park set that no other parked thread of the group waits on, and that
none logged while this one was stopped at it. -/
def State.logParks (s : State) (b : Block) (l : Launch) (grp lane : Nat) (t : Thread) (detail : Nat) : State :=
  t.parkSet.foldl (fun s p =>
    let others : Bool := match s.group? b.id grp with
      | some g => g.threads.zipIdx.any fun x => x.2 != lane && x.1.st == .parked && x.1.parkSet.any fun q => q.key == p.key
      | none => false
    if p.logged || others then s
    else
      let mark (q : ParkPage) : ParkPage := if q.key == p.key then { q with logged := true } else q
      (s.logRecord evPAGE l (s.record b l grp lane t.pc t.region (mkFail cPAGE (entryBase s.dev p.key) detail))).updGroup b.id grp fun g =>
        g.each fun _ u => { u with parkSet := u.parkSet.map mark }) s

/-- The page of a park set is there. -/
def State.present (s : State) (p : ParkPage) : Bool := (s.entry? p.key).any fun e => e.st == .resident || (e.st == .host && !p.toDevice)
/-- Every page of the park set is present, or has been woken. -/
def State.parkOver (s : State) (t : Thread) : Bool := t.parkSet.all fun p => p.woken || s.present p
/-- A parked thread resumes at its region entry, or at the instruction being fetched. -/
def Thread.unpark (t : Thread) : Thread :=
  { t with st := .runnable, pc := if t.fetchPark then t.pc else t.region, horizon := none, parkSet := [], fetchPark := false }
/-- Once every load of a stopped thread has returned, and the instruction it is inside has ended (R95, R267): it parks, or takes its denial
with the region entry as the resume PC (R211). A denial of a swapping block is logged, and waits for its re-admission (R273). A full log
leaves the thread where it stopped (R434). -/
def State.stand (s : State) (blk grp lane : Nat) : State :=
  match s.block? blk, s.group? blk grp, s.thread? blk grp lane with
  | some b, some g, some t =>
    match s.launch? b.launch, t.horizon with
    | some l, some h =>
      if g.loading lane || !t.live || (t.st.open && b.st == .resident) then s
      else match t.denied with
      | some d =>
        if s.logFull then s
        else
          let r := { d with seql := nat32 s.nextSeq }
          let s := s.logRecord evFAULT l r
          if b.st == .resident then
            (s.updThread blk grp lane fun t => { t with horizon := none, denied := none, parkSet := [] }).deliver blk grp lane t.region r
          else s.updThread blk grp lane fun t => { t with horizon := none, denied := some r, parkSet := [] }
      | none =>
        if t.st.open then s
        else (s.logParks b l grp lane t (lo32 h).toNat).updThread blk grp lane fun t => t.setState .parked
    | _, _ => s
  | _, _, _ => s
/-- The parked threads of a resident block's group whose pages are all there resume (R268). -/
def State.rejoin (s : State) (blk grp : Nat) : State :=
  if (s.block? blk).any fun b => b.st == .resident then
    s.updGroup blk grp fun g => g.each fun _ t => if t.st == .parked && s.parkOver t then t.unpark else t
  else s
/-- Some lanes of a group settle in their order, and those whose pages have come meanwhile resume. -/
def State.settleLanes (s : State) (blk grp : Nat) (lanes : List Nat) : State :=
  if lanes.isEmpty then s else (lanes.foldl (fun s l => s.stand blk grp l) s).rejoin blk grp
/-- One lane settles, if a fault response has stopped it. -/
def State.settle (s : State) (blk grp lane : Nat) : State :=
  if (s.thread? blk grp lane).any fun t => t.horizon.isSome then s.settleLanes blk grp [lane] else s

/-- A fetch that finds its page not resident (R36): the thread parks at its PC, once its loads have returned. -/
def State.parkFetch (s : State) (blk grp lane : Nat) (key : EntryKey) : State :=
  (s.updThread blk grp lane fun t => { t with parkSet := addPage t.parkSet key false, fetchPark := true, horizon := some t.pc }).settle blk grp lane

/-! ## Waking (R262, R268) -/

/-- A block in the Caravan that is ready (R276): no thread of it is parked on a page that is not there. -/
def State.blockReady (s : State) (b : Block) : Bool :=
  b.st == .swapped && b.groups.all fun g => g.threads.all fun t => t.st != .parked || s.parkOver t
/-- Caravan blocks that have become ready take their place in Meridian order (R276). -/
def State.markReady (s : State) : State :=
  let one (b : Block) : Block := if b.readySeq.isNone && s.blockReady b then { b with readySeq := some s.nextSeq } else b
  { s with blocks := s.blocks.map one }
/-- The parked threads of resident blocks whose pages are all present resume, and the park time of their groups is reset. -/
def State.wakeParked (s : State) : State :=
  let wake (t : Thread) : Thread := if t.st == .parked && s.parkOver t then t.unpark else t
  let group (g : Group) : Group :=
    { g with threads := g.threads.map wake
             parkedAt := if g.threads.any fun t => t.st == .parked && s.parkOver t then none else g.parkedAt }
  let one (b : Block) : Block := if b.st == .resident then { b with groups := b.groups.map group } else b
  State.markReady { s with blocks := s.blocks.map one }
/-- R268: some thread is parked and none is runnable or trapped. -/
def Group.parkedNow (g : Group) : Bool :=
  g.threads.any (fun t => t.st == .parked) && !g.threads.any fun t => t.st == .runnable || (t.trapped && t.st != .parked)
/-- A wake of the second kind (R262): the pages that some entries covered count as present. -/
def State.wakePages (s : State) (p : EntryKey → Bool) : State :=
  let mark (x : ParkPage) : ParkPage := if p x.key then { x with woken := true } else x
  let one (b : Block) : Block :=
    { b with groups := b.groups.map fun g => { g with threads := g.threads.map fun t => { t with parkSet := t.parkSet.map mark } } }
  State.wakeParked { s with blocks := s.blocks.map one }

end Sys2Proof.Machine
end

