-- ==== Sys2Proof/Machine/Control.lean ====
section
/-! DEFINITION. Control flow: branches, calls, REGION, NOP, EXIT, YIELD and SLEEP, and the end of a sleep: spec 03 R97-R104, 02 R35,
R36, R41; 11 R344. -/

namespace Sys2Proof.Machine

open Sys2Proof

/-! ## Transfers of control -/

/-- A fetch address of this device (R36): space 0x0 and the device's own number, or 0x3FF. -/
def fetchable (dev : Nat) (pc : Dword) : Bool :=
  eaSpace pc.toNat == 0 && (eaDevf pc.toNat == 0x3FF || eaDevf pc.toNat == dev)
/-- The fault of a target (R35, R36), if it has one: an odd target outside R36's space is MISALIGN (log 78). -/
def targetFault (dev : Nat) (pc : Dword) : Option Fail :=
  if pc.getLsbD 0 then some (mkFail cMISALIGN pc.toNat 0)
  else if !fetchable dev pc then some (mkFail cADDRSPACE pc.toNat 7)
  else none
/-- A transfer that takes no effect where its target faults. -/
def transfer (dev : Nat) (t : Thread) (target : Dword) : LaneOut :=
  match targetFault dev target with
  | some f => .raise f
  | none => .done (t.jump target)
/-- PC + 2 * Sext(off22, 64) (R43). -/
def offTarget (pc : Dword) (off : BitVec 22) : Dword := pc + off.signExtend 64 <<< 1

/-- R98. -/
def execBra (o : OpJ) (s : State) : Host.Outcome State Fault Refusal :=
  jumpLane (.bra o) s fun _ _ t => transfer s.dev t (offTarget t.pc o.off)
/-- R41. -/
def execCBra (o : OpCB) (s : State) : Host.Outcome State Fault Refusal :=
  jumpLane (.cBra o) s fun _ _ t => transfer s.dev t (t.pc + o.off.signExtend 64 <<< 1)
/-- R99: the whole set goes one way. -/
def execBrc (o : OpJ) (s : State) : Host.Outcome State Fault Refusal :=
  runSet (.brc o) s fun c =>
    let c8 := (modsOf o.m).c
    let yes (l : Nat) : Bool := (c.thread l).pr (c8.toNat % 8) != c8.getLsbD 3
    let taken := if c8.getLsbD 4 then c.lanes.all yes else c.lanes.any yes
    c.apply s (c.laneStep (.brc o) fun _ t => if taken then transfer s.dev t (offTarget t.pc o.off) else .done (t.advance 8))
/-- R100. -/
def execJmp (o : OpR) (s : State) : Host.Outcome State Fault Refusal :=
  jumpLane (.jmp o) s fun _ _ t => transfer s.dev t (t.vPair o.a.toNat)
def execCall (o : OpJ) (s : State) : Host.Outcome State Fault Refusal :=
  jumpLane (.call o) s fun _ _ t =>
    transfer s.dev (t.setPair (modsOf o.m).c.toNat (t.pc + BitVec.ofNat 64 (Instr.len (.call o)))) (offTarget t.pc o.off)
def execCalli (o : OpR) (s : State) : Host.Outcome State Fault Refusal :=
  jumpLane (.calli o) s fun _ _ t =>
    transfer s.dev (t.setPair o.d.toNat (t.pc + BitVec.ofNat 64 (Instr.len (.calli o)))) (t.vPair o.a.toNat)
def execRet (o : OpZ) (s : State) : Host.Outcome State Fault Refusal :=
  jumpLane (.ret o) s fun _ _ t => transfer s.dev t (t.vPair (modsOf o.m).c.toNat)

/-! ## REGION and NOP (R102) -/

def execRegion (s : State) : Host.Outcome State Fault Refusal := pureLane .region s fun _ _ t => t.setRegion t.pc
def execNop (s : State) : Host.Outcome State Fault Refusal := pureLane .nop s fun _ _ t => t

/-! ## EXIT (R101, R344) -/

/-- An earlier store of the lane has not been translated and checked; one in the store-fault record queue counts as checked. -/
def Core.unchecked (c : Core) (blk grp lane : Nat) : Bool := (c.storesOf blk grp lane).any fun e => !e.queued && e.answered.isNone
/-- R344: an exit by the last live threads of a monitored attempt waits for its matrix and engine operations; one of a doomed attempt
never completes. -/
def State.attemptBusy (s : State) (b : Block) : Bool :=
  b.doomed.isSome || b.groups.any (fun g => !g.flights.isEmpty) || (s.core b.core).ops.any fun o => o.blk == b.id
/-- Every thread of the block but these lanes has exited. -/
def Block.lastLanes (b : Block) (grp : Nat) (lanes : List Nat) : Bool :=
  b.groups.zipIdx.all fun g => g.1.threads.zipIdx.all fun t => !t.1.live || (g.2 == grp && lanes.contains t.2)

/-- What follows when the block's last thread has exited: a monitored attempt enters committing (R344), another block ends. -/
def State.blockDone (s : State) (blk : Nat) : State :=
  match s.block? blk with
  | none => s
  | some b =>
    if !b.allEnded then s
    else if b.monitored then
      let part := match s.launch? b.launch with | some l => l.part | none => 0
      (s.drainBuffers b.core part blk).updBlock blk fun b => { b with st := .committing }
    else s.endBlock blk

def execExit (o : OpZ) (s : State) : Host.Outcome State Fault Refusal :=
  runBoundary (.exit o) s fun c s =>
    let ls := c.guarded (.exit o)
    let core := s.core c.b.core
    if ls.any (fun l => core.unchecked c.blk c.grp l) || (c.b.monitored && c.b.lastLanes c.grp ls && s.attemptBusy c.b) then
      c.hold s
    else
      let stay := c.issue.lanes &&& ~~~laneSet ls
      let s := s.updGroup c.blk c.grp fun g =>
        { g with threads := g.threads.mapIdx fun l t => if stay.getLsbD l then t.advance (Instr.len (.exit o)) else t }
      if ls.isEmpty then s else (s.leaveLanes c.blk c.grp (laneSet ls)).blockDone c.blk

/-! ## YIELD and SLEEP (R103, R104) -/

/-- The oldest age is the smallest; a yielding group becomes the youngest. -/
def State.youngest (s : State) : Nat := s.blocks.foldl (fun n b => b.groups.foldl (fun n g => max n (g.age + 1)) n) 0
def execYield (o : OpZ) (s : State) : Host.Outcome State Fault Refusal :=
  runSet (.yield o) s fun c =>
    let cycle := s.clockOf c.b.core
    let young := s.youngest
    let s := c.apply s (c.laneStep (.yield o) fun _ t =>
      -- the PC stays at the instruction until the sleep ends, for a record delivered meanwhile (R444)
      .done (t.setState (.yielding c.g.opportunities (cycle + 16) (Instr.len (.yield o)))))
    if (c.guarded (.yield o)).isEmpty then s else s.updGroup c.blk c.grp fun g => { g with age := young }
/-- Log 58. -/
def execSleep (o : OpI) (s : State) : Host.Outcome State Fault Refusal :=
  jumpLane (.sleep o) s fun _ _ t => .done (if o.imm == 0 then t.advance (Instr.len (.sleep o))
    else t.setState (.sleeping (s.gtime + 16 * o.imm.toNat) (Instr.len (.sleep o))))

/-- Whether a sleep is over: the deadline, or for YIELD the next issue opportunity or the sixteenth cycle. -/
def sleepOver (s : State) (core opportunities : Nat) (t : Thread) : Bool :=
  match t.st with
  | .sleeping d _ => decide (d ≤ s.gtime)
  | .yielding k cycle _ => decide (k < opportunities) || decide (cycle < s.clockOf core)
  | _ => false
/-- The end of a sleep. -/
def Thread.wakeUp (t : Thread) : Thread :=
  match t.st with
  | .sleeping _ len => (t.setState .runnable).advance len
  | .yielding _ _ len => (t.setState .runnable).advance len
  | _ => t
/-- SLEEP_END. -/
def execSleepEnd (s : State) : Host.Outcome State Fault Refusal :=
  runEvent s (match s.subject with
    | .lane blk grp lane =>
      match s.block? blk, s.group? blk grp with
      | some b, some g =>
        if b.onCore && sleepOver s b.core g.opportunities (g.thread lane) then
          some ((s.updThread blk grp lane Thread.wakeUp).settle blk grp lane)
        else none
      | _, _ => none
    | _ => none)

end Sys2Proof.Machine
end

