-- ==== Sys2Proof/Machine/Loads.lean ====
section
/-! DEFINITION. Loads: LD, LDP and PREF, the outstanding requests, and their responses (spec 06 R194, R197, R201, R202, R205, R207-R212,
R214, R215; 08 R260, R267; 07 R224, R225). -/

namespace Sys2Proof.Machine

open Sys2Proof

/-! ## What a load names -/

def LoadKind.size : LoadKind → Nat
  | .n8 | .i8 => 1
  | .n16 | .i16 => 2
  | .b32 => 4
  | .b64 => 8
  | .b128 => 16
/-- The registers a load writes, from its bytes (R212). -/
def LoadKind.result (k : LoadKind) (bs : List Byte) : List Word :=
  let x := ofBytes bs
  match k with
  | .n8 | .n16 | .b32 => [nat32 x]
  | .i8 => [(BitVec.ofNat 8 x).signExtend 32]
  | .i16 => [(BitVec.ofNat 16 x).signExtend 32]
  | .b64 => [nat32 x, nat32 (x / 2 ^ 32)]
  | .b128 => (List.range 4).map fun i => nat32 (x / 2 ^ (32 * i))

/-- The 64-bit base register of layout M (R207). -/
def baseReg (g : Group) (t : Thread) (c : BitVec 8) (a : RegNum) : Dword := if c.getLsbD 3 then g.sPair a.toNat else t.vPair a.toNat
/-- base + Sext(imm8, 64) * s, after R189. -/
def memEa (dev : Nat) (g : Group) (t : Thread) (o : OpI) (size : Nat) : Nat :=
  normEa dev (baseReg g t (modsOf o.m).c o.a + o.imm.signExtend 64 * BitVec.ofNat 64 size).toNat
/-- The private offset of LDP and STP as an address of space 0x2, or the PRIVLIM fault (R214), whose record holds the byte offset within 48
bits (log 80). -/
def privEa (l : Launch) (g : Group) (t : Thread) (o : OpI) (size : Nat) : Except Fail Nat :=
  let idx := if (modsOf o.m).c.getLsbD 3 then g.sr o.a.toNat else t.vr o.a.toNat
  let k : Int := size / 4
  let w : Int := idx.toNat + o.imm.toInt * k
  let ea (w : Int) : Nat := 0x2FFF * 2 ^ 48 + (4 * w % 2 ^ 48).toNat
  if (l.lr.priv : Int) < w + k || w < 0 then .error (mkFail cPRIVLIM (ea w) 0) else .ok (ea w)

/-- What one load instruction asks for, beside its addresses. -/
structure LoadSpec where
  kind : LoadKind
  vd : Nat
  probe : Option Nat
  ro : Bool
  byp : Bool
  stream : Bool

/-! ## Bytes without a request -/

/-- A byte of the thread's own at request `seq`: a deferred byte of the attempt, else of its pending or queued stores (R196, R212, R239). -/
def State.ownByte (s : State) (b : Block) (grp lane seq ea : Nat) : Option Byte :=
  match (if b.monitored then b.deferredByte ea else none) with
  | some v => some v
  | none => (s.core b.core).ownByte b.id grp lane seq ea
/-- A lane's part of a load at ea; an attempt's deferred bytes are served at issue (R239). -/
def Sel.laneLoad (c : Sel) (s : State) (q : LoadSpec) (lane ea : Nat) : LaneLoad :=
  { lane := lane, vd := q.vd, kind := q.kind, ea := BitVec.ofNat 64 ea, probe := q.probe, region := (c.thread lane).region,
    bytes := (s.bytesAt c lane ea q.kind.size).map fun a => (a, if c.b.monitored then c.b.deferredByte a else none) }
/-- The lines of which bytes are still to come. -/
def LaneLoad.lines (x : LaneLoad) : List Nat := ((x.bytes.filter fun b => b.2.isNone).map fun b => b.1 / 128).eraseDups
def Load.lines (l : Load) : List Nat := (l.lanes.flatMap LaneLoad.lines).eraseDups
/-- Bytes of a line served, the thread's own before those of the line (R196, R212). -/
def LaneLoad.serve (x : LaneLoad) (line : Nat) (own : Nat → Nat → Option Byte) (byte : Nat → Byte) : LaneLoad :=
  { x with bytes := x.bytes.map fun b =>
      if b.2.isNone && b.1 / 128 == line then (b.1, some ((own x.lane b.1).getD (byte (b.1 % 128)))) else b }
def LaneLoad.served (x : LaneLoad) : Bool := x.bytes.all fun b => b.2.isSome
/-- The offsets in a line of the bytes still to come. -/
def neededOffs (ls : List LaneLoad) (line : Nat) : List Nat :=
  ls.flatMap fun x => x.bytes.filterMap fun b => if b.2.isNone && b.1 / 128 == line then some (b.1 % 128) else none
/-- What needs no request: a line's part that is all the thread's own bytes (R212; under a probe of a resident page), and a line that the
L1 has with every other byte the instruction asks for (R197, R202), where `l1` lets each lane hit it. Bytes that need a request are all
taken when it is answered (R191). -/
def State.serveHits (s : State) (core ctx : Nat) (l1 : Nat → Nat → Bool) (resident : Nat → Bool) (own : Nat → Nat → Option Byte) (ls : List LaneLoad) :
    List LaneLoad :=
  let missing (x : LaneLoad) (n : Nat) : List Nat :=
    x.bytes.filterMap fun b => if b.2.isNone && b.1 / 128 == n && (own x.lane b.1).isNone then some (b.1 % 128) else none
  ((ls.flatMap LaneLoad.lines).eraseDups).foldl (fun ls n =>
    let free := ls.all fun x => !x.lines.contains n || l1 x.lane n
    let hit := (if free then (s.core core).hot { ctx := ctx, line := n } s.gtime else none).filter fun l =>
      l.pr && (ls.flatMap fun x => missing x n).all fun o => l.valid.getLsbD o
    ls.map fun x => match hit with
      | some l => x.serve n own l.byte
      | none => if (missing x n).isEmpty && (x.probe.isNone || resident n) then x.serve n own fun _ => 0 else x) ls

/-- The destination is written, and the probe predicate is 1 (R212). -/
def Thread.loaded (t : Thread) (x : LaneLoad) : Thread :=
  let t := t.setList x.vd (x.kind.result (x.bytes.map fun b => b.2.getD 0))
  match x.probe with
  | some p => t.setP p true
  | none => t
/-- A probe that found a page not resident (R212). -/
def Thread.probeMiss (t : Thread) (x : LaneLoad) : Thread :=
  let t := t.setList x.vd (x.kind.result (List.replicate 16 0))
  match x.probe with
  | some p => t.setP p false
  | none => t

/-! ## The Surveyor's part (R409, R410) -/

/-- The accesses of n bytes by a thread that a signature covers: spaces 0x0, 0x1 and the tile store. -/
def touchesOf (ea n : Nat) (mk : Bool → Nat → BitVec 128 → Touch) : List Touch :=
  if eaSpace ea == 2 then []
  else
    let tile := eaSpace ea == 3
    let a := if tile then eaOff ea else ea
    let lines := ((List.range n).map fun i => (a + i) / 128).eraseDups
    lines.map fun line => mk tile line (maskOf (((List.range n).map fun i => a + i).filterMap fun x => if x / 128 == line then some (x % 128) else none))
def readTouches (ea n : Nat) : List Touch := touchesOf ea n fun tile line m => { tile := tile, line := line, reads := m, writes := 0, reds := 0 }
def writeTouches (ea n : Nat) : List Touch := touchesOf ea n fun tile line m => { tile := tile, line := line, reads := 0, writes := m, reds := 0 }
def rwTouches (ea n : Nat) : List Touch := touchesOf ea n fun tile line m => { tile := tile, line := line, reads := m, writes := m, reds := 0 }

/-- Each lane's accesses are recorded in ascending lane order; the details each completes. -/
def State.surveyLanes (s : State) (c : Sel) (xs : List (Nat × List Touch)) : State × List (Nat × List Nat) :=
  match xs with
  | [] => (s, [])
  | x :: r =>
    let (s, d) := s.surveyAll c.l (c.g.party c.blk) x.2
    let (s, ds) := State.surveyLanes s c r
    (s, (x.1, d) :: ds)

/-! ## Issue -/

/-- A new request of the partition to some homes is held (R426): it would use HBM, or a link to another die, the host or another
device. -/
def State.heldRequest (s : State) (r : Req) (eas : List Nat) : Bool :=
  let far (ea : Nat) : Bool := isRemote s.dev ea || (s.walk r.ctx ea).any fun e => e.st == .host
  let fabric := s.throttled r.part bFABRIC
  let hbm := s.throttled r.part bHBM
  (fabric || hbm) && eas.any fun ea => if far ea then fabric else hbm || (fabric && homeDie ea != r.die)

/-- Lanes with an address, and those that fault. -/
def splitLanes (xs : List (Nat × Except Fail Nat)) : List (Nat × Nat) × List (Nat × Fail) :=
  (xs.filterMap fun x => match x.2 with | .ok a => some (x.1, a) | .error _ => none,
   xs.filterMap fun x => match x.2 with | .error f => some (x.1, f) | .ok _ => none)
def laneFails (pc : Dword) (xs : List (Nat × Fail)) : List LaneFail := xs.map fun x => { lane := x.1, fail := x.2, resume := pc }
/-- The conflicts that some lanes' accesses complete, by lane (R410). -/
def conflictFails (addrs : List (Nat × Nat)) (details : List (Nat × List Nat)) : List (Nat × Fail) :=
  details.flatMap fun d => d.2.map fun x => (d.1, mkFail cDETCONF ((assoc addrs d.1).getD 0) x)
/-- The precise faults and the imprecise ones of one instruction, in ascending lane order (R441). -/
def allFails (pc : Dword) (precise late : List (Nat × Fail)) : List LaneFail :=
  sortBy (fun a b => decide (a.lane ≤ b.lane))
    (laneFails pc precise ++ late.map fun x => { lane := x.1, fail := x.2, resume := pc, late := true })

/-- Issues the requests of an instruction (R202, R209): what is served already is written; the rest is outstanding. -/
def State.issueLoad (s : State) (c : Sel) (q : LoadSpec) (prefetch : Bool) (plain : List Nat) (ls : List LaneLoad) : State :=
  let done := if prefetch then [] else ls.filter LaneLoad.served
  let rest := ls.filter fun x => !x.served
  let one (l : Nat) (t : Thread) : Thread :=
    match done.find? fun x => x.lane == l with
    | some x => t.loaded x
    | none => t
  let s := s.updGroup c.blk c.grp fun g => g.each one
  if rest.isEmpty then s
  else
    let seq := (s.core c.b.core).nextReq
    let add (g : Group) : Group :=
      { g with loads := g.loads ++ [{ id := g.nextLoad, seq := seq, pc := c.issue.pc, lanes := rest, byp := q.byp, ro := q.ro, stream := q.stream,
                                      plain := plain, prefetch := prefetch }]
               nextLoad := g.nextLoad + 1 }
    (s.updCore c.b.core fun d => { d with nextReq := d.nextReq + 1 }).updGroup c.blk c.grp add

/-- The lane waits for bytes of a line of its own die: a later load of it joins the request, so that it reads no older write (R224). -/
def Sel.awaits (c : Sel) (s : State) (lane n : Nat) : Bool :=
  !isRemote s.dev (128 * n) && homeDie (128 * n) == dieOf c.b.core &&
    c.g.loads.any fun l => !l.prefetch && l.lanes.any fun y => y.lane == lane && y.lines.contains n
/-- A load instruction: addresses and faults by lane, then its reads (R202, R205, R210-R212). -/
def Sel.load (c : Sel) (s : State) (i : Instr) (q : LoadSpec) (addrs : List (Nat × Except Fail Nat)) : State :=
  let (ok, bad) := splitLanes addrs
  let n := q.kind.size
  let (s', details) := s.surveyLanes c (ok.map fun x => (x.1, readTouches x.2 n))
  let conflicts := details.filter fun d => !d.2.isEmpty
  let free := ok.filter fun x => !conflicts.any fun d => d.1 == x.1
  let tile := free.filter fun x => eaSpace x.2 == 3
  -- hints have no effect on private memory (R208)
  let hinted := ((free.filter fun x => eaSpace x.2 != 2).flatMap fun x => s.bytesAt c x.1 x.2 n).map fun a => a / 128
  let mem := (free.filter fun x => eaSpace x.2 != 3).map fun x => c.laneLoad s q x.1 x.2
  let own (lane a : Nat) : Option Byte := s.ownByte c.b c.grp lane (s.core c.b.core).nextReq a
  let resident (n : Nat) : Bool := match s.answer c.req .rd (128 * n) 128 with | .served .. => true | .direct .. => true | _ => false
  -- a probe whose bytes the attempt has deferred asks only whether its page is there
  let blind (x : LaneLoad) : Bool := x.probe.isSome && x.served && !x.bytes.all fun b => resident (b.1 / 128)
  let misses := mem.filter blind
  let l1 (lane n : Nat) : Bool := !(q.byp && hinted.contains n) && !c.awaits s lane n
  let mem := s.serveHits c.b.core c.l.ctx l1 resident own (mem.filter fun x => !blind x)
  let lines := (mem.flatMap LaneLoad.lines).eraseDups
  if s.heldRequest c.req (lines.map fun n => 128 * n) then c.full s
  else
    let s := s'
    -- every lane but those that fault at issue moves past the instruction
    let s := c.advanceBut s i fun l => bad.any fun x => x.1 == l
    let tileRead (l : Nat) (t : Thread) : Thread :=
      match tile.find? (fun x => x.1 == l) with
      | some x => t.loaded { c.laneLoad s q l x.2 with bytes := (c.b.tileBytes (eaOff x.2) n).map fun v => (0, some v) }
      | none => match misses.find? fun x => x.lane == l with
        | some x => t.probeMiss x
        | none => t
    let s := s.updGroup c.blk c.grp fun g => { g with threads := g.threads.mapIdx tileRead }
    let s := s.issueLoad c q false (lines.filter fun n => !hinted.contains n) mem
    -- R410: a conflicting load stops its thread as a denial does (R211)
    let s := conflicts.foldl (fun s d =>
      let ea := (assoc ok d.1).getD 0
      d.2.foldl (fun s x => s.stop c.blk c.grp d.1 c.g.nextLoad c.issue.pc (.deny (mkFail cDETCONF ea x)) ea) s) s
    let s := s.settleLanes c.blk c.grp (conflicts.map Prod.fst)
    c.raise s (laneFails c.issue.pc bad)

/-- The hints and the probe of LD's C field (R207). -/
def ldSpec (kind : LoadKind) (o : OpI) : LoadSpec :=
  let c := (modsOf o.m).c
  { kind := kind, vd := o.d.toNat, probe := if c.getLsbD 2 then some (c.toNat / 16 % 8) else none,
    ro := c.toNat % 4 == 1, stream := c.toNat % 4 == 2, byp := c.toNat % 4 == 3 }
/-- LD (R212). -/
def execLd (kind : LoadKind) (i : Instr) (o : OpI) (s : State) : Host.Outcome State Fault Refusal :=
  runSet i s fun c => c.load s i (ldSpec kind o) ((c.guarded i).map fun l =>
    let ea := memEa s.dev c.g (c.thread l) o kind.size
    (l, match s.checkAccess c ea kind.size kind.size false with | some f => .error f | none => .ok ea))
def execLdN8 (o : OpI) (s : State) : Host.Outcome State Fault Refusal := execLd .n8 (.ldN8 o) o s
def execLdI8 (o : OpI) (s : State) : Host.Outcome State Fault Refusal := execLd .i8 (.ldI8 o) o s
def execLdN16 (o : OpI) (s : State) : Host.Outcome State Fault Refusal := execLd .n16 (.ldN16 o) o s
def execLdI16 (o : OpI) (s : State) : Host.Outcome State Fault Refusal := execLd .i16 (.ldI16 o) o s
def execLdB32 (o : OpI) (s : State) : Host.Outcome State Fault Refusal := execLd .b32 (.ldB32 o) o s
def execLdB64 (o : OpI) (s : State) : Host.Outcome State Fault Refusal := execLd .b64 (.ldB64 o) o s
def execLdB128 (o : OpI) (s : State) : Host.Outcome State Fault Refusal := execLd .b128 (.ldB128 o) o s
/-- The width of LDP and STP (R207, R214). -/
def ldpKind (o : OpI) : LoadKind :=
  match (modsOf o.m).c.toNat % 4 with
  | 0 => .b32
  | 1 => .b64
  | _ => .b128
def execLdp (o : OpI) (s : State) : Host.Outcome State Fault Refusal :=
  let kind := ldpKind o
  runSet (.ldp o) s fun c => c.load s (.ldp o) { kind := kind, vd := o.d.toNat, probe := none, ro := false, byp := false, stream := false }
    ((c.guarded (.ldp o)).map fun l => (l, privEa c.l c.g (c.thread l) o kind.size))

/-! ## PREF (R215) -/

/-- The line a prefetch may bring in: readable, resident and cacheable; a private address names the line that its word lies in. -/
def State.prefLine (s : State) (c : Sel) (lane ea : Nat) : Option Nat :=
  if (s.checkAccess c (ea - ea % 128) 1 1 false).isSome || eaSpace ea == 3 then none
  else
    let line := ((s.bytesAt c lane (ea - ea % 128) 1).headD 0) / 128
    if isRemote s.dev (128 * line) then none
    else match s.answer c.req .rd (128 * line) 128 with
    | .served .. => some line
    | _ => none
/-- The lines the prefetch brings in, without repetition. -/
def Sel.prefLines (c : Sel) (s : State) (i : Instr) (o : OpI) : List Nat :=
  ((c.guarded i).filterMap fun l => s.prefLine c l (memEa s.dev c.g (c.thread l) o 128)).eraseDups
/-- An address whose entry is rejected logs TABLE-ERROR, one event a line (R257). -/
def Sel.prefErrors (c : Sel) (s : State) (i : Instr) (o : OpI) : State :=
  let lines := (c.guarded i).filterMap fun l =>
    let ea := memEa s.dev c.g (c.thread l) o 128
    if (s.checkAccess c (ea - ea % 128) 1 1 false).isSome || eaSpace ea == 3 then none else some (((s.bytesAt c l (ea - ea % 128) 1).headD 0) / 128)
  lines.eraseDups.foldl (fun s n => match s.answer c.req .rd (128 * n) 128 with
    | .rejected k => s.tableError k c.l.part c.l.queue
    | _ => s) s
/-- `.l1` fills lines like any load; `.l2` brings them into their slices; `.l2ro` may make a replica (R201). -/
def execPref (o : OpI) (s : State) : Host.Outcome State Fault Refusal :=
  runSet (.pref o) s fun c =>
    let lines := c.prefLines s (.pref o) o
    let hot (n : Nat) : Bool := ((s.core c.b.core).hot { ctx := c.l.ctx, line := n } s.gtime).any fun l => l.holds 0 128
    let s := c.prefErrors s (.pref o) o
    let cold := if o.d.toNat == 0 then lines.filter fun n => !hot n else lines
    if s.heldRequest c.req (cold.map fun n => 128 * n) then c.full s
    else
      let s := c.advanceAll s (.pref o)
      let one (s : State) (n : Nat) : State :=
        match o.d.toNat, s.answer c.req .rd (128 * n) 128 with
        | 0, _ =>
          s.issueLoad c { kind := .n8, vd := 0, probe := none, ro := false, byp := false, stream := false } true []
            [{ lane := (c.lanes.head?).getD 0, vd := 0, kind := .n8, ea := BitVec.ofNat 64 (128 * n), bytes := [(128 * n, none)],
               probe := none, region := 0 }]
        | 1, .served place _ _ _ _ => s.l2Use (some c.l.part) (128 * n) place false
        | _, .served place key lease _ _ =>
          let t := (s.lineRead c.b.core c.req true c.l.id { ctx := c.l.ctx, line := n } place lease).1
          -- only the response that makes a replica grants a lease (R258)
          if t.replicas.length == s.replicas.length then t else t.grantLease key
        | _, _ => s
      cold.foldl one s

/-! ## Responses (R194, R197, R209, R211, R260) -/

/-- A line's present value as a core reads it at the home (R225): dirty bytes of its own, else the home's. -/
def State.readNow (s : State) (core : Nat) (r : Req) (k : LineKey) (place : Place) (offs : List Nat) : State × (Nat → Byte) :=
  match offs with
  | [] => (s, fun _ => 0)
  | o :: rest =>
    let lo := rest.foldl min o
    let hi := rest.foldl max o
    let (s, bytes) := (s.performFor core k false).homeRead r (128 * k.line + lo) (place.add lo) (hi + 1 - lo)
    let line := (s.core core).line? k
    (s, fun x => match line with
      | some l => if l.dirty.getLsbD x then l.byte x else bytes.getD (x - lo) 0
      | none => bytes.getD (x - lo) 0)

/-- Every lane load of a core's group in a line, by a change of the lane load and of its thread. -/
def Group.mapLoads (g : Group) (p : Load → Bool) (f : LaneLoad → LaneLoad) : Group :=
  { g with loads := g.loads.map fun l => if p l then { l with lanes := l.lanes.map f } else l }
/-- Loads with every byte are written to their threads and leave. -/
def Group.finishLoads (g : Group) : Group :=
  let threads := g.loads.foldl (fun ts l =>
    if l.prefetch then ts
    else l.lanes.foldl (fun ts x => if x.served && x.bytes.length == x.kind.size then ts.modify x.lane fun t => t.loaded x else ts) ts) g.threads
  { g with threads := threads,
           loads := (g.loads.map fun l => { l with lanes := l.lanes.filter fun x => !x.served }).filter fun l => !l.lanes.isEmpty }
/-- Stopped threads of a group settle where no load of theirs is left (R267). -/
def State.settleGroup (s : State) (blk grp : Nat) : State :=
  match s.group? blk grp with
  | none => s
  | some g => s.settleLanes blk grp ((List.range g.threads.length).filter fun l =>
      (g.thread l).horizon.isSome && (g.thread l).st != .parked)

/-- The outstanding loads a response to a line answers: the named one, and on the core's own die every one of the core and context,
since misses of one core to one line of its die are merged (R224) (log 26). -/
def State.answered (s : State) (core ctx line : Nat) (blk grp id : Nat) : List (Nat × Nat × Load) :=
  let own := homeDie (128 * line) == dieOf core && !isRemote s.dev (128 * line)
  (s.blocksOn core).flatMap fun b =>
    if (match s.launch? b.launch with | some l => l.ctx == ctx | none => false) then
      b.groups.zipIdx.flatMap fun g => g.1.loads.filterMap fun l =>
        if l.lines.contains line && (own || (b.id == blk && g.2 == grp && l.id == id)) then some (b.id, g.2, l) else none
    else []

/-- The lanes of a load with bytes to come in the line meet a fault: each is `f`'s, in ascending lane order, and its bytes in the line
are given up, so that it writes nothing. -/
def State.dropLine (s : State) (blk grp id line : Nat) : State :=
  s.updGroup blk grp fun g => g.mapLoads (fun l => l.id == id) fun x =>
    if x.lines.contains line then { x with bytes := x.bytes.filter fun b => !(b.2.isNone && b.1 / 128 == line) } else x
def State.stopLanes (s : State) (blk grp line : Nat) (l : Load) (why : Stop) : State :=
  let xs := l.lanes.filter fun x => x.lines.contains line
  let s := s.dropLine blk grp l.id line
  if l.prefetch then s
  else xs.foldl (fun s x => s.stop blk grp x.lane l.id l.pc (match why with
    | .deny f => .deny { f with addr := x.ea }
    | w => w) x.ea.toNat) s
/-- A page that is not resident: probes write zero and request nothing (R212, R260), the other lanes stop and the page is requested. -/
def State.missLanes (s : State) (part queue blk grp line : Nat) (l : Load) (key : EntryKey) : State :=
  let probe (x : LaneLoad) : Bool := x.probe.isSome && x.lines.contains line
  let probes := l.lanes.filter probe
  let s := probes.foldl (fun s x => s.updThread blk grp x.lane fun t => t.probeMiss x) s
  let less (y : Load) : Load := if y.id == l.id then { y with lanes := y.lanes.filter fun x => !probe x } else y
  let s := s.updGroup blk grp fun g => { g with loads := (g.loads.map less).filter fun y => !y.lanes.isEmpty }
  let rest := { l with lanes := l.lanes.filter fun x => !probe x }
  if l.prefetch then s.dropLine blk grp l.id line
  else if rest.lanes.any fun x => x.lines.contains line then
    (s.requestPage key part queue).stopLanes blk grp line rest (.page key false)
  else s
/-- Bytes arrive; a thread's own pending ones stand before them (R196, R212). -/
def State.serveLanes (s : State) (core blk grp line : Nat) (l : Load) (byte : Nat → Byte) : State :=
  let c := s.core core
  s.updGroup blk grp fun g => g.mapLoads (fun x => x.id == l.id) fun x => x.serve line (fun lane a => c.ownByte blk grp lane l.seq a) byte

/-- One load meets the answer of a line's home. -/
def State.meetAnswer (s : State) (b : Block) (l : Launch) (line : Nat) (a : Answer) (x : Nat × Nat × Load) : State :=
  let blk := x.1
  let grp := x.2.1
  let ld := x.2.2
  let ea := 128 * line
  let r := reqOf l b.core
  let k : LineKey := { ctx := l.ctx, line := line }
  match a with
  | .served place key lease pr pw =>
    let hints := !ld.plain.contains line
    if ld.byp && hints then
      -- dirty bytes of a present line, every other byte from the home; the clean bytes of that line are refreshed with them (R208)
      let (s, byte) := s.readNow b.core r k place (List.range 128)
      let s := s.updCore b.core fun c => match c.hot k s.gtime with
        | some y => c.setLine { y with data := (List.range 128).map byte }
        | none => c
      s.serveLanes b.core blk grp line ld byte
    else
      let s := s.fillLine b.core r (ld.ro && hints) (ld.stream && hints) l.id k place key lease pr pw
      match (s.core b.core).line? k with
      | some y => s.serveLanes b.core blk grp line ld y.byte
      | none => s
  | .direct place _ =>
    let (s, byte) := s.readNow b.core r k place (neededOffs ld.lanes line)
    s.serveLanes b.core blk grp line ld byte
  | .absent key => s.missLanes l.part l.queue blk grp line ld key
  | .filling key => s.missLanes l.part l.queue blk grp line ld key
  | .unmapped => s.stopLanes blk grp line ld (.deny (mkFail cADDRSPACE ea 4))
  | .rejected key => (s.tableError key l.part l.queue).stopLanes blk grp line ld (.deny (mkFail cADDRSPACE ea 4))
  | .denied d => s.stopLanes blk grp line ld (.deny (mkFail cPERM ea d))
  | .failed =>
    if ld.prefetch then s.dropLine blk grp ld.id line
    else s.mcheck blk (match ld.lanes.find? fun x => x.lines.contains line with | some x => x.ea.toNat | none => ea)
  | .noPort => s

/-- An earlier request of the core to a line of another device, which keeps its place before request `seq` (R242). -/
def State.remoteFirst (s : State) (core line seq : Nat) : Bool :=
  isRemote s.dev (128 * line) &&
  (((s.core core).stores.any fun e => decide (e.id < seq) && e.line == line && !e.queued) ||
   (s.blocksOn core).any fun b => b.groups.any fun g => g.loads.any fun l => decide (l.seq < seq) && l.lines.contains line)
/-- The groups of some answered loads take what has come. -/
def State.finishAnswered (s : State) (xs : List (Nat × Nat × Load)) : State :=
  let groups := (xs.map fun x => (x.1, x.2.1)).eraseDups
  let s := groups.foldl (fun s x => s.updGroup x.1 x.2 Group.finishLoads) s
  groups.foldl (fun s x => s.settleGroup x.1 x.2) s
/-- One line of an outstanding load is answered. -/
def State.respond (s : State) (blk grp : Nat) (ld : Load) (line : Nat) : Option State :=
  match s.block? blk with
  | none => none
  | some b =>
    match s.launch? b.launch with
    | none => none
    | some l =>
      if s.remoteFirst b.core line ld.seq then none
      else match s.answer (reqOf l b.core) .rd (128 * line) 128 with
      | .noPort => none
      | a =>
        let xs := s.answered b.core l.ctx line blk grp ld.id
        some ((xs.foldl (fun s x => s.meetAnswer b l line a x) s).finishAnswered xs)
/-- The fill of a line by an access that waits for it serves the loads of the core that its request is merged with (R224). -/
def State.fillMerged (s : State) (c : Sel) (line : Nat) (place : Place) (key : EntryKey) (lease : Nat) (pr pw : Bool) : State :=
  let k : LineKey := { ctx := c.l.ctx, line := line }
  let core := c.b.core
  let s := s.fillLine core c.req false false c.l.id k place key lease pr pw
  -- a number no load has: only loads of the core's own die are merged
  let xs := if pr then s.answered core c.l.ctx line c.blk c.grp c.g.nextLoad else []
  match (s.core core).line? k with
  | some y => (xs.foldl (fun s x => s.serveLanes core x.1 x.2.1 line x.2.2 y.byte) s).finishAnswered xs
  | none => s

/-- LOAD_RESPONSE: the device answers any of the lines that are still to come (log 2). -/
def execLoadResponse (s : State) : Host.Outcome State Fault Refusal :=
  runEvent s (match s.subject with
    | .load blk grp id =>
      match (s.group? blk grp).bind fun g => g.loads.find? fun l => l.id == id with
      | some l =>
        match l.lines with
        | [] => none
        | [n] => s.respond blk grp l n
        | ls => (ls[s.choose ls.length]?).bind fun n => s.tickFree.respond blk grp l n
      | none => none
    | _ => none)

end Sys2Proof.Machine
end

