-- ==== Sys2Proof/Machine/Stores.lean ====
section
/-! DEFINITION. Stores: ST and STP, the pending-store buffer, the store-fault record queue, deferral in a ladder attempt, and the
write-backs of the L1 (spec 06 R195-R197, R202, R205, R208, R213, R214; 07 R239; 08 R260, R269, R270; 11 R341). -/

namespace Sys2Proof.Machine

open Sys2Proof

/-! ## One line's bytes of one store instruction (R196, R202) -/

structure LineStore where
  line : Nat
  bytes : List StoreByte
  /-- the lanes that store to the line, ascending, with the address each named -/
  eas : List (Nat × Nat)
  deriving DecidableEq, Repr

/-- A byte of a higher lane replaces one of a lower lane. -/
def addStoreByte (ls : List LineStore) (lane ea a : Nat) (v : Byte) : List LineStore :=
  let b : StoreByte := { off := a % 128, val := v, lane := lane }
  match ls.find? fun x => x.line == a / 128 with
  | some x => ls.map fun y => if y.line == x.line then
      { y with bytes := upsert (fun z => z.off == b.off) b y.bytes,
               eas := if y.eas.any fun z => z.1 == lane then y.eas else y.eas ++ [(lane, ea)] }
    else y
  | none => ls ++ [{ line := a / 128, bytes := [b], eas := [(lane, ea)] }]
/-- The stores of an instruction by line, its lanes in ascending order. -/
def combineLines (xs : List (Nat × Nat × List (Nat × Byte))) : List LineStore :=
  xs.foldl (fun ls x => x.2.2.foldl (fun ls b => addStoreByte ls x.1 x.2.1 b.1 b.2) ls) []
def LineStore.pairs (x : LineStore) : List (Nat × Byte) := x.bytes.map fun b => (b.off, b.val)

/-- Older loads of the storing lanes that still wait for bytes of the line are answered before the store (R230, item 1; R224), whole
(R202). -/
def State.loadsFirst (s : State) (blk grp seq : Nat) (lanes : LaneSet) (line : Nat) (offs : List Nat) : State :=
  match s.group? blk grp with
  | none => s
  | some g =>
    let old := g.loads.filter fun l => !l.prefetch && decide (l.seq < seq) && l.lanes.any fun x =>
      lanes.getLsbD x.lane && (neededOffs [x] line).any fun o => offs.contains o
    old.foldl (fun s l => (s.respond blk grp l line).getD s) s

/-! ## Issue -/

/-- A denied store of some lanes: an imprecise record for each, in ascending lane order (R196, R442). -/
def State.denyStore (s : State) (blk grp : Nat) (pc : Dword) (eas : List (Nat × Nat)) (code detail : Nat) : State :=
  eas.foldl (fun s x => s.raiseImprecise blk grp x.1 pc (mkFail code x.2 detail)) s

/-- The failing address of an MCHECK: the lowest storing lane's own (R442) (log 28). -/
def lowestEa (eas : List (Nat × Nat)) (ea : Nat) : Nat := match eas with | x :: _ => x.2 | [] => ea

/-- A store of a monitored attempt is translated for deferral, and its bytes are held in the attempt (R270, R341). -/
def State.deferStore (s : State) (c : Sel) (x : LineStore) : State :=
  let ea := 128 * x.line
  let keep (s : State) : State := s.updBlock c.blk fun b =>
    let old := (assoc b.deferred x.line).getD []
    { b with deferred := assocSet b.deferred x.line (x.bytes.foldl (fun l z => assocSet l z.off z.val) old) }
  match s.answer c.req .wr ea 128 with
  | .unmapped => s.denyStore c.blk c.grp c.issue.pc x.eas cADDRSPACE 4
  | .rejected key => (s.tableError key c.l.part c.l.queue).denyStore c.blk c.grp c.issue.pc x.eas cADDRSPACE 4
  | .denied d => s.denyStore c.blk c.grp c.issue.pc x.eas cPERM d
  | .failed => s.mcheck c.blk (lowestEa x.eas ea)
  | .absent key => keep (s.requestPage key c.l.part c.l.queue)
  | _ => keep s
/-- A write to the line is kept in the attempt: it meets no denial and no error. -/
def State.defers (s : State) (c : Sel) (line : Nat) : Bool :=
  match s.answer c.req .wr (128 * line) 128 with
  | .unmapped | .rejected _ | .denied _ | .failed => false
  | _ => true
/-- The lines a monitored attempt would draw for deferred bytes. -/
def Block.newDeferred (b : Block) (lines : List Nat) : Nat := (lines.eraseDups.filter fun n => (assoc b.deferred n).isNone).length

/-- The entry an instruction's line makes in the pending-store buffer; `readers` are the threads of the set that stored. -/
def LineStore.entry (x : LineStore) (id : Nat) (c : Sel) (readers : LaneSet) (byp stream : Bool) : Store :=
  { id := id, blk := c.blk, grp := c.grp, lanes := laneSet (x.eas.map Prod.fst), readers := readers, eas := x.eas, pc := c.issue.pc,
    ctx := c.l.ctx, line := x.line, bytes := x.bytes, byp := byp, stream := stream, answered := none, queued := false, page := none }
/-- Checked at hit where R196 allows it, else pending. -/
def State.putLine (s : State) (c : Sel) (readers : LaneSet) (byp stream : Bool) (x : LineStore) : State :=
  let core := c.b.core
  let k : LineKey := { ctx := c.l.ctx, line := x.line }
  let e := x.entry (s.core core).nextReq c readers byp stream
  let earlier := (s.core core).stores.any fun y => y.sameLine e
  match (if byp || earlier then none else ((s.core core).hot k s.gtime).filter fun l => l.pw) with
  | some _ =>
    let s := s.loadsFirst c.blk c.grp e.id e.lanes x.line (x.bytes.map StoreByte.off)
    s.updCore core fun d => match d.line? k with
      | some l => d.setLine { l.put x.pairs false with stream := l.stream || stream }
      | none => d
  | none => s.updCore core fun d => { d with stores := d.stores ++ [e], nextReq := d.nextReq + 1 }

/-- The pending-store buffer has 128 entries (R196); one instruction with more lines than that goes through an empty buffer (log 38). -/
def Core.pendingRoom (c : Core) (n : Nat) : Bool :=
  let held := c.stores.countP fun e => !e.queued
  decide (held + n ≤ 128) || held == 0

/-- What one store instruction writes, beside its addresses. -/
structure StoreSpec where
  size : Nat
  byp : Bool
  stream : Bool

/-- The low bytes of a thread's data registers. -/
def Thread.dataBytes (t : Thread) (d size : Nat) : List Byte :=
  ((t.vList d (ceilDiv size 4)).flatMap fun w => bytesLE 4 w.toNat).take size

/-- Global stores of an instruction by line: deferred in a monitored attempt (none where its shadow pool stalls it, R360), else
checked at hit or pending, with the hints where the line is `hinted`. -/
def State.storeLines (s : State) (c : Sel) (q : StoreSpec) (readers : LaneSet) (hinted : List Nat) (ls : List LineStore) : Option State :=
  if c.b.monitored then
    let n := c.b.newDeferred ((ls.map LineStore.line).filter fun n => s.defers c n)
    match s.shadowRoom c.b c.l n with
    | .free => some (ls.foldl (fun s x => s.deferStore c x) (s.takeShadow c.blk n))
    | .exhausted => some (s.doom c.blk .exhaustion)
    | .stall => none
  else some (ls.foldl (fun s x =>
    let h := hinted.contains x.line
    s.putLine c readers (q.byp && h) (q.stream && h) x) s)

/-- A store instruction (R202, R205, R210, R213): the tile store first, then memory by line. -/
def Sel.store (c : Sel) (s : State) (i : Instr) (q : StoreSpec) (data : Nat → List Byte) (addrs : List (Nat × Except Fail Nat)) : State :=
  let (ok, bad) := splitLanes addrs
  let tile := ok.filter fun x => eaSpace x.2 == 3
  let mem := ok.filter fun x => eaSpace x.2 != 3
  let ls := combineLines (mem.map fun x => (x.1, x.2, (s.bytesAt c x.1 x.2 q.size).zip (data x.1)))
  -- hints have no effect on private memory (R208)
  let hinted := (mem.filter fun x => eaSpace x.2 != 2).flatMap fun x => (s.bytesAt c x.1 x.2 q.size).map fun a => a / 128
  let k (x : LineStore) : LineKey := { ctx := c.l.ctx, line := x.line }
  let asks (x : LineStore) : Bool := (q.byp && hinted.contains x.line) || !((s.core c.b.core).hot (k x) s.gtime).any fun l => l.pw
  if !c.b.monitored && !(s.core c.b.core).pendingRoom ls.length then c.full s
  else if !c.b.monitored && s.heldRequest c.req ((ls.filter asks).map fun x => 128 * x.line) then c.full s
  else
    let t := s.tileStore c.b c.l (tile.flatMap fun x => runOf (eaOff x.2) (data x.1))
    match t.bind fun s => (match s.block? c.blk with
        | some b => s.storeLines { c with b := b } q (laneSet (ok.map Prod.fst)) hinted ls
        | none => none) with
    | none => s.stallShadow c.blk c.grp c.issue.lanes
    | some s =>
      let (s, details) := s.surveyLanes c (ok.map fun x => (x.1, writeTouches x.2 q.size))
      let s := c.advanceBut s i fun l => bad.any fun x => x.1 == l
      c.raise s (allFails c.issue.pc bad (conflictFails ok details))

/-- ST (R213). -/
def execSt (size : Nat) (i : Instr) (o : OpI) (s : State) : Host.Outcome State Fault Refusal :=
  runSet i s fun c =>
    let cp := (modsOf o.m).c.toNat % 4
    c.store s i { size := size, byp := cp == 3, stream := cp == 2 } (fun l => (c.thread l).dataBytes o.d.toNat size) ((c.guarded i).map fun l =>
      let ea := memEa s.dev c.g (c.thread l) o size
      (l, match s.checkAccess c ea size size true with | some f => .error f | none => .ok ea))
def execStB8 (o : OpI) (s : State) : Host.Outcome State Fault Refusal := execSt 1 (.stB8 o) o s
def execStB16 (o : OpI) (s : State) : Host.Outcome State Fault Refusal := execSt 2 (.stB16 o) o s
def execStB32 (o : OpI) (s : State) : Host.Outcome State Fault Refusal := execSt 4 (.stB32 o) o s
def execStB64 (o : OpI) (s : State) : Host.Outcome State Fault Refusal := execSt 8 (.stB64 o) o s
def execStB128 (o : OpI) (s : State) : Host.Outcome State Fault Refusal := execSt 16 (.stB128 o) o s
def execStp (o : OpI) (s : State) : Host.Outcome State Fault Refusal :=
  let size := (ldpKind o).size
  runSet (.stp o) s fun c => c.store s (.stp o) { size := size, byp := false, stream := false } (fun l => (c.thread l).dataBytes o.d.toNat size)
    ((c.guarded (.stp o)).map fun l => (l, privEa c.l c.g (c.thread l) o size))

/-! ## Checks and retries (R196, R260, R269) -/

def State.dropStore (s : State) (core id : Nat) : State :=
  s.updCore core fun c => { c with stores := c.stores.filter fun e => e.id != id }
def State.mapStore (s : State) (core id : Nat) (f : Store → Store) : State :=
  s.updCore core fun c => { c with stores := c.stores.map fun e => if e.id == id then f e else e }
/-- The store of an earlier instruction of a common thread to the line, or for a retry to the page, that goes first. -/
def Core.blocked (c : Core) (e : Store) : Bool :=
  c.stores.any fun x => x.id < e.id && (x.sameLine e ||
    (e.queued && x.queued && x.blk == e.blk && x.grp == e.grp && x.lanes &&& e.lanes != 0 && x.page == e.page))
/-- The master of a store (R471): its partition is its launch's. -/
def State.storeReq (s : State) (core : Nat) (e : Store) : Req :=
  let part := match (s.block? e.blk).bind fun b => s.launch? b.launch with | some l => l.part | none => 0
  { part := part, engine := false, ctx := e.ctx, die := dieOf core }
def State.storeQueue (s : State) (e : Store) : Nat :=
  match (s.block? e.blk).bind fun b => s.launch? b.launch with | some l => l.queue | none => 0
def Store.pairs (e : Store) : List (Nat × Byte) := e.bytes.map fun b => (b.off, b.val)

/-- A writable store's bytes enter the line, or go through to the home: `.byp` and uncached places (R192, R208). A release's own write is
`late`: it is sent, and performed after what was sent before it (R231, R235). The halves of 16 bytes that R191 leaves apart are written in
one event (log 82). -/
def State.performStore (s : State) (core : Nat) (r : Req) (e : Store) (late : Bool) (a : Answer) : State :=
  let k : LineKey := { ctx := e.ctx, line := e.line }
  let s := s.loadsFirst e.blk e.grp e.id e.lanes e.line (e.bytes.map StoreByte.off)
  let through (s : State) (place : Place) : State :=
    let s := s.sendLine core r k
    if late then s.updCore core fun c =>
      { c with sent := c.sent ++ [{ key := k, part := r.part, place := place, bytes := e.pairs, epoch := c.epoch, since := s.gtime }] }
    else (s.performFor core k true).homeWrite r (128 * e.line) place e.pairs
  match a with
  | .served place key lease pr pw =>
    if e.byp || late then
      -- a present line takes the bytes clean, and the response sets its lease and permissions (R194, R208)
      let fresh (l : Line) : Line :=
        { l with valid := if s.gtime < l.lease then l.valid else l.dirty, lease := s.gtime + lease, pr := pr, pw := pw, place := place, since := s.gtime }
      let s := through s place
      if ((s.core core).line? k).isNone then s
      else (s.grantLease key).updCore core fun c => match c.line? k with
        | some l => c.setLine ((fresh l).put e.pairs true)
        | none => c
    else s.storeLine core r k place key lease pr pw e.stream e.pairs
  | .direct place _ => through s place
  | _ => s

/-- The check of one entry, or the retry of a queued one; none where it has to wait. -/
def State.checkStore (s : State) (core : Nat) (e : Store) : Option State :=
  let r := s.storeReq core e
  let queue := s.storeQueue e
  let ea := 128 * e.line
  let deny (s : State) (code detail : Nat) : State := (s.dropStore core e.id).denyStore e.blk e.grp e.pc e.eas code detail
  let a := s.answer r .wr ea 128
  let full := 64 ≤ s.faultEntries core
  -- a page that is not resident is requested, and the entry joins the queue if it has room (R260, R269)
  let wait (key : EntryKey) (asked : Bool) : Option State :=
    let s := s.requestPage key r.part queue
    if !e.queued && !full then some (s.mapStore core e.id fun x => { x with queued := true, answered := none, page := some key })
    else if asked then some s
    else none
  let blocked := (s.core core).blocked e
  -- a denial found at the first check takes an entry of the queue (R196)
  let denied (code detail : Nat) : Option State := if full && !e.queued then none else some (deny s code detail)
  if s.remoteFirst core e.line e.id then none
  else match a with
  | .noPort => none
  | .absent key => wait key true
  | .filling key => wait key false
  | a =>
    if blocked && e.queued then none
    else match a with
    | .unmapped => denied cADDRSPACE 4
    | .rejected key => (denied cADDRSPACE 4).map fun s => s.tableError key r.part queue
    | .denied d => denied cPERM d
    | .failed => some ((s.dropStore core e.id).mcheck e.blk (lowestEa e.eas ea))
    | a =>
      if !blocked then some ((s.performStore core r e false a).dropStore core e.id)
      else if e.answered.isSome then none
      else some (s.mapStore core e.id fun x => { x with answered := some s.gtime })
/-- Every queued entry of a core is retried once, in the order of their numbers: at a change of an entry, when a page comes, and when an
earlier store has ended (R244, R269, R277). -/
def State.retryCore (s : State) (core : Nat) : State :=
  let ids := ((s.core core).stores.filter fun e => e.queued).map Store.id
  ids.foldl (fun s id => match (s.core core).stores.find? fun e => e.id == id with
    | some e => (s.checkStore core e).getD s
    | none => s) s
def State.retryStores (s : State) : State := (s.cores.map Core.num).foldl State.retryCore s
/-- STORE_CHECK_RESPONSE. -/
def execStoreCheckResponse (s : State) : Host.Outcome State Fault Refusal :=
  runEvent s (match s.subject with
    | .store core id =>
      match (s.core core).stores.find? fun e => e.id == id with
      | some e => (s.checkStore core e).map fun t => t.retryCore core
      | none => none
    | _ => none)

/-! ## Write-backs and leases (R195, R197) -/

/-- Any context's request as the core itself makes it, for a write-back: it is charged to the partition of the core (R425). -/
def State.partOfCore (s : State) (core : Nat) : Nat :=
  match s.partitions.find? fun p => p.quads.getLsbD (core / 4) with | some p => p.num | none => 0
def State.coreReq (s : State) (core ctx : Nat) : Req := { part := s.partOfCore core, engine := false, ctx := ctx, die := dieOf core }

/-- LEASE_WRITEBACK: dirty bytes within 256 ticks of the lease's end are sent. -/
def execLeaseWriteback (s : State) : Host.Outcome State Fault Refusal :=
  runEvent s (match s.subject with
    | .line core k =>
      match (s.core core).line? k with
      | some l =>
        if l.dirty != 0 && l.lease ≤ s.gtime + 256 then some (s.sendLine core (s.coreReq core k.ctx) k) else none
      | none => none
    | _ => none)
/-- WRITEBACK_ACCEPT: the oldest that the core sent of a line is performed, unless it is held back for what was sent before an earlier
release (R234, R235). -/
def execWritebackAccept (s : State) : Host.Outcome State Fault Refusal :=
  runEvent s (match s.subject with
    | .line core k =>
      let sent := (s.core core).sent
      match sent.find? fun x => x.key == k with
      | some x =>
        if sent.any fun y => decide (y.epoch < x.epoch) then none
        else some ((s.updCore core fun c => { c with sent := c.sent.erase x }).performOne core x)
      | none => none
    | _ => none)
/-- LEASE_EXPIRY: a line without dirty bytes becomes invalid, once its write-back has been accepted. -/
def execLeaseExpiry (s : State) : Host.Outcome State Fault Refusal :=
  runEvent s (match s.subject with
    | .line core k =>
      match (s.core core).line? k with
      | some l => if l.lease ≤ s.gtime && l.dirty == 0 && !(s.core core).sent.any (fun x => x.key == k) then some (s.dropLines core fun x => x == k) else none
      | none => none
    | _ => none)

end Sys2Proof.Machine
end

