-- ==== Sys2Proof/Machine/Ordering.lean ====
section
/-! DEFINITION. FENCE, LDACQ, STREL, ATOM, CAS, DRAINST and CCTL: spec 07 R222, R231, R245-R254; 06 R216-R218; 11 R343; 16 R463. -/

namespace Sys2Proof.Machine

open Sys2Proof

/-! ## Waits of releases (R231) -/

/-- The lane's own stores allow a release: they are in the L1, or performed; one that waits for its page holds the release (R230, R233,
R235, log 31). -/
def Core.releasable (c : Core) (blk grp lane : Nat) : Bool := (c.storesOf blk grp lane).isEmpty
def Sel.releasable (c : Sel) (s : State) (lanes : List Nat) : Bool := lanes.all fun l => (s.core c.b.core).releasable c.blk c.grp l

/-- The cores of a scope around a core (R11). -/
def scopeCores (core scope : Nat) : List Nat :=
  if scope < 2 then [core]
  else if scope == 2 then (List.range 4).map fun i => core / 4 * 4 + i
  else if scope == 3 then (List.range 48).map fun i => core / 48 * 48 + i
  else List.range 192

/-! ## FENCE (R248, R249) -/

def xblock (detail : Nat) : Fail := mkFail cXBLOCK 0 detail

/-- CCTL.ii ranges of a thread are dropped from the instruction caches of the scope, their dirty bytes performed (R245). -/
def State.carryRanges (s : State) (c : Sel) (scope lane : Nat) : State :=
  let ranges := (c.thread lane).codeRanges
  if ranges.isEmpty then s
  else
    let hit (k : LineKey) : Bool := k.ctx == c.l.ctx && ranges.any fun r => decide (r.1 ≤ k.line) && decide (k.line ≤ r.2)
    let s := s.flushLines c.b.core c.req hit
    let cores := scopeCores c.b.core scope
    let drop (d : Core) : Core := if cores.contains d.num then { d with icache := d.icache.filter fun x => !hit x.key } else d
    let s : State := { s with cores := s.cores.map drop }
    s.updThread c.blk c.grp lane fun t => { t with codeRanges := [] }

/-- A fence of a kind (0 .ar, 1 .acq, 2 .rel, 3 .sc); the last waits until what it sent is performed (R233). -/
def execFence (kind : Nat) (i : Instr) (o : OpR) (s : State) : Host.Outcome State Fault Refusal :=
  runSet i s fun c =>
    let scope := o.d.toNat % 8
    let ls := c.guarded i
    if ls.isEmpty then c.advanceAll s i
    else if kind != 1 && 2 ≤ scope && c.b.monitored then
      c.raiseEach (c.advanceBut s i fun l => ls.contains l) ls (xblock 1)
    else if ls.any (fun l => c.g.loading l) || (kind != 1 && !c.releasable s ls) then c.hold s
    else
      let s := match kind with
        | 1 => s
        | 3 => s.releaseNow c.b.core c.blk c.req scope
        | _ => s.releaseActs c.b.core c.blk c.req scope
      let s := ls.foldl (fun s l => s.carryRanges c scope l) s
      let s := if kind != 2 then s.acquireActs c.b.core c.req scope else s
      c.advanceAll s i
def execFenceAr (o : OpR) (s : State) : Host.Outcome State Fault Refusal := execFence 0 (.fenceAr o) o s
def execFenceAcq (o : OpR) (s : State) : Host.Outcome State Fault Refusal := execFence 1 (.fenceAcq o) o s
def execFenceRel (o : OpR) (s : State) : Host.Outcome State Fault Refusal := execFence 2 (.fenceRel o) o s
def execFenceSc (o : OpR) (s : State) : Host.Outcome State Fault Refusal := execFence 3 (.fenceSc o) o s

/-! ## Accesses a thread waits for -/

/-- Whether a space accepts a scope (R247). -/
def scopeSuits (dev ea scope : Nat) (atomic : Bool) : Bool :=
  match eaSpace ea with
  | 0 => if isRemote dev ea then scope == 5 else scope != 5
  | 1 => scope != 5
  | 3 => !atomic && decide (scope < 2)
  | _ => false
/-- The checks of R247 for n bytes at ea. -/
def State.checkSync (s : State) (c : Sel) (ea n scope : Nat) (atomic owned acq : Bool) : Option Fail :=
  match spaceFault s.podSize ea with
  | some d => some (mkFail cADDRSPACE ea d)
  | none =>
    if !scopeSuits s.dev ea scope atomic then some (mkFail cADDRSPACE ea 6)
    else if ea % n != 0 then some (mkFail cMISALIGN ea 0)
    else if eaSpace ea == 3 && c.l.lr.tiles < eaOff ea + n then some (mkFail cTILELIM ea 0)
    else if owned && c.l.lr.own && eaSpace ea ≤ 1 && !c.b.owns ea n then some (mkFail cOWNFLT ea 1)
    else if !acq && 2 ≤ scope && c.b.monitored then some (xblock 1)
    else if atomic && 2 ≤ scope && c.l.lr.det then some (xblock 2)
    else none

/-- What one lane's access comes to. -/
inductive SyncOut where
  | done (f : Thread → Thread)
  | raise (f : Fail)
  | stop (why : Stop)
  | mcheck
  /-- no shadow line is free in a DET launch (R360) -/
  | stall

/-- The lanes of an instruction in ascending order, each with its access; a boundary instruction's lane that stops has its own PC for
horizon (R94, R247) (log 25); `late` are its imprecise records. -/
def Sel.sync (c : Sel) (s : State) (i : Instr) (boundary : Bool) (addrs : List (Nat × Except Fail Nat)) (late : List (Nat × Fail))
    (f : State → Nat → Nat → State × SyncOut) : State :=
  let (ok, bad) := splitLanes addrs
  let len := Instr.len i
  let r := ok.foldl (fun (acc : State × List (Nat × Fail)) x =>
    if !(acc.1.block? c.blk).any Block.onCore then acc
    else
      let (s, out) := f acc.1 x.1 x.2
      match out with
      | .done g => (s.updThread c.blk c.grp x.1 fun t => if boundary then (g t).pass len else (g t).advance len, acc.2)
      | .raise e => (s, acc.2 ++ [(x.1, e)])
      | .stop why =>
        let s := if boundary then s else s.updThread c.blk c.grp x.1 fun t => t.advance len
        ((s.stop c.blk c.grp x.1 c.g.nextLoad c.issue.pc why x.2).settle c.blk c.grp x.1, acc.2)
      | .stall => (s.stallShadow c.blk c.grp (laneBit x.1), acc.2)
      | .mcheck => (s.mcheck c.blk x.2, acc.2)) (s, bad)
  let guarded := c.guarded i
  let s := c.advanceBut r.1 i fun l => guarded.contains l
  c.raise s (allFails c.issue.pc r.2 late)

/-- What an answer other than a place means for a thread that waits for it; `precise` for STREL, ATOM and CAS. -/
def State.syncMiss (s : State) (c : Sel) (ea : Nat) (precise : Bool) (a : Answer) : State × SyncOut :=
  let deny (code detail : Nat) : SyncOut := if precise then .raise (mkFail code ea detail) else .stop (.deny (mkFail code ea detail))
  match a with
  | .rejected key => (s.tableError key c.l.part c.l.queue, deny cADDRSPACE 4)
  | .denied d => (s, deny cPERM d)
  | .absent key => (s.requestPage key c.l.part c.l.queue, .stop (.page key false))
  | .filling key => (s, .stop (.page key false))
  | .failed => (s, .mcheck)
  | _ => (s, deny cADDRSPACE 4)
/-- Some address has no port to its device yet (R467): the set waits. -/
def State.anyNoPort (s : State) (c : Sel) (right : Right) (ok : List (Nat × Nat)) : Bool :=
  ok.any fun x => match s.answer c.req right (x.2 / 128 * 128) 128 with | .noPort => true | _ => false
/-- Bytes deferred in the attempt (R341). -/
def Block.defer (b : Block) (ea : Nat) (bs : List Byte) : Block :=
  { b with deferred := (runOf ea bs).foldl (fun d x =>
      assocSet d (x.1 / 128) (assocSet ((assoc d (x.1 / 128)).getD []) (x.1 % 128) x.2)) b.deferred }

/-- A request of the core to another device's line goes before this access (R242). -/
def State.remoteBehind (s : State) (c : Sel) (ok : List (Nat × Nat)) : Bool :=
  ok.any fun x => s.remoteFirst c.b.core (x.2 / 128) (s.core c.b.core).nextReq
/-- One access's bytes are deferred in the attempt, with a shadow line where its line has none (R342, R360). -/
def State.deferOne (s : State) (c : Sel) (ea : Nat) (bs : List Byte) (out : SyncOut) : State × SyncOut :=
  let b := (s.block? c.blk).getD c.b
  let n := b.newDeferred [ea / 128]
  match s.shadowRoom b c.l n with
  | .free => ((s.takeShadow c.blk n).updBlock c.blk fun b => b.defer ea bs, out)
  | .exhausted => (s.doom c.blk .exhaustion, out)
  | .stall => (s, .stall)

/-- A set whose wait is not over: the lanes whose own page is not there park at once, or raise PAGE under NOPARK, and the others hold
(R247, R251, R252). -/
def Sel.parkGone (c : Sel) (s : State) (i : Instr) (addrs : List (Nat × Except Fail Nat)) (absent : Nat × Nat → Bool)
    (act : State → List (Nat × Except Fail Nat) → State) : State :=
  let gone := addrs.filter fun x => match x.2 with | .ok ea => absent (x.1, ea) | .error _ => false
  if gone.isEmpty then c.hold s
  else (act s gone).holdLanes c.blk c.grp (laneSet ((c.guarded i).filter fun l => !gone.any fun x => x.1 == l))

/-! ## LDACQ (R250) -/

/-- The n bytes an acquire load reads; at .quad and wider from the home (R225). -/
def State.acquireRead (s : State) (c : Sel) (lane ea n scope : Nat) : State × (SyncOut ⊕ Nat) :=
  let core := c.b.core
  if eaSpace ea == 3 then (s, .inr (c.b.tileNat (eaOff ea) n))
  else
    let own := (List.range n).map fun i => s.ownByte c.b c.grp lane (s.core core).nextReq (ea + i)
    let mix (byte : Nat → Byte) : Nat := ofBytes (own.zipIdx.map fun x => x.1.getD (byte ((ea + x.2) % 128)))
    let k : LineKey := { ctx := c.l.ctx, line := ea / 128 }
    let hit := ((s.core core).hot k s.gtime).filter fun l => l.pr && l.holds (ea % 128) n
    if own.all Option.isSome then (s, .inr (mix fun _ => 0))
    else match (if scope < 2 then hit else none) with
    | some l => (s, .inr (mix l.byte))
    | none =>
      match s.answer c.req .rd (ea / 128 * 128) 128 with
      | .served place key lease pr pw =>
        if scope < 2 then
          let s := s.fillMerged c k.line place key lease pr pw
          match (s.core core).line? k with
          | some l => (s, .inr (mix l.byte))
          | none => (s, .inr 0)
        else
          let (s, byte) := s.readNow core c.req k place ((List.range n).map fun i => (ea + i) % 128)
          (s, .inr (mix byte))
      | .direct place _ =>
        let (s, byte) := s.readNow core c.req k place ((List.range n).map fun i => (ea + i) % 128)
        (s, .inr (mix byte))
      | a =>
        let (s, out) := s.syncMiss c ea false a
        (s, .inl out)

def execLdacq (size : Nat) (i : Instr) (o : OpI) (s : State) : Host.Outcome State Fault Refusal :=
  runSet i s fun c =>
    let scope := (modsOf o.m).c.toNat % 8
    let addrs := (c.guarded i).map fun l =>
      let ea := memEa s.dev c.g (c.thread l) o size
      (l, match s.checkSync c ea size scope false false true with | some f => Except.error f | none => .ok ea)
    let ok := (splitLanes addrs).1
    -- an older load of the lane to the line goes first (R224)
    let behind := ok.any fun x => c.g.loads.any fun l => !l.prefetch && l.lanes.any fun y =>
      y.lane == x.1 && y.lines.contains (x.2 / 128)
    let far := (ok.filter fun x => eaSpace x.2 != 3)
    if s.heldRequest c.req (far.map Prod.snd) then c.full s
    else if behind || s.remoteBehind c far || s.anyNoPort c .rd far then c.hold s
    else
      let (s, details) := s.surveyLanes c (ok.map fun x => (x.1, readTouches x.2 size))
      let s := c.sync s i false addrs [] fun s l ea =>
        match (assoc details l).getD [] with
        | d :: ds => (s.logConflicts c l ea ds, .stop (.deny (mkFail cDETCONF ea d)))
        | [] =>
          match s.acquireRead c l ea size scope with
          | (s, .inl out) => (s, out)
          | (s, .inr x) => (s, .done fun t => if size == 8 then t.setPair o.d.toNat (BitVec.ofNat 64 x) else t.setV o.d.toNat (nat32 x))
      if ok.isEmpty then s else s.acquireActs c.b.core c.req scope
def execLdacqB32 (o : OpI) (s : State) : Host.Outcome State Fault Refusal := execLdacq 4 (.ldacqB32 o) o s
def execLdacqB64 (o : OpI) (s : State) : Host.Outcome State Fault Refusal := execLdacq 8 (.ldacqB64 o) o s

/-! ## STREL (R251) -/

/-- The release's own write by one lane: the tile store, the attempt, the L1 or the home; a page that is not resident parks the thread at
the instruction at every scope (R247, R251; log 74). -/
def State.releaseWrite (s : State) (c : Sel) (lane ea scope : Nat) (bs : List Byte) : State × SyncOut :=
  let core := c.b.core
  let x : LineStore := { line := ea / 128, eas := [(lane, ea)], bytes := bs.zipIdx.map fun b => { off := ea % 128 + b.2, val := b.1, lane := lane } }
  let e := x.entry (s.core core).nextReq c (laneBit lane) false false
  let b := (s.block? c.blk).getD c.b
  if eaSpace ea == 3 then
    match s.tileStore b c.l (runOf (eaOff ea) bs) with
    | some s => (s, .done id)
    | none => (s, .stall)
  else match s.answer c.req .wr (ea / 128 * 128) 128 with
  | .served place key lease pr pw =>
    if b.monitored then s.deferOne c ea bs (.done id)
    else (s.performStore core c.req e (decide (2 ≤ scope)) (.served place key lease pr pw), .done id)
  | .direct place key =>
    if b.monitored then s.deferOne c ea bs (.done id) else (s.performStore core c.req e false (.direct place key), .done id)
  | .absent key =>
    let s := s.requestPage key c.l.part c.l.queue
    if b.monitored then s.deferOne c ea bs (.done id) else (s, .stop (.page key false))
  | .filling key => if b.monitored then s.deferOne c ea bs (.done id) else (s, .stop (.page key false))
  | a => s.syncMiss c ea true a

def execStrel (size : Nat) (i : Instr) (o : OpI) (s : State) : Host.Outcome State Fault Refusal :=
  let scope := (modsOf o.m).c.toNat % 8
  let addr (c : Sel) (l : Nat) : Except Fail Nat :=
    let ea := memEa s.dev c.g (c.thread l) o size
    match s.checkSync c ea size scope false true false with | some f => .error f | none => .ok ea
  runChecked i s (fun c l => failOf (addr c l)) fun c s =>
    let addrs := (c.guarded i).map fun l => (l, addr c l)
    let ok := (splitLanes addrs).1
    let far := ok.filter fun x => eaSpace x.2 != 3
    let absent (x : Nat × Nat) : Bool := !c.b.monitored && eaSpace x.2 != 3 &&
      (match s.answer c.req .wr (x.2 / 128 * 128) 128 with | .absent _ => true | .filling _ => true | _ => false)
    let act (s : State) (addrs : List (Nat × Except Fail Nat)) (late : List (Nat × Fail)) : State :=
      c.sync s i true addrs late fun s l ea => s.releaseWrite c l ea scope ((c.thread l).dataBytes o.d.toNat size)
    let hot (x : Nat × Nat) : Bool := ((s.core c.b.core).hot { ctx := c.l.ctx, line := x.2 / 128 } s.gtime).any fun l => l.pw
    let asks := far.filter fun x => decide (2 ≤ scope) || !hot x
    if !c.b.monitored && s.heldRequest c.req (asks.map Prod.snd) then c.full s
    else if !c.releasable s (ok.map Prod.fst) || s.remoteBehind c far || s.anyNoPort c .wr far then
      c.parkGone s i addrs absent fun s gone => act s gone []
    else
      let (s, details) := s.surveyLanes c (ok.map fun x => (x.1, writeTouches x.2 size))
      let s := if ok.isEmpty then s else s.releaseActs c.b.core c.blk c.req scope
      act s addrs (conflictFails ok details)
def execStrelB32 (o : OpI) (s : State) : Host.Outcome State Fault Refusal := execStrel 4 (.strelB32 o) o s
def execStrelB64 (o : OpI) (s : State) : Host.Outcome State Fault Refusal := execStrel 8 (.strelB64 o) o s

/-! ## ATOM and CAS (R252, R253, R463) -/

/-- The environment of .fadd: it never flushes, and a NaN result is canonical (R252). -/
def faddEnv : FpEnv :=
  { mode := .rne, fz32i := false, fz32o := false, fz16i := false, fz16o := false, dnan := true, te := 0, clamp := false, sat := false,
    scale := 0 }
/-- Op(old, b) of R252 at width w. -/
def atomOp (op w old b : Nat) : Nat :=
  let i (x : Nat) : Int := signed w x
  match op with
  | 0 => (old + b) % 2 ^ w
  | 1 => old &&& b
  | 2 => old ||| b
  | 3 => old ^^^ b
  | 4 => b
  | 5 => if i old ≤ i b then old else b
  | 6 => if i old ≤ i b then b else old
  | 7 => min old b
  | 8 => max old b
  | 9 => (fpOut2 (if w == 64 then fmtF64 else fmtF32) fnAdd faddEnv Mods.default old b).bits
  | _ => if b ≤ old then 0 else old + 1

/-- One read-modify-write of n bytes at ea where R222 and R252 place it; `f old` is the value to write, none for no write. The answer is
the old value. -/
def State.atomicAt (s : State) (c : Sel) (ea n scope : Nat) (hostOk : Bool) (f : Nat → Option Nat) : State × (SyncOut ⊕ Nat) :=
  let core := c.b.core
  let k : LineKey := { ctx := c.l.ctx, line := ea / 128 }
  let offs := (List.range n).map fun i => (ea + i) % 128
  let lineEa := ea / 128 * 128
  let atHome (s : State) (place : Place) : State × Nat :=
    let (s, bs) := s.homeRead c.req ea (place.add (ea % 128)) n
    let old := ofBytes bs
    match f old with
    | some x => (s.homeWrite c.req ea place ((bytesLE n x).zipIdx.map fun b => (ea % 128 + b.2, b.1)), old)
    | none => (s, old)
  let deferred (place : Place) : State × (SyncOut ⊕ Nat) :=
    let (s, byte) := s.readNow core c.req k place offs
    let old := ofBytes (offs.map fun o => (c.b.deferredByte (lineEa + o)).getD (byte o))
    match f old with
    | some x =>
      match s.deferOne c ea (bytesLE n x) (.done id) with
      | (s, .done _) => (s, .inr old)
      | (s, out) => (s, .inl out)
    | none => (s, .inr old)
  match s.answer c.req .atomic lineEa 128 with
  | .served place key lease pr pw =>
    if c.b.monitored then deferred place
    else if scope < 2 then
      let ready := ((s.core core).hot k s.gtime).filter fun l => l.pw && l.holds (ea % 128) n
      let s := if ready.isSome then s else s.fillMerged c k.line place key lease pr pw
      match (s.core core).line? k with
      | some l =>
        let old := ofBytes (offs.map l.byte)
        match f old with
        | some x => (s.updCore core fun d => d.setLine (l.put (offs.zip (bytesLE n x)) false), .inr old)
        | none => (s, .inr old)
      | none => (s, .inr 0)
    else
      let (s, old) := atHome (s.yieldLine core c.req k) place
      (s, .inr old)
  | .direct place key =>
    if c.b.monitored then deferred place
    else match key with
    | some e =>
      if hostOk then
        let (s, old) := atHome (s.performFor core k true) place
        (s, .inr old)
      else
        let settled := (s.entry? e).any fun x => x.settled
        (if settled then s else s.pageReq e 1 c.l.part c.l.queue, .inl (.stop (.page e true)))
    | none =>
      let (s, old) := atHome (s.performFor core k true) place
      (s, .inr old)
  | a =>
    let (s, out) := s.syncMiss c ea true a
    (s, .inl out)
/-- The deferred bytes of a lane's later read are the block's present ones. -/
def Sel.now (c : Sel) (s : State) : Sel :=
  match s.block? c.blk with
  | some b => { c with b := b }
  | none => c

/-- ATOM and CAS of n bytes: `f` is what a thread writes for an old value, `g` its registers afterwards. -/
def execAtomic (n : Nat) (i : Instr) (o : OpR) (hostOk : Bool) (s : State) (f : Thread → Nat → Option Nat) (g : Nat → Thread → Thread) :
    Host.Outcome State Fault Refusal :=
  let scope := (modsOf o.m).c.toNat % 8
  let ordered := (modsOf o.m).c.getLsbD 3
  let addr (c : Sel) (l : Nat) : Except Fail Nat :=
    let ea := normEa s.dev ((c.thread l).vPair o.a.toNat).toNat
    match s.checkSync c ea n scope true true false with | some f => .error f | none => .ok ea
  runChecked i s (fun c l => failOf (addr c l)) fun c s =>
    let addrs := (c.guarded i).map fun l => (l, addr c l)
    let ok := (splitLanes addrs).1
    let core := s.core c.b.core
    let present (x : Nat × Nat) : Bool := match s.answer c.req .atomic (x.2 / 128 * 128) 128 with | .absent _ => false | .filling _ => false | _ => true
    -- earlier stores of a lane to its line come first; one that waits for its page parks the atomic too, as its own access finds
    let ownFirst := ok.any fun x => (core.storesOf c.blk c.grp x.1).any fun e => e.line == x.2 / 128 && (!e.queued || present x)
    let hot (x : Nat × Nat) : Bool := (core.hot { ctx := c.l.ctx, line := x.2 / 128 } s.gtime).any fun l => l.pw && l.holds (x.2 % 128) n
    let asks := ok.filter fun x => decide (2 ≤ scope) || !hot x
    let act (s : State) (addrs : List (Nat × Except Fail Nat)) (late : List (Nat × Fail)) : State := c.sync s i true addrs late fun s l ea =>
      match s.atomicAt (c.now s) ea n scope hostOk (f (c.thread l)) with
      | (s, .inl out) => (s, out)
      | (s, .inr old) => (s, .done (g old))
    if s.heldRequest c.req (asks.map Prod.snd) then c.full s
    else if ownFirst || (ordered && !c.releasable s (ok.map Prod.fst)) || s.remoteBehind c ok || s.anyNoPort c .atomic ok then
      c.parkGone s i addrs (fun x => !present x) fun s gone => act s gone []
    else
      let (s, details) := s.surveyLanes c (ok.map fun x => (x.1, rwTouches x.2 n))
      let s := if ordered && !ok.isEmpty then s.releaseActs c.b.core c.blk c.req scope else s
      let s := act s addrs (conflictFails ok details)
      if ordered && !ok.isEmpty then s.acquireActs c.b.core c.req scope else s

/-- The operand of a width. -/
def atomB (g : Group) (t : Thread) (o : OpR) (n : Nat) : Nat :=
  if n == 8 then (pairB g t o.bk o.b).toNat else (operandB g t o.bk o.b).toNat
def setOld (n d old : Nat) (t : Thread) : Thread := if n == 8 then t.setPair d (BitVec.ofNat 64 old) else t.setV d (nat32 old)
/-- The group whose registers an instruction of the current set reads. -/
def State.selGroup (s : State) : Group :=
  match s.sel with
  | some c => c.g
  | none => { idx := 0, sched := 0, slot := 0, k := [], s := [], vallot := 0, uallot := 0, acc := [], mmaflags := 0, cb := 0, threads := [],
              waits := [], loads := [], nextLoad := 0, flights := [], latch := none, arrival := none, aph := [], unchosen := 0,
              opportunities := 0, age := 0, parkedAt := none, halted := false, stepping := false, stepped := 0, skipBreak := 0, span := 0, interval := 0, known := [] }
def execAtom (n : Nat) (i : Instr) (o : OpR) (s : State) : Host.Outcome State Fault Refusal :=
  let op := (modsOf o.m).c.toNat / 16
  let g := s.selGroup
  execAtomic n i o (op == 0 || op == 4) s (fun t old => some (atomOp op (8 * n) old (atomB g t o n))) (setOld n o.d.toNat)
def execAtomB32 (o : OpR) (s : State) : Host.Outcome State Fault Refusal := execAtom 4 (.atomB32 o) o s
def execAtomB64 (o : OpR) (s : State) : Host.Outcome State Fault Refusal := execAtom 8 (.atomB64 o) o s
/-- The compare value of CAS. -/
def casD (t : Thread) (o : OpR) (n : Nat) : Nat := if n == 8 then (t.vPair o.d.toNat).toNat else (t.vr o.d.toNat).toNat
def execCas (n : Nat) (i : Instr) (o : OpR) (s : State) : Host.Outcome State Fault Refusal :=
  let g := s.selGroup
  execAtomic n i o true s (fun t old => if old == casD t o n then some (atomB g t o n) else none)
    fun old t => (setOld n o.d.toNat old t).setP ((modsOf o.m).c.toNat / 16 % 8) (old == casD t o n)
def execCasB32 (o : OpR) (s : State) : Host.Outcome State Fault Refusal := execCas 4 (.casB32 o) o s
def execCasB64 (o : OpR) (s : State) : Host.Outcome State Fault Refusal := execCas 8 (.casB64 o) o s

/-! ## DRAINST (R254) -/

/-- It waits for the checks alone; records are delivered, as soon as the thread may take them, by IMPRECISE_FAULT_DELIVERY. -/
def execDrainst (o : OpZ) (s : State) : Host.Outcome State Fault Refusal :=
  runSet (.drainst o) s fun c =>
    if (c.guarded (.drainst o)).any fun l => (s.core c.b.core).unchecked c.blk c.grp l then c.hold s
    else c.advanceAll s (.drainst o)

/-! ## CCTL (R216, R217) -/

/-- The lines of a range, as runs of line numbers, or its fault. -/
def State.cctlRange (s : State) (c : Sel) (lane : Nat) (a : Dword) (len : Nat) : Except Fail (List (Nat × Nat)) :=
  let ea := normEa s.dev a.toNat
  match spaceFault s.podSize ea with
  | some d => .error (mkFail cADDRSPACE ea d)
  | none =>
    if len == 0 then .ok []
    else if 2 ^ 48 < eaOff ea + len then .error (mkFail cADDRSPACE ea 5)
    else if eaSpace ea == 2 then
      if 4 * c.l.lr.priv < eaOff ea + len then .error (mkFail cPRIVLIM ea 0)
      else .ok ((((List.range len).map fun i => privateByte s.dev c.l c.b c.grp lane (eaOff ea + i) / 128).eraseDups).map fun n => (n, n))
    else if eaSpace ea == 3 then .ok []
    else .ok [(ea / 128, (ea + len - 1) / 128)]

def inRuns (rs : List (Nat × Nat)) (n : Nat) : Bool := rs.any fun r => decide (r.1 ≤ n) && decide (n ≤ r.2)
/-- One thread's range operation. -/
def cctlOp (op : Nat) (c : Sel) (s : State) (lane : Nat) (rs : List (Nat × Nat)) : State :=
  let core := c.b.core
  let mine (k : LineKey) : Bool := k.ctx == c.l.ctx && inRuns rs k.line
  match op with
  | 0 =>
    let s := (s.flushLines core c.req mine).updCore core fun d => { d with icache := d.icache.filter fun x => !mine x.key }
    if rs.isEmpty then s else s.updThread c.blk c.grp lane fun t => { t with codeRanges := t.codeRanges ++ rs }
  | 1 => s.flushLines core c.req mine
  | 2 => (s.flushLines core c.req mine).dropLines core mine
  | _ => { s with replicas := s.replicas.filter fun r => !(r.launch == c.l.id && mine r.key) }
/-- The range forms: each guard-true thread acts on its own range. -/
def execCctl (op : Nat) (i : Instr) (o : OpR) (s : State) : Host.Outcome State Fault Refusal :=
  runSet i s fun c =>
    let xs := (c.guarded i).map fun l =>
      let t := c.thread l
      (l, s.cctlRange c l (t.vPair o.a.toNat) (operandB c.g t o.bk o.b).toNat)
    let s := xs.foldl (fun s x => match x.2 with | .ok rs => cctlOp op c s x.1 rs | .error _ => s) s
    let bad := xs.filterMap fun x => match x.2 with | .error f => some (x.1, f) | .ok _ => none
    c.raise (c.advanceBut s i fun l => bad.any fun x => x.1 == l) (laneFails c.issue.pc bad)
def execCctlIi (o : OpR) (s : State) : Host.Outcome State Fault Refusal := execCctl 0 (.cctlIi o) o s
def execCctlWb (o : OpR) (s : State) : Host.Outcome State Fault Refusal := execCctl 1 (.cctlWb o) o s
def execCctlInv (o : OpR) (s : State) : Host.Outcome State Fault Refusal := execCctl 2 (.cctlInv o) o s
def execCctlRodrop (o : OpR) (s : State) : Host.Outcome State Fault Refusal := execCctl 5 (.cctlRodrop o) o s
/-- The forms over the whole L1, once for the set. -/
def execCctlAll (inv : Bool) (i : Instr) (s : State) : Host.Outcome State Fault Refusal :=
  runSet i s fun c =>
    let s := if (c.guarded i).isEmpty then s
      else
        let s := s.flushLines c.b.core c.req fun _ => true
        if inv then s.dropLines c.b.core fun _ => true else s
    c.advanceAll s i
def execCctlWbAll (o : OpR) (s : State) : Host.Outcome State Fault Refusal := execCctlAll false (.cctlWbAll o) s
def execCctlInvAll (o : OpR) (s : State) : Host.Outcome State Fault Refusal := execCctlAll true (.cctlInvAll o) s

end Sys2Proof.Machine
end

