-- ==== Sys2Proof/Machine/Mailbox.lean ====
section
/-! DEFINITION. Firmware commands as the mailbox runs them: status, results, the CMD event and the interrupt (spec 14 R436; 16 R464,
R465, R474). -/

namespace Sys2Proof.Machine

open Sys2Proof

/-- Statuses of R436. -/
def stOK : Nat := 0
def stPARTIAL : Nat := 1
def stBUSY : Nat := 2
def stRANGE : Nat := 3
def stNOENT : Nat := 4
def stNOQUEUE : Nat := 5
def stSETTLED : Nat := 6
def stDRAINED : Nat := 7
def stAUTH : Nat := 8

/-- What a command does: a failure's status, or the new state with its results. -/
abbrev Command := State → Except Nat (State × List Nat)

/-- The mailbox after a command: STATUS and CODE, the results from word 0x040 on in 64-bit pieces, and MSI-X vector 0 (R464, R465). -/
def State.reply (s : State) (code status : Nat) (results : List Nat) : State :=
  { s with mbCode := code, mbStatus := status, mbBusy := false, result := results, msix := s.msix ||| 1,
           mailbox := results.zipIdx.flatMap fun x => [(0x040 + 2 * x.2, nat32 x.1), (0x041 + 2 * x.2, nat32 (x.1 / 2 ^ 32))] }
/-- The CMD event of a command, with its status (log 13). -/
def State.logCmd (s : State) (code status : Nat) : State := s.log evCMD 0 0 (nat32 status) (BitVec.ofNat 64 code)
/-- The mailbox takes a command: the package is Active, it is not busy (R465, log 32), and its firmware is valid, or the command is one that
the ROM serves without (R474). -/
def State.takes (s : State) (code : Nat) : Bool :=
  s.power == .active && !s.mbBusy && (s.fwValid || code == 0x18 || code == 0x19)
/-- A command: where the mailbox does not take it, the write of CODE is discarded; one that fails changes nothing else. -/
def State.command (s : State) (code : Nat) (run : Command) : State :=
  if !s.takes code then s
  else match run s with
  | .error e => (s.logCmd code e).reply code e []
  | .ok _ =>
    match run (s.logCmd code 0) with
    | .error e => (s.logCmd code e).reply code e []
    | .ok (t, results) => t.reply code 0 results

end Sys2Proof.Machine
end

