-- ==== Sys2Proof/Machine/Pages.lean ====
section
/-! DEFINITION. Changes of the page tables: XLATE, MIGRATE, their completion, settling, the sketches' interval, scrubbing, and the
instructions PGREQ and PGHINT (spec 07 R244; 08 R256-R266, R282-R285, R493; 01 R31). -/

namespace Sys2Proof.Machine

open Sys2Proof

/-! ## Entries (R256, R257) -/

/-- A key that names an entry of a context's five tables. -/
def keyOk (k : EntryKey) : Bool :=
  k.ctx < 4096 && k.table ≤ 4 && 1 ≤ k.level && k.level ≤ 3 && decide (k.index < 2 ^ (48 - levelShift k.level))
def keySize (k : EntryKey) : Nat := 2 ^ levelShift k.level
/-- The region of k contains that of x. -/
def keyCovers (k x : EntryKey) : Bool :=
  k.ctx == x.ctx && k.table == x.table && k.level ≤ x.level &&
  x.index * 2 ^ levelShift x.level / 2 ^ levelShift k.level == k.index
/-- The line lies in the region of k. -/
def keyHolds (k : EntryKey) (dev : Nat) (ctx line : Nat) : Bool :=
  k.ctx == ctx && decide (entryBase dev k ≤ 128 * line) && decide (128 * line < entryBase dev k + keySize k)

def Entry.blank (k : EntryKey) : Entry :=
  { key := k, st := .unmapped, settled := false, zf := false, size := 0, leaseUs := 8, pr := false, pw := false, pa := false, nm := false,
    fdie := 0, addr := 0, granted := 0, changeAt := none, changed := 0, move := none, moves := [], settledUntil := 0 }
/-- STATE by code, TABLE included. -/
def stateOf (x : Nat) : PageState :=
  match x with
  | 0 => .absent
  | 1 => .resident
  | 2 => .host
  | 3 => .filling
  | 4 => .moving
  | 5 => .failed
  | 7 => .table
  | _ => .rejected
/-- The checks of R257 for an entry with V = 1. -/
def entryOk (k : EntryKey) (x : Nat) : Bool :=
  let st := stateOf (field x 62 60)
  let size := field x 57 56
  st != .rejected && size != 3 && field x 43 40 == 0 && field x 7 0 == 0 &&
  (if st == .table then k.level != 3 else size == 3 - k.level) &&
  (st == .table || field x 39 8 * 256 % keySize k == 0)
/-- The 64 bits of an entry (R257). -/
def parseEntry (k : EntryKey) (v : Dword) : Entry :=
  let x := v.toNat
  let lease := field x 55 50
  { Entry.blank k with
    st := if !bit x 63 then .unmapped else if entryOk k x then stateOf (field x 62 60) else .rejected
    zf := bit x 58, size := field x 57 56, leaseUs := if lease == 0 then 8 else lease + 1, pr := bit x 49, pw := bit x 48, pa := bit x 47,
    nm := bit x 46, fdie := field x 45 44, addr := field x 39 8 * 256 }

/-! ## Contents of frames -/

/-- The bytes of a region of one memory laid over a region of another. -/
def Mem.copyInto (src dst : Mem) (from_ to_ n : Nat) : Mem :=
  let kept := dst.filter fun c => c.1 < to_ || to_ + n ≤ c.1
  src.foldl (fun m c => if from_ ≤ c.1 && c.1 < from_ + n then Mem.write m (to_ + c.1 - from_) c.2 else m) kept
/-- Where the host keeps the copy of a page of space 0x1 that no command has given a host frame: at its offset (log 33). -/
def State.hostCopy (s : State) (k : EntryKey) : Nat := assocD s.hostBase k.ctx 0 + k.index * (keySize k)
/-- Where the pager's backing content of a page of space 0x0 is kept, by context and address (R493). -/
def State.backingKey (s : State) (k : EntryKey) : Nat := k.ctx * 2 ^ 64 + entryBase s.dev k
/-- n bytes of HBM, whole frames, are read or written at their controllers for no partition (R265, R425). -/
def State.countPage (s : State) (a n : Nat) : State :=
  (List.range (n / 2 ^ 16)).foldl (fun s i => s.accessHbm none (a + i * 2 ^ 16) 1024) s
/-- The pager fills a frame (R261, R493): zeros with ZF, else the page's backing content. -/
def State.fillFrame (s : State) (zf : Bool) (e : Entry) : State :=
  let k := e.key
  let s := s.countPage e.frame (keySize k)
  if zf then { s with hbm := Mem.copyInto [] s.hbm 0 e.frame (keySize k) }
  else if k.table == 4 then { s with hbm := s.host.copyInto s.hbm (s.hostCopy k) e.frame (keySize k) }
  else { s with hbm := s.backing.copyInto s.hbm (s.backingKey k) e.frame (keySize k) }
/-- A place lies in the frame of an entry. -/
def Entry.holds (e : Entry) (p : Place) : Bool :=
  match p with
  | .hbm a => e.st != .host && decide (e.frame ≤ a) && decide (a < e.frame + keySize e.key)
  | _ => false
/-- The images of a page's lines are resolved (R400), but for those that ECC finds uncorrectable. -/
def State.resolvePage (s : State) (e : Entry) : State :=
  (s.images.filter fun im => e.holds im.place && !s.spoiled im.place).foldl (fun s im => s.resolveLine none im.place) s
/-- ECC finds some line of a page uncorrectable, or some image of it (R31, R403). -/
def State.pageSpoiled (s : State) (e : Entry) : Bool := (s.errors.any fun a => e.holds (.hbm a)) || s.images.any fun im => e.holds im.place && im.broken
/-- A page is unmapped, or replaced: its images are resolved, and one that is uncorrectable is lost with the page's mark (R31, R400). -/
def State.retirePage (s : State) (e : Entry) : State :=
  let s := s.resolvePage e
  if s.images.any fun im => e.holds im.place then State.failEntry { s with images := s.images.filter fun im => !e.holds im.place } e else s
/-- The content of a MOVING page goes where it moves to (R261, R264), its images resolved before (R400). -/
def State.movePage (s : State) (e : Entry) (t : MoveTarget) : State :=
  let k := e.key
  let n := keySize k
  let s := s.resolvePage e
  let base := assocD s.hostBase k.ctx 0
  match t with
  | .frame fdie addr =>
    let s := (s.countPage e.frame n).countPage (fdie * 2 ^ 40 + addr) n
    { s with hbm := s.hbm.copyInto s.hbm e.frame (fdie * 2 ^ 40 + addr) n }
  | .toHost addr =>
    let s := s.countPage e.frame n
    { s with host := s.hbm.copyInto s.host e.frame (base + addr) n }
  | .toDevice fdie addr =>
    let s := s.countPage (fdie * 2 ^ 40 + addr) n
    { s with hbm := s.host.copyInto s.hbm (base + e.addr) (fdie * 2 ^ 40 + addr) n }
  | .pageOut =>
    let s := s.countPage e.frame n
    if k.table == 4 then { s with host := s.hbm.copyInto s.host e.frame (s.hostCopy k) n }
    else { s with backing := s.hbm.copyInto s.backing e.frame (s.backingKey k) n }

/-! ## XLATE and the completion of a change (R244, R259) -/

/-- The longest lease that the entry, or those under it, granted. -/
def State.longestLease (s : State) (k : EntryKey) : Nat :=
  s.entries.foldl (fun n e => if keyCovers k e.key then max n e.granted else n) 0
/-- A change is under way at the entry or under it. -/
def State.changing (s : State) (k : EntryKey) : Bool := s.entries.any fun e => keyCovers k e.key && e.changeAt.isSome

/-- A target frame on this device: a die has four stacks of 64 GiB (R19, R23). -/
def frameOk (k : EntryKey) (fdie addr : Nat) : Bool := fdie < 4 && addr + keySize k ≤ 2 ^ 38 && addr % keySize k == 0
/-- The frame of a RESIDENT page, or the table that a TABLE entry points to, lies there. -/
def frameFits (e : Entry) : Bool :=
  match e.st with
  | .resident => frameOk e.key e.fdie e.addr
  | .table => frameRange e.frame (if e.key.level == 1 then 4096 else 256)
  | _ => true
/-- The changes of state that XLATE makes (R261); an entry that is malformed, or that becomes or was a table, is none of a page. MIGRATE and
PAGE_MOVE_COMPLETE alone take a page into MOVING and out of it again, but for an unmap (log 75). -/
def stateChange (old new : PageState) : Bool :=
  match old, new with
  | _, .unmapped | _, .rejected | _, .table | .table, .absent | .table, .resident | .table, .host => true
  | .unmapped, .absent | .unmapped, .resident | .unmapped, .host => true
  | .rejected, .absent | .rejected, .resident | .rejected, .host => true
  | .absent, .filling | .filling, .resident => true
  | .moving, .moving => false
  | x, y => x == y
/-- An entry that XLATE may put in an old one's stead: a page that keeps its state keeps its frame, a frame lies in the HBM of this device, and
only a page of space 0x1 lies in the host's memory (R19, R23, R261, R263). -/
def entryChange (old new : Entry) : Bool :=
  stateChange old.st new.st &&
  (old.st != new.st || (new.st != .resident && new.st != .host) || (old.fdie == new.fdie && old.addr == new.addr)) &&
  (new.st != .host || new.key.table == 4) && frameFits new
/-- The entries of the table that a TABLE entry points to, and of the tables under it, as HBM holds them: 8 bytes each, zeros for an
unmapped page (R256, R257; log 75). One that the translation unit holds already keeps what it knows of it. -/
def State.tableEntries (fuel : Nat) (s : State) (e : Entry) : List Entry :=
  match fuel with
  | 0 => []
  | fuel + 1 =>
    if e.st != .table then []
    else
      let n := if e.key.level == 1 then 512 else 32
      let under (i : Nat) : EntryKey := { e.key with level := e.key.level + 1, index := e.key.index * n + i }
      (List.range n).flatMap fun i =>
        let v := s.hbm.readNat (e.frame + 8 * i) 8
        if !bit v 63 then []
        else
          let x := parseEntry (under i) (BitVec.ofNat 64 v)
          let kept := (s.entry? (under i)).filter fun y => y.st == x.st && y.fdie == x.fdie && y.addr == x.addr && y.leaseUs == x.leaseUs &&
            y.zf == x.zf && y.pr == x.pr && y.pw == x.pw && y.pa == x.pa && y.nm == x.nm
          kept.getD x :: State.tableEntries fuel s x

def xlate (k : EntryKey) (v : Dword) : Command := fun s =>
  if !keyOk k then .error stRANGE
  else if s.changing k then .error stBUSY
  else
    let old := (s.entry? k).getD (Entry.blank k)
    let new := parseEntry k v
    if !entryChange old new || (s.tableEntries 2 new).any (fun e => !frameFits e) then .error stRANGE
    else
      let s := s.entries.foldl (fun (s : State) e => if keyCovers k e.key then s.retirePage e else s) s
      let l := if old.st == .filling || old.st == .moving then 0 else s.longestLease k
      let keep := new.st != .unmapped && new.st != .table
      let new := { new with changeAt := some (s.gtime + l), changed := s.gtime, settled := keep && old.settled,
                            moves := if keep then old.moves else [], settledUntil := if keep then old.settledUntil else 0 }
      let s : State := match s.entryPlace k with
        | some a => { s.accessHbm none a 1 with hbm := s.hbm.writeNat a 8 v.toNat }
        | none => s
      -- entries under a table entry that is replaced are no longer reached
      let under := s.entries.filter fun e => !(keyCovers k e.key && e.key != k)
      let s : State := { s with entries := upsert (fun e => e.key == k) new under ++ s.tableEntries 2 new }
      let s := if old.st == .filling && (new.st == .resident) then s.fillFrame old.zf new else s
      let s := if old.st == .absent && new.st == .filling then s.pageReq k 0 0 0 else s
      .ok ((s.wakePages fun x => keyCovers k x).retryStores, [])
def execXlate (s : State) : Host.Outcome State Fault Refusal :=
  runEvent s (match s.subject with
    | .xlate k v => some (s.command 0x0D (xlate k v))
    | _ => none)

/-- Accesses that used the entry as it was before its last change and are not over: dirty bytes under an ended lease and write-backs sent,
stores whose check it answered, contributions in atomic buffers (R244). -/
def State.oldUses (s : State) (e : Entry) : Bool :=
  let mine (ctx line : Nat) : Bool := keyHolds e.key s.dev ctx line
  s.cores.any fun c =>
    (c.lines.any fun l => l.dirty != 0 && l.lease ≤ s.gtime && l.since ≤ e.changed && mine l.key.ctx l.key.line) ||
    (c.sent.any fun x => x.since ≤ e.changed && mine x.key.ctx x.key.line) ||
    (c.stores.any fun x => x.answered.any (fun t => decide (t ≤ e.changed)) && mine x.ctx x.line) ||
    (c.buffers.any fun b => b.since ≤ e.changed && mine b.image.ctx b.image.line)
/-- CHANGE-DONE (R259). -/
def State.changeDone (s : State) (k : EntryKey) : State :=
  s.log evCHANGEDONE 0 0 (nat32 k.ctx) (BitVec.ofNat 64 (entryBase s.dev k))
/-- TRANSLATION_CHANGE_COMPLETE. -/
def execTranslationChangeComplete (s : State) : Host.Outcome State Fault Refusal :=
  runEvent s (match s.subject with
    | .entry k =>
      match s.entry? k with
      | some e =>
        match e.changeAt with
        | some t =>
          if t ≤ s.gtime && !s.oldUses e then
            let s := (s.updEntry k fun e => { e with changeAt := none }).changeDone k
            some { s with entries := s.entries.filter fun e => !(e.key == k && e.st == .unmapped) }
          else none
        | none => none
      | none => none
    | _ => none)

/-! ## MIGRATE (R261, R263, R264, R266) -/

/-- The states a move may start from. -/
def moveOk (e : Entry) (t : MoveTarget) : Bool :=
  match t with
  | .frame fdie addr => e.st == .resident && frameOk e.key fdie addr
  | .toHost addr => e.st == .resident && e.key.table == 4 && addr < 2 ^ 40 && addr % (keySize e.key) == 0
  | .toDevice fdie addr => e.st == .host && frameOk e.key fdie addr
  | .pageOut => e.st == .resident
def migrate (k : EntryKey) (t : MoveTarget) : Command := fun s =>
  match s.entry? k with
  | none => .error stRANGE
  | some e =>
    if e.changeAt.isSome || e.st == .moving || e.st == .filling then .error stBUSY
    else if e.nm || !moveOk e t then .error stRANGE
    else if e.settled && t != .pageOut then .error stSETTLED
    else
      let s := (s.resolvePage e).changeEntry k fun e =>
        { e with st := .moving, move := some t, changeAt := some (s.gtime + e.granted), changed := s.gtime, granted := 0 }
      .ok ((s.wakePages fun x => x == k).retryStores, [])
def execMigrate (s : State) : Host.Outcome State Fault Refusal :=
  runEvent s (match s.subject with
    | .migrate k t => some (s.command 0x0E (migrate k t))
    | _ => none)

/-- The entry a MOVING page takes (R261). -/
def Entry.moved (e : Entry) (t : MoveTarget) : Entry :=
  match t with
  | .frame fdie addr => { e with st := .resident, fdie := fdie, addr := addr, move := none }
  | .toHost addr => { e with st := .host, addr := addr, move := none }
  | .toDevice fdie addr => { e with st := .resident, fdie := fdie, addr := addr, move := none }
  | .pageOut => { e with st := .absent, move := none }
/-- A move in the sense of R266: it changes FDIE or ADDR, or the owner of a host page. -/
def Entry.isMove (e : Entry) (t : MoveTarget) : Bool :=
  match t with
  | .frame fdie addr => fdie != e.fdie || addr != e.addr
  | .toHost _ | .toDevice .. => true
  | .pageOut => false
/-- R266: a move completed at tick now; the fifth within 1,000,000 ticks settles the page. -/
def Entry.recordMove (e : Entry) (now : Nat) : Entry :=
  let settle := e.moves.length == 4 && e.moves.all fun t => decide (now ≤ t + 1000000)
  { e with moves := (now :: e.moves).take 4, settled := e.settled || settle, settledUntil := if settle then now + 10000000 else e.settledUntil }
/-- PAGE_MOVE_COMPLETE: the frame is copied once no access uses the old entry. -/
def execPageMoveComplete (s : State) : Host.Outcome State Fault Refusal :=
  runEvent s (match s.subject with
    | .entry k =>
      match s.entry? k with
      | some e =>
        match e.move with
        | some t =>
          if e.st == .moving && e.changeAt.isNone then
            -- nothing uncorrectable is copied: the page is marked FAILED (R31)
            if s.pageSpoiled e then some (State.failEntry { s with images := s.images.filter fun im => !e.holds im.place } e)
            else
            let s := s.movePage e t
            let new := if e.isMove t then (e.moved t).recordMove s.gtime else e.moved t
            let s := (s.changeEntry k fun _ => new).changeDone k
            let s := if new.settled && !e.settled then s.log evSETTLE 0 0 (nat32 k.ctx) (BitVec.ofNat 64 (entryBase s.dev k)) else s
            some (s.wakePages fun x => x == k).retryStores
          else none
        | none => none
      | none => none
    | _ => none)
/-- SETTLED_EXPIRY; threads that wait for a settled host page ask for it again (R463). -/
def execSettledExpiry (s : State) : Host.Outcome State Fault Refusal :=
  runEvent s (match s.subject with
    | .entry k =>
      match s.entry? k with
      | some e =>
        if e.settled && e.settledUntil ≤ s.gtime then
          some ((s.changeEntry k fun e => { e with settled := false, moves := [] }).wakePages fun x => x == k)
        else none
      | none => none
    | _ => none)

/-! ## HOT_INTERVAL and SCRUB_UNCORRECTABLE (R31, R265) -/

/-- The candidate list in the order R265 logs it. -/
def Sketch.ordered (k : Sketch) : List Nat :=
  (sortBy (fun (x y : Nat × Nat) => decide (y.2 < x.2) || (x.2 == y.2 && decide (x.1 < y.1))) k.list).map Prod.fst
def execHotInterval (s : State) : Host.Outcome State Fault Refusal :=
  runEvent s (match s.subject with
    | .none =>
      if s.nextHot ≤ s.gtime then
        let lists := (List.range 16).map fun c => (c, match s.sketches.find? fun k => k.ctl == c with | some k => k.ordered | none => [])
        let s := lists.foldl (fun s x => s.log evHOT 0 0 (nat32 x.1) (BitVec.ofNat 64 x.2.length)) s
        some { s with sketches := [], hotLists := lists, nextHot := s.nextHot + 100000 }
      else none
    | _ => none)
/-- A mapped page is marked FAILED; the event is an MCHECK of no block (log 13). -/
def execScrubUncorrectable (s : State) : Host.Outcome State Fault Refusal :=
  runEvent s (match s.subject with
    | .entry k =>
      match s.entry? k with
      | some e =>
        if e.st == .unmapped || e.st == .rejected || e.st == .table then none
        else some (s.failEntry e)
      | none => none
    | _ => none)

/-! ## PGREQ and PGHINT (R282-R285) -/

/-- The range of a thread, or its fault: the address after R189 and the clipped length. -/
def State.pageRange (s : State) (c : Sel) (a : Dword) (len : Nat) : Except Fail (Nat × Nat) :=
  let ea := normEa s.dev a.toNat
  let n := min len 0x01000000
  match spaceFault s.podSize ea with
  | some d => .error (mkFail cADDRSPACE ea d)
  | none =>
    if 2 ^ 48 < eaOff ea + n then .error (mkFail cADDRSPACE ea 5)
    else if eaSpace ea == 2 && 4 * c.l.lr.priv ≤ eaOff ea + (n - 1) then .error (mkFail cPRIVLIM ea 0)
    else .ok (ea, n)
/-- The pages of a range, each by an address in it: every 64 KiB from the first to the last byte, or those of the private words. -/
def State.pagesOf (s : State) (c : Sel) (lane ea n : Nat) : List Nat :=
  if eaSpace ea == 3 || isRemote s.dev ea then []
  else if eaSpace ea == 2 then
    ((List.range (max n 1)).map fun i => privateByte s.dev c.l c.b c.grp lane (eaOff ea + i) / 2 ^ 16 * 2 ^ 16).eraseDups
  else (List.range ((ea + (n - 1)) / 2 ^ 16 + 1 - ea / 2 ^ 16)).map fun i => (ea / 2 ^ 16 + i) * 2 ^ 16
def State.requestAt (s : State) (ctx part queue ea : Nat) : State :=
  match s.walk ctx ea with
  | some e =>
    if e.st == .rejected then s.tableError e.key part queue
    else if !e.pr && !e.pw then s
    else if e.st == .absent then s.requestPage e.key part queue
    else if e.st == .host && !e.settled then s.pageReq e.key 1 part queue
    else s
  | none => s
/-- Each page once. -/
def State.requestRange (s : State) (c : Sel) (lane ea n : Nat) : State :=
  let pages := s.pagesOf c lane ea n
  let firsts := pages.foldl (fun (acc : List EntryKey × List Nat) p =>
    match s.walk c.l.ctx p with
    | some e => if acc.1.contains e.key then acc else (acc.1 ++ [e.key], acc.2 ++ [p])
    | none => acc) ([], [])
  firsts.2.foldl (fun s p => s.requestAt c.l.ctx c.l.part c.l.queue p) s
/-- HINT (R285): dropped and counted where the ring is full or holds 256 unread hints. -/
def State.logHint (s : State) (c : Sel) (kind ea n : Nat) : State :=
  let drop := match s.logRing with
    | some r => s.logFull || decide (256 ≤ r.hints.length)
    | none => false
  if drop then { s with hintsDropped := (s.hintsDropped + 1) % 2 ^ 64 }
  else s.log evHINT c.l.part c.l.queue (nat32 (n + kind * 2 ^ 25 + dieOf c.b.core * 2 ^ 27)) (BitVec.ofNat 64 ea)
def pageOp (i : Instr) (o : OpR) (s : State) (f : State → Sel → Nat → Nat → Nat → State) : Host.Outcome State Fault Refusal :=
  runSet i s fun c =>
    let xs := (c.guarded i).map fun l =>
      (l, s.pageRange c ((c.thread l).vPair o.a.toNat) (operandB c.g (c.thread l) o.bk o.b).toNat)
    let s := xs.foldl (fun s x => match x.2 with
      | .ok r => f s c x.1 r.1 r.2
      | .error _ => s) s
    let bad := xs.filterMap fun x => match x.2 with | .error f => some (x.1, f) | .ok _ => none
    c.raise (c.advanceBut s i fun l => bad.any fun x => x.1 == l) (laneFails c.issue.pc bad)
def execPgreq (o : OpR) (s : State) : Host.Outcome State Fault Refusal :=
  pageOp (.pgreq o) o s fun s c l ea n => s.requestRange c l ea n
def execPghint (o : OpR) (s : State) : Host.Outcome State Fault Refusal :=
  pageOp (.pghint o) o s fun s c _ ea n =>
    if eaSpace ea == 3 || isRemote s.dev ea then s else s.logHint c o.d.toNat ea n

end Sys2Proof.Machine
end

