-- ==== Sys2Proof/Machine/Tile.lean ====
section
/-! DEFINITION. The tile store's instructions: LDT, STT, TZERO, and sync words: SYNCARM, SYNCWAIT and its completion (spec 09 R287-R291,
R301-R304; 15 R442, R445). -/

namespace Sys2Proof.Machine

open Sys2Proof

/-! ## LDT, STT, TZERO -/

/-- The offset of LDT and STT as an address, or its fault (R301). -/
def tileAddr (l : Launch) (g : Group) (t : Thread) (o : OpI) (size : Nat) : Except Fail Nat :=
  let x := if (modsOf o.m).c.getLsbD 3 then g.sr o.a.toNat else t.vr o.a.toNat
  let off : Int := x.toNat + o.imm.toInt * size
  let ea := tileEa (off % 2 ^ 48).toNat
  if off % size != 0 then .error (mkFail cMISALIGN ea 0)
  else if off < 0 || (l.lr.tiles : Int) < off + size then .error (mkFail cTILELIM ea 0)
  else .ok ea
def execLdt (kind : LoadKind) (i : Instr) (o : OpI) (s : State) : Host.Outcome State Fault Refusal :=
  runSet i s fun c => c.load s i { kind := kind, vd := o.d.toNat, probe := none, ro := false, byp := false, stream := false }
    ((c.guarded i).map fun l => (l, tileAddr c.l c.g (c.thread l) o kind.size))
def execLdtB32 (o : OpI) (s : State) : Host.Outcome State Fault Refusal := execLdt .b32 (.ldtB32 o) o s
def execLdtB128 (o : OpI) (s : State) : Host.Outcome State Fault Refusal := execLdt .b128 (.ldtB128 o) o s
def execStt (size : Nat) (i : Instr) (o : OpI) (s : State) : Host.Outcome State Fault Refusal :=
  runSet i s fun c => c.store s i { size := size, byp := false, stream := false } (fun l => (c.thread l).dataBytes o.d.toNat size)
    ((c.guarded i).map fun l => (l, tileAddr c.l c.g (c.thread l) o size))
def execSttB32 (o : OpI) (s : State) : Host.Outcome State Fault Refusal := execStt 4 (.sttB32 o) o s
def execSttB128 (o : OpI) (s : State) : Host.Outcome State Fault Refusal := execStt 16 (.sttB128 o) o s

/-- R302: one thread's range. -/
def tzeroRange (l : Launch) (g : Group) (t : Thread) (o : OpR) : Except Fail (Nat × Nat) :=
  let a := (t.vr o.a.toNat).toNat
  let n := (operandB g t o.bk o.b).toNat
  if a % 16 != 0 || n % 16 != 0 then .error (mkFail cMISALIGN (tileEa a) 0)
  else if l.lr.tiles < a + n then .error (mkFail cTILELIM (tileEa a) 0)
  else .ok (a, n)
def execTzero (o : OpR) (s : State) : Host.Outcome State Fault Refusal :=
  runSet (.tzero o) s fun c =>
    let xs := (c.guarded (.tzero o)).map fun l => (l, tzeroRange c.l c.g (c.thread l) o)
    let ok := xs.filterMap fun x => match x.2 with | .ok r => some (x.1, r) | .error _ => none
    let bad := xs.filterMap fun x => match x.2 with | .error f => some (x.1, f) | .ok _ => none
    match s.tileStore c.b c.l (ok.flatMap fun x => runOf x.2.1 (List.replicate x.2.2 0)) with
    | none => s.stallShadow c.blk c.grp c.issue.lanes
    | some s =>
      let (s, details) := s.surveyLanes c (ok.map fun x => (x.1, writeTouches (tileEa x.2.1) x.2.2))
      let s := c.advanceBut s (.tzero o) fun l => bad.any fun x => x.1 == l
      c.raise s (allFails c.issue.pc bad (conflictFails (ok.map fun x => (x.1, tileEa x.2.1)) details))

/-! ## Sync words (R289-R291) -/

/-- Advance() of R290. -/
def syncAdvance (w : Nat) : Nat :=
  let target := field w 31 0
  let count := field w 63 32
  if target == 0 then w
  else setField (setField w 79 64 (field w 79 64 + count / target)) 63 32 (count % target)
/-- An arrival of n bytes (R290). -/
def syncArrive (n : Nat) (err canc : Bool) (h : Nat) (w : Nat) : Nat :=
  let c := field w 63 32 + n
  let w := if 0xFFFFFFFF < c then setField (setField w 63 32 0xFFFFFFFF) 82 82 1 else setField w 63 32 c
  let w := if (err || canc) && !bit w 80 && !bit w 81 then setField w 127 96 h else w
  let w := if err then setField w 80 80 1 else w
  let w := if canc then setField w 81 81 1 else w
  syncAdvance w
/-- R303. -/
def syncArm (target : Nat) (w : Nat) : Nat :=
  syncAdvance (setField (setField (setField w 31 0 target) 82 80 0) 127 96 0)
/-- R291. -/
def genReached (gen g : BitVec 16) : Bool := !(gen - g).getLsbD 15

/-- One indivisible update of the word at an offset; none where a DET launch's shadow pool stalls it (R360). -/
def State.syncUpdate (s : State) (b : Block) (l : Launch) (off : Nat) (f : Nat → Nat) : Option State :=
  s.tileStore b l (runOf off (bytesLE 16 (f (b.tileNat off 16))))

/-- The checks of R303 at an offset. -/
def syncCheck (l : Launch) (off : Nat) : Option Fail :=
  if off % 16 != 0 then some (mkFail cMISALIGN (tileEa off) 0)
  else if l.lr.tiles < off + 16 then some (mkFail cTILELIM (tileEa off) 0)
  else none
def execSyncarm (o : OpR) (s : State) : Host.Outcome State Fault Refusal :=
  runChecked (.syncarm o) s (fun c _ => syncCheck c.l (c.g.sr o.a.toNat).toNat) fun c s =>
    match c.guarded (.syncarm o) with
    | [] => c.passAll s (.syncarm o)
    | l :: r =>
      let off := (c.g.sr o.a.toNat).toNat
      match syncCheck c.l off with
      | some f => c.raiseEach (c.advanceBut s (.syncarm o) fun x => (l :: r).contains x) (l :: r) f
      | none =>
        match s.syncUpdate c.b c.l off (syncArm (operandB c.g (c.thread l) o.bk o.b).toNat) with
        | none => s.stallShadow c.blk c.grp c.issue.lanes
        | some s =>
          let (s, details) := s.surveyLanes c [(l, writeTouches (tileEa off) 16)]
          c.raise (c.passAll s (.syncarm o)) (allFails c.issue.pc [] (conflictFails [(l, tileEa off)] details))

/-! ## SYNCWAIT (R304) -/

def execSyncwait (o : OpR) (s : State) : Host.Outcome State Fault Refusal :=
  perLane (.syncwait o) s fun g _ t =>
    let off := (g.sr o.a.toNat).toNat
    let limit := match s.sel with
      | some c => syncCheck c.l off
      | none => none
    match limit with
    | some f => .raise f
    | none =>
      -- the PC stays at the waiting instruction: its completion moves past it
      let len := Instr.len (.syncwait o)
      .done { t with st := .waiting (.sync o.d.toNat off ((operandB g t o.bk o.b).setWidth 16) len), pc := t.pc - BitVec.ofNat 64 len }

/-- The wait is over: the thread runs on behind its instruction. -/
def Thread.endWait (t : Thread) (len : Nat) : Thread := (t.setState .runnable).advance len
/-- The record kept under a handle: the block's own, else that of another block of its context (log 36). -/
def State.engRecord (s : State) (b : Block) (ctx handle : Nat) : Option FaultRec :=
  (assoc b.records handle).or (s.blocks.findSome? fun x =>
    if (s.launch? x.launch).any fun l => l.ctx == ctx then assoc x.records handle else none)
/-- The record a handle names has been displaced, so that a new one must be logged. -/
def State.engLost (s : State) (b : Block) (handle : Nat) : Bool :=
  match s.launch? b.launch with
  | some l => (s.engRecord b l.ctx handle).isNone
  | none => true
/-- The record an erring wait delivers (R445): that of the operation EHANDLE names, or detail 11 where it has been displaced. -/
def State.deliverEngine (s : State) (b : Block) (grp lane : Nat) (resume : Dword) (handle : Nat) : State :=
  match s.launch? b.launch, s.thread? b.id grp lane with
  | some l, some t =>
    match s.engRecord b l.ctx handle with
    | some r => s.deliver b.id grp lane resume r
    | none =>
      let r := s.record b l grp lane t.pc t.region (mkFail cENGFLT 0 11)
      (s.logRecord evFAULT l r).deliver b.id grp lane resume r
  | _, _ => s
/-- R409: a completed join orders what the operations at an address accessed. -/
def State.joinAt (s : State) (blk grp addr : Nat) : State :=
  match s.block? blk with
  | none => s
  | some b => s.updGroup blk grp fun g =>
      { g with known := (b.joins.filter fun j => j.1 == addr).foldl (fun k j => addSeen k j.2) g.known }
/-- The acquire actions of .pkg that SYNCWAIT and AWAIT take (R238). -/
def State.joined (s : State) (b : Block) : State :=
  match s.launch? b.launch with
  | some l => s.acquireActs b.core (reqOf l b.core) 4
  | none => s
/-- A wait that ends with ERR set: its record is delivered with the instruction behind the thread. A thread that a fault response stopped
goes back to its region entry, and takes the record as it waits again (R95; log 83). -/
def State.endErring (s : State) (b : Block) (grp lane : Nat) (deliver : State → Option State) : Option State :=
  let stopped := (s.thread? b.id grp lane).any fun t => t.horizon.isSome
  let s := s.updThread b.id grp lane fun t => t.setState .runnable
  if stopped then some (s.settle b.id grp lane) else deliver s
/-- The block's threads may take part in events: it is on a core and not being written out. -/
def Block.running (b : Block) : Bool := b.st == .resident
/-- SYNCWAIT_COMPLETE. -/
def execSyncwaitComplete (s : State) : Host.Outcome State Fault Refusal :=
  runEvent s (match s.subject with
    | .lane blk grp lane =>
      match s.block? blk, s.thread? blk grp lane with
      | some b, some t =>
        match t.st with
        | .waiting (.sync vd off gen len) =>
          let w := b.tileNat off 16
          if b.running && genReached (BitVec.ofNat 16 (field w 79 64)) gen then
            let s := s.joinAt blk grp (tileEa off)
            if bit w 80 then
              if s.logFull && s.engLost b (field w 127 96) then none
              else
                (s.joined b).endErring b grp lane fun s => some (s.deliverEngine b grp lane (t.pc + BitVec.ofNat 64 len) (field w 127 96))
            else some (((s.updThread blk grp lane fun t => (t.setV vd (nat32 (field w 82 64))).endWait len).joined b).settle blk grp lane)
          else none
        | _ => none
      | _, _ => none
    | _ => none)

end Sys2Proof.Machine
end

