-- ==== Sys2Proof/Machine/Engines.lean ====
section
/-! DEFINITION. Engine operations: descriptors, checks and issue, one unit of work, arrivals and completions (spec 09 R292-R299,
R305-R307, R310, R311; 07 R236-R238; 15 R445). -/

namespace Sys2Proof.Machine

open Sys2Proof

/-! ## Issue (R292-R296) -/

/-- The engine descriptor (R293), its addresses after R189. -/
structure Desc where
  src : Nat
  dst : Nat
  len : Nat
  param : Nat
  done : Nat
def readDesc (dev : Nat) (g : Group) (a : Nat) : Desc :=
  { src := normEa dev (g.sPair a).toNat, dst := normEa dev (g.sPair (a + 2)).toNat, len := (g.sr (a + 4)).toNat, param := (g.sr (a + 5)).toNat,
    done := normEa dev (g.sPair (a + 6)).toNat }

def engFlt (detail addr : Nat) : Fail := mkFail cENGFLT addr detail
/-- Spaces an engine instruction may accept. -/
def isTile (ea : Nat) : Bool := eaSpace ea == 3 && eaMid ea == 0xFFF
def isHostSpace (ea : Nat) : Bool := eaSpace ea == 1 && eaMid ea == 0
def isGlobal (ea : Nat) : Bool := eaSpace ea == 0
/-- A destination in global memory, which a monitored attempt may not name (R299). -/
def globalDst (c : Sel) (d : Desc) : List (Bool × Fail) :=
  [(c.b.monitored && (isGlobal d.dst || isHostSpace d.dst), mkFail cLADDERFLT 0 2)]
/-- DONE: a sync word, or a completion object in space 0x0 of this device (R293). -/
def doneOk (dev ea : Nat) : Bool := isTile ea || isLocal dev ea
/-- A tile range within the allotment. -/
def tileFits (l : Launch) (ea n : Nat) : Bool := !isTile ea || n == 0 || decide (eaOff ea + n ≤ l.lr.tiles)

/-- Checks in order: each is a fault where its condition holds. -/
def firstFail (l : List (Bool × Fail)) : Option Fail := (l.find? fun x => x.1).map Prod.snd
/-- The checks every operation shares, around those of its own: `ladder` first, then spaces and parameters, then alignment, then the tile
ranges and ownership (R296); DONE's come after the operation's own (log 82). -/
def engChecks (dev : Nat) (c : Sel) (d : Desc) (first spaces aligned : List (Bool × Fail)) (tiles : List (Nat × Nat)) (owned : Nat) : Option Fail :=
  firstFail (first ++ [(c.b.monitored && isLocal dev d.done, mkFail cLADDERFLT 0 2)] ++ spaces ++ [(!doneOk dev d.done, engFlt 1 d.done)] ++ aligned
    ++ [(d.done % 16 != 0, engFlt 2 d.done)]
    ++ ((tiles ++ [(d.done, 16)]).map fun (t : Nat × Nat) => (!tileFits c.l t.1 t.2, mkFail cTILELIM t.1 0))
    ++ [(c.l.lr.own && owned != 0 && eaSpace d.dst ≤ 1 && !c.b.owns d.dst owned, mkFail cOWNFLT d.dst 1)])

/-- The operations of a core that hold a slot: an ACOLL whose contribution has been read holds none (R295). -/
def EngOp.holdsSlot (o : EngOp) : Bool := !o.contributed
def Core.freeSlot (c : Core) : Option Nat :=
  (List.range 64).find? fun n => !c.ops.any fun o => o.holdsSlot && o.handle % 64 == n
/-- The serial that follows (R295). -/
def nextSerial (n : Nat) : Nat := if n + 1 < 2 ^ 26 then n + 1 else 1

/-- The slot is issued again: the record it held is displaced (R445). -/
def State.dropRecords (s : State) (core slot : Nat) : State :=
  { s with blocks := s.blocks.map fun b => if b.onCore && b.core == core then { b with records := b.records.filter fun r => r.1 % 64 != slot } else b }

/-- What an instruction asks of the engine beside its descriptor. -/
structure EngSpec where
  kind : EngKind
  units : List Nat
  total : Nat
  snapshot : Option (List Byte)

/-- The issue of an operation once its checks have passed: a release at .core by the issuing thread, the slot, the handle, the budget
(R292, R295). -/
def Sel.issueOp (c : Sel) (s : State) (i : Instr) (lane dReg : Nat) (d : Desc) (q : EngSpec) : State :=
  let core := s.core c.b.core
  if !c.releasable s [lane] then c.hold s
  else if s.throttled c.l.part bENGINE then c.full s
  else match core.freeSlot with
  | none => c.full s
  | some slot =>
    let s := s.releaseActs c.b.core c.blk c.req 1
    let s := s.charge c.l.part bENGINE 1
    let serial := nextSerial core.serial
    let h := serial * 64 + slot
    let t := c.thread lane
    let op : EngOp :=
      { handle := h, blk := c.blk, grp := c.grp, lane := lane, launch := c.l.id, ctx := c.l.ctx, pc := c.issue.pc, region := t.region,
        kind := q.kind, src := BitVec.ofNat 64 d.src, dst := BitVec.ofNat 64 d.dst, len := d.len, done := BitVec.ofNat 64 d.done,
        remaining := q.units, total := q.total, counted := 0, snapshot := q.snapshot, err := false, canc := false, fail := none,
        finished := q.units.isEmpty, silent := false, buf := [], lost := [], idx := [], trav := none, pairs := [],
        party := opParty c.grp c.g.interval, known := c.g.known ++ [(c.blk, c.grp, c.g.interval)] }
    -- an operation without work leaves a sync word as it is (R305)
    let keep := !(q.units.isEmpty && isTile d.done)
    let s := s.updCore c.b.core fun k =>
      { k with serial := serial, ops := if keep then k.ops ++ [op] else k.ops }
    let s := s.dropRecords c.b.core slot
    c.passAll (s.updGroup c.blk c.grp fun g => { g.setS dReg (nat32 h) with interval := g.interval + 1 }) i

/-- An engine instruction: once for the set; `check` and `spec` are its own. -/
def execEngine (i : Instr) (o : OpR) (s : State) (check : Sel → Nat → Desc → Option Fail) (spec : Sel → Nat → Desc → EngSpec) :
    Host.Outcome State Fault Refusal :=
  runChecked i s (fun c l => check c l (readDesc s.dev c.g o.a.toNat)) fun c s =>
    match c.guarded i with
    | [] => c.passAll s i
    | l :: r =>
      let d := readDesc s.dev c.g o.a.toNat
      match check c l d with
      | some f => c.raiseEach (c.advanceBut s i fun x => (l :: r).contains x) (l :: r) f
      | none => c.issueOp s i l o.d.toNat d (spec c l d)

/-! ## ACOPY, ACOPY.quant, AGATH, ASCAT, ADIGEST -/

/-- The space pairs of R305. -/
def copySpaces (src dst : Nat) : Bool :=
  ((isGlobal src || isHostSpace src || isTile src) && isTile dst) || (isTile src && (isGlobal dst || isHostSpace dst))
/-- Two tile ranges that share a byte. -/
def tileOverlap (a n b m : Nat) : Bool := isTile a && isTile b && decide (a < b + m) && decide (b < a + n)
/-- ACOPY; a fault of several addresses names SRC (log 82). -/
def execAcopy (o : OpR) (s : State) : Host.Outcome State Fault Refusal :=
  execEngine (.acopy o) o s
    (fun c _ d => engChecks s.dev c d (globalDst c d)
      [(!copySpaces d.src d.dst, engFlt 1 d.src), (d.param != 0, engFlt 3 d.src)]
      [(d.src % 16 != 0 || d.dst % 16 != 0 || d.len % 16 != 0, engFlt 2 d.src)] [(d.src, d.len), (d.dst, d.len)] d.len)
    (fun c _ d => { kind := .copy, units := List.range (d.len / 16), total := d.len,
                    snapshot := if tileOverlap d.src d.len d.dst d.len then some (c.b.tileBytes (eaOff d.src) d.len) else none })

/-- Bytes of a wide value (R306). -/
def quantWide (bf16 : Bool) : Nat := if bf16 then 2 else 4
/-- The rounding mode of ACOPY.quant: RND, or the issuing thread's. -/
def quantMode (o : OpR) (t : Thread) : BitVec 3 :=
  if (modsOf o.m).rnd != 0 then (modsOf o.m).rnd else (t.fpenv.setWidth 3)
def execAcopyQuant (o : OpR) (s : State) : Host.Outcome State Fault Refusal :=
  let c8 := (modsOf o.m).c
  let elem (c : Sel) : BitVec 4 := elemAt c.b.rung (BitVec.ofNat 4 (c8.toNat / 16))
  let bf16 := c8.getLsbD 3
  let blockBytes := 32 * quantWide bf16
  let off (c : Sel) : Nat := (c.g.sr o.b.toNat).toNat
  execEngine (.acopyQuant o) o s
    (fun c _ d =>
      let nb := d.len / blockBytes
      let out := nb * quantBytes (elem c).toNat
      engChecks s.dev c d ([((elemFmt (elem c)).isNone, noElem)] ++ globalDst c d)
        [(!((isGlobal d.src || isHostSpace d.src || isTile d.src) && isTile d.dst), engFlt 1 d.src), (d.param != 0, engFlt 3 d.src)]
        [(d.src % 16 != 0 || d.dst % 16 != 0 || d.len % blockBytes != 0, engFlt 2 d.src)]
        [(d.src, d.len), (d.dst, out), (tileEa (off c), nb)] 0)
    (fun c l d =>
      let nb := d.len / blockBytes
      let out := nb * quantBytes (elem c).toNat
      let overlap := tileOverlap d.src d.len d.dst out || tileOverlap d.src d.len (tileEa (off c)) nb
      { kind := .quant (elem c).toNat bf16 (quantMode o (c.thread l)) (off c), units := List.range nb, total := nb * (quantBytes (elem c).toNat + 1),
        snapshot := if overlap then some (c.b.tileBytes (eaOff d.src) d.len) else none })

/-- The checks of R307 that AGATH and ASCAT share; the index list lies at tile offset B. -/
def gatherChecks (dev : Nat) (c : Sel) (d : Desc) (list : Nat) (scatter : Bool) : Option Fail :=
  let mem := if scatter then d.dst else d.src
  let tile := if scatter then d.src else d.dst
  let n := d.len
  let es := d.param
  engChecks dev c d [(c.b.monitored && scatter, mkFail cLADDERFLT 0 2)]
    [(!((isGlobal mem || isHostSpace mem) && isTile tile), engFlt 1 mem), (es % 4 != 0 || es < 4 || 4096 < es, engFlt 3 mem)]
    [(mem % 4 != 0 || tile % 16 != 0 || list % 4 != 0, engFlt 2 mem)] [(tile, n * es), (tileEa list, 4 * n)] 0
def execAgath (o : OpR) (s : State) : Host.Outcome State Fault Refusal :=
  let list (c : Sel) : Nat := (c.g.sr o.b.toNat).toNat
  execEngine (.agath o) o s (fun c _ d => gatherChecks s.dev c d (list c) false)
    (fun c _ d => { kind := .gather d.param (list c), units := List.range (d.len * (d.param / 4)), total := d.len * d.param, snapshot := none })
def execAscat (o : OpR) (s : State) : Host.Outcome State Fault Refusal :=
  let list (c : Sel) : Nat := (c.g.sr o.b.toNat).toNat
  execEngine (.ascat o) o s (fun c _ d => gatherChecks s.dev c d (list c) true)
    (fun c _ d => { kind := .scatter d.param (list c), units := List.range (d.len * (d.param / 4)), total := d.len * d.param, snapshot := none })
def execAdigest (o : OpR) (s : State) : Host.Outcome State Fault Refusal :=
  execEngine (.adigest o) o s
    (fun c _ d => engChecks s.dev c d (globalDst c d)
      [(!((isLocal s.dev d.src || isHostSpace d.src || isTile d.src) && (isLocal s.dev d.dst || isTile d.dst)), engFlt 1 d.src),
       (d.param != 0, engFlt 3 d.src)]
      [(d.dst % 16 != 0, engFlt 2 d.dst)] [(d.src, d.len), (d.dst, 64)] 64)
    (fun c _ d => { kind := .digest, units := [0], total := 64,
                    snapshot := if tileOverlap d.src d.len d.dst 64 then some (c.b.tileBytes (eaOff d.src) d.len) else none })

/-! ## Accesses of an operation (R237, R238, R297) -/

/-- What an access of the engine meets. -/
inductive EngOut (α : Type) where
  | ok (s : State) (x : α)
  /-- the page is being filled, or a resource is not free: the engine waits -/
  | wait
  /-- the page is requested, and the engine waits for it -/
  | request (key : EntryKey)
  /-- a fault after issue, by detail and address: several where an access completes several conflicts (R410) -/
  | fail (s : State) (code : Nat) (xs : List (Nat × Nat))
  | mcheck (addr : Nat)

def EngOut.bind {α β : Type} (x : EngOut α) (f : State → α → EngOut β) : EngOut β :=
  match x with
  | .ok s a => f s a
  | .wait => .wait
  | .request k => .request k
  | .fail s c xs => .fail s c xs
  | .mcheck a => .mcheck a

/-- An answer that gives no place. -/
def State.engMiss {α : Type} (s : State) (l : Launch) (ea : Nat) (a : Answer) : EngOut α :=
  match a with
  | .absent k => .request k
  | .filling _ => .wait
  | .noPort => .wait
  | .failed => .mcheck ea
  | .rejected k => .fail (s.tableError k l.part l.queue) cENGFLT [(4, ea)]
  | _ => .fail s cENGFLT [(4, ea)]

def EngOp.req (o : EngOp) (l : Launch) (core : Nat) : Req := { part := l.part, engine := true, ctx := o.ctx, die := dieOf core }
/-- The runs of n bytes from an address by line: address and length, addresses wrapping modulo 2^64. -/
def lineRuns (fuel ea n : Nat) : List (Nat × Nat) :=
  match fuel with
  | 0 => []
  | fuel + 1 =>
    if n == 0 then []
    else
      let k := min n (128 - ea % 128)
      (ea % 2 ^ 64, k) :: lineRuns fuel ((ea + k) % 2 ^ 64) (n - k)
def runsOf (ea n : Nat) : List (Nat × Nat) := lineRuns (n / 128 + 2) ea n

/-- A source byte of global memory, as the operation has read it. -/
def EngOp.held (o : EngOp) (dev ea : Nat) : Option Byte :=
  let a := normEa dev ea
  (assoc o.buf (a / 128)).bind fun l => (l.getD (a % 128) none)
/-- The n source bytes at an address: its snapshot, the tile store, or the lines read; none for those no read could bring. -/
def EngOp.source (o : EngOp) (dev : Nat) (b : Block) (ea n : Nat) : List (Option Byte) :=
  if isTile ea then
    (match o.snapshot with
    | some bs => (bs.drop (ea - o.src.toNat)).take n
    | none => b.tileBytes (eaOff ea) n).map some
  else (List.range n).map fun i => o.held dev (ea + i)
/-- The first line of some ranges of the source that is still to be read, with the offsets wanted of it. -/
def EngOp.wants (o : EngOp) (dev : Nat) (rs : List (Nat × Nat)) : Option (Nat × List Nat) :=
  ((rs.filter fun r => !isTile r.1).flatMap fun r => runsOf r.1 r.2).findSome? fun r =>
    let a := normEa dev r.1
    let offs := (List.range r.2).map fun i => a % 128 + i
    if o.lost.contains (a / 128) || offs.all (fun x => (o.held dev (a / 128 * 128 + x)).isSome) then none else some (a, offs)
/-- One line of the source is read, as one event: the attempt's deferred bytes, the core's dirty bytes and its valid ones within lease. Where
that is all that is wanted, no more is taken, so that an element read later is read whole (R374); else the rest of the line comes from the
home (R237, R239, R299), behind the core's earlier requests to a line of another device (R242). -/
def State.engFetch (s : State) (b : Block) (l : Launch) (o : EngOp) (ea : Nat) (offs : List Nat) : EngOut (List (Option Byte)) :=
  let r := o.req l b.core
  let k : LineKey := { ctx := o.ctx, line := ea / 128 }
  let own (x : Nat) : Option Byte := if b.monitored then b.deferredByte (128 * k.line + x) else none
  let near (x : Nat) : Option Byte := ((s.core b.core).line? k).bind fun y =>
    if y.dirty.getLsbD x || (y.valid.getLsbD x && decide (s.gtime < y.lease)) then some (y.byte x) else none
  let here (x : Nat) : Option Byte := (o.held s.dev (128 * k.line + x)).or ((own x).or (near x))
  let far (s : State) (place : Place) : EngOut (List (Option Byte)) :=
    let (s, byte) := s.readNow b.core r k place (List.range 128)
    .ok s ((List.range 128).map fun x => some ((here x).getD (byte x)))
  if 1 < eaSpace ea || (spaceFault s.podSize ea).isSome then .fail s cENGFLT [(4, ea)]
  else if offs.all fun x => (here x).isSome then
    .ok s ((List.range 128).map fun x => if offs.contains x then here x else o.held s.dev (128 * k.line + x))
  else if s.heldRequest r [ea] || s.remoteFirst b.core k.line (s.core b.core).nextReq then .wait
  else match s.answer r .rd (128 * k.line) 128 with
    | .served place _ _ _ _ => far s place
    | .direct place _ => far s place
    | a => s.engMiss l ea a
/-- What was read is kept. -/
def EngOp.keep (o : EngOp) (ea : Nat) (bs : List (Option Byte)) : EngOp := { o with buf := assocSet o.buf (ea / 128) bs }

/-- Where the bytes of a global destination go. -/
def State.engPlaceNow (s : State) (b : Block) (l : Launch) (o : EngOp) (ea : Nat) : EngOut Place :=
  if 1 < eaSpace ea || (spaceFault s.podSize ea).isSome then .fail s cENGFLT [(4, ea)]
  else match s.answer (o.req l b.core) .wr (ea / 128 * 128) 128 with
  | .served place _ _ _ _ => .ok s place
  | .direct place _ => .ok s place
  | a => s.engMiss l ea a
/-- And whether they can be written now: no budget holds the request, no earlier one is in its way (R242, R426). -/
def State.engPlace (s : State) (b : Block) (l : Launch) (o : EngOp) (ea : Nat) : EngOut Place :=
  if eaSpace ea ≤ 1 && (spaceFault s.podSize ea).isNone &&
      (s.heldRequest (o.req l b.core) [ea] || s.remoteFirst b.core (ea / 128) (s.core b.core).nextReq) then .wait
  else s.engPlaceNow b l o ea
/-- All the places first, so that a unit is written whole or not at all (R297). -/
def State.engPlaces (s : State) (b : Block) (l : Launch) (o : EngOp) (rs : List (Nat × Nat)) : EngOut (List (Nat × Nat × Place)) :=
  match rs with
  | [] => .ok s []
  | x :: rest => (s.engPlace b l o (normEa s.dev x.1)).bind fun s p => (State.engPlaces s b l o rest).bind fun s ps =>
      .ok s ((normEa s.dev x.1, x.2, p) :: ps)
/-- Bytes are written at the homes of their lines, after everything the core wrote before (R235, R238). -/
def State.engPut (s : State) (b : Block) (l : Launch) (o : EngOp) (ps : List (Nat × Nat × Place)) (bs : List Byte) : State :=
  let r := o.req l b.core
  (ps.foldl (fun (acc : State × List Byte) p =>
    ((acc.1.yieldLine b.core r { ctx := o.ctx, line := p.1 / 128 }).homeWrite r p.1 p.2.2 ((acc.2.take p.2.1).zipIdx.map fun x => (p.1 % 128 + x.2, x.1)), acc.2.drop p.2.1))
    (s.settleCore b.core r, bs)).1
/-- Writes to the tile store, with their shadow lines, or to global memory. -/
def State.engWrite (s : State) (b : Block) (l : Launch) (o : EngOp) (ea : Nat) (bs : List Byte) : EngOut Unit :=
  if isTile ea then
    match s.tileStore b l (runOf (eaOff ea) bs) with
    | some s => .ok s ()
    | none => .wait
  else (s.engPlaces b l o (runsOf ea bs.length)).bind fun s ps => .ok (s.engPut b l o ps bs) ()
/-- Several writes of one unit. -/
def State.engWrites (s : State) (b : Block) (l : Launch) (o : EngOp) (ws : List (Nat × List Byte)) : EngOut Unit :=
  ws.foldl (fun (acc : EngOut Unit) w => acc.bind fun s _ => s.engWrite ((s.block? b.id).getD b) l o w.1 w.2) (.ok s ())
/-- The Surveyor records the accesses of the operation, which is a party of its own (R409); a conflict makes the unit fail (R410). -/
def State.engSurvey (s : State) (l : Launch) (o : EngOp) (ts : List Touch) : EngOut Unit :=
  match s.surveyTouches l o.surveyed ts with
  | (s, []) => .ok s ()
  | (s, xs) => .fail s cDETCONF xs

/-! ## Units (R305-R307, R311) -/

/-- The units that fail together with one, and whose bytes are counted together: the words of an element. -/
def EngOp.together (o : EngOp) (u : Nat) : List Nat := (List.range o.words).map fun w => u / o.words * o.words + w
/-- The bytes that the arrival counts when unit u is performed: an element's at its last word. -/
def EngOp.unitBytes (o : EngOp) (u : Nat) : Nat :=
  match o.kind with
  | .copy => 16
  | .quant elem _ _ _ => quantBytes elem + 1
  | .gather es _ | .scatter es _ => if (o.remaining.filter fun x => x != u).any (o.together u).contains then 0 else es
  | .digest => 64
  | _ => 0
/-- The index of unit u's element is read when the element is begun, once (R307). -/
def EngOp.begin (o : EngOp) (b : Block) (u : Nat) : EngOp :=
  match o.kind with
  | .gather _ list | .scatter _ list =>
    let e := u / o.words
    { o with idx := assocSet o.idx e (o.index b list e) }
  | _ => o
/-- The ranges of the source that unit u needs before it can be performed: an element's words wait for the whole of it (R297). -/
def EngOp.needs (o : EngOp) (b : Block) (u : Nat) : List (Nat × Nat) :=
  let src := o.src.toNat
  match o.kind with
  | .copy => [(src + 16 * u, 16)]
  | .quant _ bf16 _ _ => [(src + 32 * quantWide bf16 * u, 32 * quantWide bf16)]
  | .gather es list => [((src + o.index b list (u / o.words) * es) % 2 ^ 64, es)]
  | .scatter .. => []
  | _ => [(src, o.len)]
/-- An element of a scatter whose index a higher element repeats: that one's bytes stand where they have been written already (R307). -/
def EngOp.beaten (o : EngOp) (u : Nat) : Bool :=
  let e := u / o.words
  o.idx.any fun x => decide (e < x.1) && some x.2 == assoc o.idx e && !o.remaining.contains (x.1 * o.words + u % o.words)
/-- The writes of unit u, its source bytes being there, with the counts of a quantised block. -/
def EngOp.writes (o : EngOp) (dev : Nat) (b : Block) (u : Nat) : List (Nat × List Byte) × Nat :=
  let src := o.src.toNat
  let dst := o.dst.toNat
  let get (ea n : Nat) : List Byte := (o.source dev b ea n).map fun x => x.getD 0
  match o.kind with
  | .copy => ([(dst + 16 * u, get (src + 16 * u) 16)], 0)
  | .quant elem bf16 mode off =>
    let n := 32 * quantWide bf16
    let wide := if bf16 then fmtBf16 else fmtF32
    let el := (elemFmt (BitVec.ofNat 4 elem)).getD fmtE2m1
    let eb := quantBytes elem
    let q := quantize el (elemEmax (BitVec.ofNat 4 elem)) (RMode.ofCode mode.toNat)
      ((blockElems (wide.mag + 1) (ofBytes (get (src + n * u) n))).map wide.value)
    ([(dst + u * eb, bytesLE eb (elemsNat (el.mag + 1) q.elems)), (tileEa (off + u), [BitVec.ofNat 8 q.scale])], q.sat + q.fl)
  | .gather es list => ([(o.wordAt b u, get (src + o.index b list (u / o.words) * es + 4 * (u % o.words)) 4)], 0)
  | .scatter .. => (if o.beaten u then [] else [(o.wordAt b u, get (src + 4 * u) 4)], 0)
  | .digest => ([(dst, shake256 (get src o.len))], 0)
  | _ => ([], 0)
/-- What unit u touches: its source bytes and its destination; an element, its index among them, whole at its first word, so that a conflict
leaves none of it written (R297). -/
def EngOp.touches (o : EngOp) (b : Block) (u : Nat) (ws : List (Nat × List Byte)) : List Touch :=
  let src := o.src.toNat
  let e := u / o.words
  let first := (o.together u).all o.remaining.contains
  let index (list : Nat) : List Touch := readTouches (tileEa (list + 4 * e)) 4
  match o.kind with
  | .gather es list =>
    if first then index list ++ readTouches ((src + o.index b list e * es) % 2 ^ 64) es ++ writeTouches (o.dst.toNat + e * es) es else []
  | .scatter es list =>
    if first then index list ++ readTouches (src + e * es) es ++ writeTouches ((o.dst.toNat + o.index b list e * es) % 2 ^ 64) es else []
  | _ => ((o.needs b u).flatMap fun r => readTouches r.1 r.2) ++ ws.flatMap fun w => writeTouches w.1 w.2.length
/-- Unit u is performed: the destination of a scatter's element is checked whole, for ownership too (R296, R297). -/
def State.engUnit (s : State) (b : Block) (l : Launch) (o : EngOp) (u : Nat) : EngOut Nat :=
  let (ws, n) := o.writes s.dev b u
  let first : EngOut Unit := match o.kind with
    | .scatter es list =>
      let a := (o.dst.toNat + o.index b list (u / o.words) * es) % 2 ^ 64
      if l.lr.own && !b.owns a es then .fail s cENGFLT [(7, a)]
      else (s.engPlaces b l o (runsOf a es)).bind fun s _ => .ok s ()
    | _ => .ok s ()
  (first.bind fun s _ => s.engSurvey l o (o.touches b u ws)).bind fun s _ => (s.engWrites b l o ws).bind fun s _ => .ok s n

/-! ## Progress and completion -/

def State.updOp (s : State) (core h : Nat) (f : EngOp → EngOp) : State :=
  s.updCore core fun c => { c with ops := c.ops.map fun o => if o.handle == h then f o else o }
def State.dropOp (s : State) (core h : Nat) : State := s.updCore core fun c => { c with ops := c.ops.filter fun o => o.handle != h }
/-- The record of an operation that failed (R297, R445): logged, and kept under its handle; each conflict beside it is logged too
(R410). -/
def State.recordOp (s : State) (o : EngOp) : State :=
  match o.fail, s.block? o.blk, s.launch? o.launch with
  | some (code, detail, addr), some b, some l =>
    let rec_ (code detail : Nat) (addr : Dword) : FaultRec := s.record b l o.grp o.lane o.pc o.region (mkFail code addr.toNat detail)
    let r := rec_ code detail addr
    let others := if code == cDETCONF then o.pairs.erase (detail, addr) else o.pairs
    let s := others.foldl (fun s p => s.logRecord evFAULT l (rec_ cDETCONF p.1 p.2)) (s.logRecord evFAULT l r)
    s.updBlock b.id fun b => { b with records := assocSet b.records o.handle r }
  | _, _, _ => s
/-- R409: what a wait on DONE joins with: the operation, and what was ordered before its issue. -/
def State.noteJoin (s : State) (o : EngOp) : State :=
  match s.launch? o.launch with
  | some l =>
    if l.lr.det then s.updBlock o.blk fun b =>
      { b with joins := (o.known ++ [(o.blk, o.party, 0)]).foldl (fun k (x : Nat × Nat × Nat) => addKnown k o.done.toNat x.1 x.2.1 x.2.2) b.joins }
    else s
  | none => s
/-- A failing unit: the lowest address is kept (R297), and every conflict (R410). -/
def EngOp.failed (o : EngOp) (code : Nat) (xs : List (Nat × Nat)) : EngOp :=
  let low := xs.foldl (fun (m : Nat × Nat) x => if x.2 < m.2 then x else m) (xs.headD (0, 0))
  { o with
    err := true
    pairs := if code == cDETCONF then o.pairs ++ xs.map fun x => (x.1, BitVec.ofNat 64 x.2) else o.pairs
    fail := match o.fail with
      | some f => if low.2 < f.2.2.toNat then some (code, low.1, BitVec.ofNat 64 low.2) else some f
      | none => some (code, low.1, BitVec.ofNat 64 low.2) }
/-- The operation's update of DONE, recorded by the Surveyor as a contribution: updates of one word by several operations do not conflict
with each other, any other unordered access does (R409, R411; log 30). -/
def State.surveyDone (s : State) (l : Launch) (o : EngOp) : State × EngOp :=
  match s.surveyTouches l o.surveyed (touchesOf o.done.toNat 16 fun tile line m => { tile := tile, line := line, reads := 0, writes := 0, reds := m }) with
  | (s, []) => (s, o)
  | (s, xs) => (s, o.failed cDETCONF xs)
/-- The completion at a sync word: the failure or the cancellation arrives with every byte not yet counted (R297, R313); none where the
shadow pool stalls it. -/
def State.finishSync (s : State) (core : Nat) (o : EngOp) : Option State :=
  let s := (s.noteJoin o).dropOp core o.handle
  if !o.err && !o.canc then some s
  else
    let (s, o) := match s.launch? o.launch with
      | some l => if o.counted == 0 then s.surveyDone l o else (s, o)
      | none => (s, o)
    let s := s.recordOp o
    match s.block? o.blk, s.launch? o.launch with
    | some b, some l =>
      if b.onCore then s.syncUpdate b l (eaOff o.done.toNat) (syncArrive (o.total - o.counted) o.err o.canc o.handle) else some s
    | _, _ => some s

/-- The completion object after one completion (R294). -/
def objectDone (err canc : Bool) (h x : Nat) : Nat :=
  let y := setField x 63 0 (field x 63 0 + 1)
  let y := if (err || canc) && !bit x 64 && !bit x 65 then setField y 127 96 h else y
  let y := if err then setField y 64 64 1 else y
  if canc then setField y 65 65 1 else y
/-- One atomic update of an object at its home: none while it waits for its page, `.inl` where it is denied. -/
def State.updateObject (s : State) (r : Req) (queue ctx ea : Nat) (f : Nat → Nat) : Option (State × Bool) :=
  match s.answer r .wr (ea / 128 * 128) 128 with
  | .served place _ _ _ _ =>
    let (s, bs) := s.homeRead r ea (place.add (ea % 128)) 16
    some (s.homeWrite r ea place (runOf (ea % 128) (bytesLE 16 (f (ofBytes bs)))), true)
  | .direct place _ =>
    let (s, bs) := s.homeRead r ea (place.add (ea % 128)) 16
    some (s.homeWrite r ea place (runOf (ea % 128) (bytesLE 16 (f (ofBytes bs)))), true)
  | .absent k => if (s.entry? k).any (fun e => e.st == .absent && e.key.ctx == ctx) then some (s.requestPage k r.part queue, false) else none
  | .filling _ => none
  | .noPort => none
  | _ => some (s, true)
/-- Such an update is denied, or finds no mapping: the state after the event that a rejected entry calls for (R257). -/
def State.objectDenied (s : State) (r : Req) (queue ea : Nat) : Option State :=
  match s.answer r .wr (ea / 128 * 128) 128 with
  | .rejected k => some (s.tableError k r.part queue)
  | .unmapped | .denied _ => some s
  | _ => none
/-- The completion of an operation whose DONE is an object, a release at .pkg (R238): everything the core wrote before is performed first;
none while nothing can happen. -/
def State.finishObject (s : State) (core : Nat) (o : EngOp) : Option State :=
  match s.launch? o.launch with
  | none => some (s.dropOp core o.handle)
  | some l =>
    let r := o.req l core
    let ea := o.done.toNat
    match s.answer r .wr (ea / 128 * 128) 128 with
    | .failed => some ((s.dropOp core o.handle).mcheck o.blk ea)
    | _ =>
      match s.objectDenied r l.queue ea with
      | some s => some (((s.recordOp o).dropOp core o.handle).raiseImprecise o.blk o.grp o.lane o.pc (engFlt 8 ea))
      | none =>
        let go (s : State) (o : EngOp) : Option (State × Bool) :=
          ((s.settleCore core r).yieldLine core r { ctx := o.ctx, line := ea / 128 }).updateObject r l.queue o.ctx ea (objectDone o.err o.canc o.handle)
        let (s', o') := s.surveyDone l o
        match go s' o' with
        | some (t, true) => some (((t.recordOp o').noteJoin o').dropOp core o.handle)
        | some (_, false) => (go s o).map Prod.fst
        | none => none
/-- An operation with no unit left completes at its sync word, or awaits ENGINE_COMPLETION_UPDATE. -/
def State.finishOp (s : State) (core : Nat) (o : EngOp) : Option State :=
  if o.silent then some (s.dropOp core o.handle)
  else if isTile o.done.toNat then s.finishSync core o else some (s.updOp core o.handle fun _ => { o with finished := true })

/-- Units leave the list; the last of them ends the operation. -/
def State.leaveUnits (s : State) (core : Nat) (o : EngOp) : Option State :=
  if o.remaining.isEmpty then s.finishOp core o else some (s.updOp core o.handle fun _ => o)
/-- One part of unit u of an operation: a line of its source read, or the unit performed, failed, or its page requested; none where the
engine waits for it. -/
def State.engineUnit (s : State) (core : Nat) (o : EngOp) (u : Nat) : Option State :=
  match s.block? o.blk, s.launch? o.launch with
  | some b, some l =>
    let o := o.begin b u
    let failed (s : State) (code : Nat) (xs : List (Nat × Nat)) : Option State :=
      let all := o.together u
      s.leaveUnits core ({ o with remaining := o.remaining.filter fun x => !all.contains x, idx := o.idx.filter fun x => x.1 != u / o.words }.failed
        code xs)
    -- the index that has been read is kept (R307)
    let asked (k : EntryKey) : Option State := some ((s.updOp core o.handle fun _ => o).requestPage k l.part l.queue)
    match o.wants s.dev (o.needs b u) with
    | some (ea, offs) =>
      match s.engFetch b l o ea offs with
      | .ok s bs => some (s.updOp core o.handle fun _ => o.keep ea bs)
      | .wait => none
      | .request k => asked k
      | .mcheck a => some (s.mcheck o.blk a)
      | .fail s code xs => failed s code xs
    | none =>
      match s.engUnit b l o u with
      | .wait => none
      | .request k => asked k
      | .mcheck a => some (s.mcheck o.blk a)
      | .fail s code xs => failed s code xs
      | .ok s n =>
        let bytes := o.unitBytes u
        let (s, o) := if isTile o.done.toNat && bytes != 0 && o.counted == 0 then s.surveyDone l o else (s, o)
        let o := { o with remaining := o.remaining.filter fun x => x != u, counted := o.counted + bytes }
        let s := s.updOp core o.handle fun _ => o
        let counted : Option State :=
          if isTile o.done.toNat && bytes != 0 then
            match s.block? o.blk with
            | some b => s.syncUpdate b l (eaOff o.done.toNat) (syncArrive bytes false false o.handle)
            | none => some s
          else some s
        counted.bind fun s =>
          let s := if n == 0 then s else s.addRange o.blk n
          if o.remaining.isEmpty then s.finishOp core o else some s
  | _, _ => some (s.dropOp core o.handle)

/-! ## What a traverse writes (R374-R376, R381) -/

def State.updTrav (s : State) (core h : Nat) (f : TravRun → TravRun) : State :=
  s.updOp core h fun o => { o with trav := o.trav.map f }
/-- One element, to the tile store, to the attempt's deferred bytes once translated as a store is (R341, R381), or at its home. -/
def State.travPut (s : State) (b : Block) (l : Launch) (o : EngOp) (w : Nat × List Byte) : EngOut Unit :=
  if b.monitored && !isTile w.1 then
    let n := b.newDeferred [w.1 / 128]
    let keep (s : State) : EngOut Unit :=
      match s.shadowRoom b l n with
      | .free => .ok ((s.takeShadow b.id n).updBlock b.id fun b => b.defer w.1 w.2) ()
      | .exhausted => .ok (s.doom b.id .exhaustion) ()
      | .stall => .wait
    match s.answer (o.req l b.core) .wr (w.1 / 128 * 128) 128 with
    | .absent k => keep (s.requestPage k l.part l.queue)
    | .served .. | .direct .. | .filling _ | .noPort => keep s
    | a => s.engMiss l w.1 a
  else s.engWrite b l o w.1 w.2
/-- A computed element is written; a later denial loses its aligned 16-byte unit (R375). None while it waits. -/
def State.travWrite (s : State) (core : Nat) (b : Block) (l : Launch) (o : EngOp) (w : Nat × List Byte) : Option State :=
  let drop (s : State) (p : Nat × List Byte → Bool) : State :=
    s.updTrav core o.handle fun t => { t with writes := t.writes.filter fun x => !p x }
  match s.travPut b l o w with
  | .wait => none
  | .request k => some (s.requestPage k l.part l.queue)
  | .mcheck a => some (s.mcheck o.blk a)
  | .ok s _ => some (drop s fun x => x == w)
  | .fail s code xs =>
    some (drop ((s.updOp core o.handle fun o => o.failed code xs).updTrav core o.handle fun t => { t with lost := t.lost ++ [w.1 / 16] })
      fun x => x.1 / 16 == w.1 / 16)
/-- The end of a traverse: its one arrival of 128 bytes (R379). -/
def State.travArrive (s : State) (core : Nat) (b : Block) (l : Launch) (o : EngOp) : Option State :=
  if o.silent then some (s.dropOp core o.handle)
  else if o.err || o.canc then s.finishSync core o
  else
    let (s, o) := s.surveyDone l o
    if o.err then s.finishSync core o
    else (s.syncUpdate b l (eaOff o.done.toNat) (syncArrive 128 false false o.handle)).map fun s => (s.noteJoin o).dropOp core o.handle

/-- The first unit in a list that is not waiting. -/
def State.firstUnit (s : State) (core : Nat) (o : EngOp) (us : List Nat) : Option State :=
  match us with
  | [] => none
  | u :: r => (s.engineUnit core o u).or (State.firstUnit s core o r)
/-- The operation named by a core and a handle. -/
def State.op? (s : State) (core h : Nat) : Option EngOp := (s.core core).ops.find? fun o => o.handle == h
/-- A block that its operations serve still; those of another are dropped, or signal their cancellation at their objects (R298) (log 43). -/
def State.opAlive (s : State) (o : EngOp) : Bool := (s.block? o.blk).any Block.onCore

end Sys2Proof.Machine
end

