-- ==== Sys2Proof/Machine/Sums.lean ====
section
/-! DEFINITION. Exact sums of many terms and their one rounding (spec 05 R157; 09 R310; 10 R321). -/

namespace Sys2Proof.Machine

open Sys2Proof

/-- The least exponent of some finite values, 0 for none. -/
def leastExp (vs : List FVal) : Int :=
  vs.foldl (fun (e : Option Int) v => match v with
    | .fin _ m x => if m == 0 then e else some (match e with | some y => min x y | none => x)
    | _ => e) none |>.getD 0
/-- Their exact sum, in units of 2^e. -/
def sumAt (e : Int) (vs : List FVal) : Int :=
  vs.foldl (fun a v => match v with
    | .fin n m x => if m == 0 then a else
        let y : Int := ((m <<< (x - e).toNat : Nat) : Int)
        if n then a - y else a + y
    | _ => a) 0
/-- Round(Exact(sum), f, mode); an exact zero is -0 where every value is -0 or under RDN (R321). -/
def roundSum (f : Fmt) (mode : RMode) (vs : List FVal) : Nat × Flags :=
  let e := leastExp vs
  let x := sumAt e vs
  if x == 0 then (f.withSign ((!vs.isEmpty && vs.all fun v => v.isZero && v.neg) || mode == .rdn) 0, 0)
  else roundTo f mode false { neg := decide (x < 0), m := x.natAbs, e := e, sticky := false }

/-- Bits of an infinity. -/
def Fmt.infBits (f : Fmt) (neg : Bool) : Nat := f.withSign neg f.infMag

/-- A sum of values with the special cases of R310 and R163: canonical NaN, no flag kept. -/
def plainSum (f : Fmt) (vs : List FVal) : Nat :=
  let pinf := vs.any fun v => v.isInf && !v.neg
  let ninf := vs.any fun v => v.isInf && v.neg
  if vs.any FVal.isNaN || (pinf && ninf) then f.canonical
  else if pinf then f.infBits false
  else if ninf then f.infBits true
  else (roundSum f .rne vs).1

end Sys2Proof.Machine
end

