-- ==== Sys2Proof/Machine/Collect.lean ====
section
/-! DEFINITION. Collectives and communicators, the progress events of engine operations, and AWAIT (spec 09 R290, R294, R308-R310, R312;
14 R417, R437; 16 R468, R470). -/

namespace Sys2Proof.Machine

open Sys2Proof

/-! ## Communicators (R308, R437) -/

def State.comm? (s : State) (part number : Nat) : Option Comm := s.comms.find? fun c => c.part == part && c.number == number
/-- The rank of a block in a communicator. -/
def Comm.rank? (c : Comm) (dev launch blkidx : Nat) : Option Nat :=
  (c.members.zipIdx.find? fun m => m.1.dev == dev && m.1.launch == launch && m.1.blkidx == blkidx).map Prod.snd
/-- Scopes a communicator may name: .die, .pkg, .pod or .net (R53, R308). -/
def commScope (x : BitVec 3) : Bool := x == 3 || x == 4 || x == 5 || x == 7
/-- The members are different blocks, and those of a .net communicator, and no others, have their names on the network (R308, R470). -/
def membersOk (scope : BitVec 3) (ms : List Member) : Bool :=
  let blocks := ms.map fun m => (m.dev, m.launch, m.blkidx)
  !ms.isEmpty && blocks == blocks.eraseDups && ms.all fun m => m.net.isSome == (scope == 7)
/-- COMM_CREATE; a timeout of 1 to 1,000 ms, 100 ms by default (R470). -/
def commCreate (x : Subject) : Command := fun s =>
  match x with
  | .comm part number scope members timeout =>
    let timeoutMs := timeout.getD 100
    if (s.part? part).isNone then .error stNOENT
    else if 65536 ≤ number || !commScope scope || !membersOk scope members || timeoutMs == 0 || 1000 < timeoutMs
        || (s.comm? part number).isSome then .error stRANGE
    else
      let c : Comm := { part := part, number := number, scope := scope, members := members, timeoutMs := timeoutMs,
                        joined := List.replicate members.length 0 }
      .ok ({ s with comms := s.comms ++ [c] }, [])
  | _ => .error stRANGE
def execCommCreate (s : State) : Host.Outcome State Fault Refusal := runEvent s (some (s.command 0x0F (commCreate s.subject)))
/-- COMM_FREE: the barriers that the communicator's members share go with it (R383). -/
def commFree (x : Subject) : Command := fun s =>
  match x with
  | .commNumber part number =>
    if (s.comm? part number).isNone then .error stNOENT
    else .ok ({ s with comms := s.comms.filter fun c => !(c.part == part && c.number == number)
                       podBars := s.podBars.filter fun p => !(p.part == part && p.comm == number) }, [])
  | _ => .error stRANGE
def execCommFree (s : State) : Host.Outcome State Fault Refusal := runEvent s (some (s.command 0x0F (commFree s.subject)))

/-! ## ACOLL at issue (R296, R299, R308, R309) -/

/-- PARAM and the C field of ACOLL. -/
structure CollSpec where
  scope : Nat
  kind : Nat
  op : Nat
  comm : Nat
  type : Nat
  root : Nat
def collSpec (c8 : BitVec 8) (param : Nat) : CollSpec :=
  { scope := field c8.toNat 2 0, kind := field c8.toNat 4 3, op := field c8.toNat 7 5, comm := field param 15 0, type := field param 19 16,
    root := field param 31 20 }
/-- Element types of R309. -/
def collType (t : Nat) : Bool := t == 2 || t == 3 || (6 ≤ t && t ≤ 11)
/-- Bytes that a member's DST receives (R310). -/
def collBytes (kind len n : Nat) : Nat :=
  match kind with
  | 1 => n * len
  | 2 => len / n
  | _ => len
/-- A member's part in ENGFLT detail 3: the communicator, the block's membership, scope, type and root. -/
def collBad (q : CollSpec) (k : Option Comm) (rank : Option Nat) : Bool :=
  match k, rank with
  | some k, some _ => k.scope.toNat != q.scope || !collType q.type || (if q.kind == 3 then decide (k.members.length ≤ q.root) else q.root != 0)
  | _, _ => true
def collCheck (i : Instr) (s : State) (c : Sel) (d : Desc) (q : CollSpec) : Option Fail :=
  let k := s.comm? c.l.part q.comm
  let rank := k.bind fun k => k.rank? s.dev c.l.id c.b.blkidx
  let n := match k with | some k => k.members.length | none => 1
  let here : Nat := match k with | some k => k.members.countP (fun m => m.dev == s.dev) | none => 0
  engChecks s.dev c d
    [(q.op != 0 && (q.kind == 1 || q.kind == 3), mkFail cILLEGAL 0 (instrWord i).toNat),
     (c.b.monitored, xblock 1), (c.l.lr.det && decide (2 ≤ here), xblock 2)]
    [(!((isLocal s.dev d.src || isTile d.src) && isLocal s.dev d.dst && isLocal s.dev d.done), engFlt 1 d.src),
     (collBad q k rank, engFlt 3 0), ((q.scope == 3 || q.scope == 4) && !c.l.lr.coop, engFlt 6 0)]
    [(d.len % 16 != 0 || (q.kind == 2 && d.len % (16 * n) != 0), engFlt 2 d.src)]
    [(d.src, d.len)] (collBytes q.kind d.len n)

/-- The round an issue joins (R310): the member's rounds so far. -/
def State.nextRound (s : State) (c : Sel) (comm : Nat) : Nat :=
  match s.comm? c.l.part comm with
  | some k => match k.rank? s.dev c.l.id c.b.blkidx with | some r => k.joined.getD r 0 | none => 0
  | none => 0
def State.joinRound (s : State) (c : Sel) (comm : Nat) : State :=
  { s with comms := s.comms.map fun k =>
      if k.part == c.l.part && k.number == comm then
        match k.rank? s.dev c.l.id c.b.blkidx with
        | some r => { k with joined := k.joined.modify r (· + 1) }
        | none => k
      else k }

def execAcoll (o : OpR) (s : State) : Host.Outcome State Fault Refusal :=
  let desc (c : Sel) : Desc := readDesc s.dev c.g o.a.toNat
  let spec (c : Sel) : CollSpec := collSpec (modsOf o.m).c (desc c).param
  runChecked (.acoll o) s (fun c _ => collCheck (.acoll o) s c (desc c) (spec c)) fun c s =>
    match c.guarded (.acoll o) with
    | [] => c.passAll s (.acoll o)
    | l :: r =>
      let d := desc c
      let q := spec c
      match collCheck (.acoll o) s c d q with
      | some f => c.raiseEach (c.advanceBut s (.acoll o) fun x => (l :: r).contains x) (l :: r) f
      | none =>
        let t := c.issueOp s (.acoll o) l o.d.toNat d
          { kind := .coll q.kind q.op q.type q.comm q.root, units := [s.nextRound c q.comm], total := 0, snapshot := none }
        -- an issue that is held joins no round
        if (t.core c.b.core).serial == (s.core c.b.core).serial then t else t.joinRound c q.comm

/-! ## A member's contribution (R310) -/

/-- An Ethernet port whose table lets the engines of a partition send (R471). -/
def State.netGranted (s : State) (part : Nat) : Bool :=
  (List.range 8).any fun p => s.aclGrants (.ethernet p) (0x10 + part) .wr 0 0
/-- Every other device of a .pod communicator is reachable through a port that is granted to the engines of the partition (R467, R473). -/
def State.podReaches (s : State) (k : Comm) : Bool :=
  k.members.all fun m => m.dev == s.dev || (s.livePorts m.dev).any fun p => s.aclGrants (.horaris p) (0x10 + k.part) .wr 0 0

/-- One line of the contribution is read, or the last of them has been and the slot is released (R310); a failing line leaves a hole
(R297), and without a granted port nothing leaves for the network (R473). None while the engine waits. -/
def State.collectUnit (s : State) (core : Nat) (o : EngOp) : Option State :=
  match o.kind, s.block? o.blk, s.launch? o.launch, o.remaining with
  | .coll kind op type comm root, some b, some l, k :: _ =>
    let src := o.src.toNat
    match o.wants s.dev [(src, o.len)] with
    | some (ea, offs) =>
      match (s.engSurvey l o (readTouches ea offs.length)).bind fun s _ => s.engFetch b l o ea offs with
      | .wait => none
      | .request key => some (s.requestPage key l.part l.queue)
      | .mcheck a => some (s.mcheck o.blk a)
      | .fail s code xs =>
        some (s.updOp core o.handle fun _ => { o.failed code xs with lost := o.lost ++ [ea / 128] })
      | .ok s bs => some (s.updOp core o.handle fun _ => o.keep ea bs)
    | none =>
      let (s, o) := match (if isTile src then s.engSurvey l o (readTouches src o.len) else .ok s ()) with
        | .fail s code xs => (s, o.failed code xs)
        | .ok s _ => (s, o)
        | _ => (s, o)
      let rank := ((s.comm? l.part comm).bind fun c => c.rank? s.dev l.id b.blkidx).getD 0
      let data := if isTile src && o.err then List.replicate o.len none else o.source s.dev b src o.len
      let scope := match s.comm? l.part comm with | some c => c.scope | none => 0
      if scope == 7 && !s.netGranted l.part then
        some (s.updOp core o.handle fun _ => { o.failed cENGFLT [(4, src)] with remaining := [], finished := true, buf := [] })
      else
      let x : Contribution := { part := l.part, comm := comm, round := k, rank := rank, kind := kind, op := op, type := type, root := root,
                                data := data, eng := { o with remaining := [], finished := true, buf := [] }, core := core, since := s.gtime }
      some { s.dropOp core o.handle with contributions := s.contributions ++ [x] }
  | _, _, _, _ => none

/-! ## Progress events -/

/-- SYNC_WORD_ARRIVAL: one unit of an operation, whichever the engine takes next (R236, log 2). -/
def execSyncWordArrival (s : State) : Host.Outcome State Fault Refusal :=
  runEvent s (match s.subject with
    | .op core h =>
      match s.op? core h with
      | none => none
      | some o =>
        if o.finished then none
        else match o.kind with
        | .trav => none
        | .travst .. => none
        | .coll .. => s.collectUnit core o
        | _ =>
          let k := s.choose o.remaining.length
          s.tickFree.firstUnit core o (o.remaining.drop k ++ o.remaining.take k)
    | _ => none)
/-- ENGINE_COMPLETION_UPDATE (R294). -/
def execEngineCompletionUpdate (s : State) : Host.Outcome State Fault Refusal :=
  runEvent s (match s.subject with
    | .op core h =>
      match s.op? core h with
      | some o => if o.finished && !o.atWord then s.finishObject core o else none
      | none => none
    | _ => none)

/-! ## COLLECTIVE_ROUND (R310) -/

/-- Combine of one element position over the ranks (R310): independent of their order (log 44). -/
def combineElem (type op : Nat) (xs : List Nat) : Nat :=
  let t : BitVec 4 := BitVec.ofNat 4 type
  if typeInt t then
    let w := typeWidth t
    let le (a b : Nat) : Bool := decide (intValue t a ≤ intValue t b)
    match op, xs with
    | 0, _ => xs.foldl (· + ·) 0 % 2 ^ w
    | 1, x :: r => r.foldl (fun a b => if le a b then a else b) x
    | _, x :: r => r.foldl (fun a b => if le a b then b else a) x
    | _, [] => 0
  else
    let f := typeFmt t
    match op, xs with
    | 0, _ => plainSum f (xs.map f.value)
    | k, x :: r => r.foldl (fun a b => (fpMinMax f faddEnv (k == 2) (f.value a) (f.value b) 0).bits) x
    | _, [] => 0
/-- Combine of whole contributions; none for an element of which some contribution has a hole. -/
def combineBytes (type op : Nat) (len : Nat) (cs : List (List (Option Byte))) : List (Option Byte) :=
  let w := typeBits (BitVec.ofNat 4 type) / 8
  (List.range (len / w)).flatMap fun i =>
    match cs.mapM fun c => ((c.drop (i * w)).take w).mapM id with
    | some xs => (bytesLE w (combineElem type op (xs.map ofBytes))).map some
    | none => List.replicate w none
/-- What rank r's DST receives. -/
def collResult (kind op type root len n r : Nat) (cs : List (List (Option Byte))) : List (Option Byte) :=
  match kind with
  | 0 => combineBytes type op len cs
  | 1 => cs.flatten
  | 2 => ((combineBytes type op len cs).drop (r * (len / n))).take (len / n)
  | _ => cs.getD root []

/-- The contributions of a round by rank: this device's, then those from outside; none while one is missing. -/
def roundData (k : Comm) (mine : List Contribution) (outside : List (Nat × List Byte)) : Option (List (List (Option Byte))) :=
  (List.range k.members.length).mapM fun r =>
    match mine.find? fun x => x.rank == r with
    | some x => some x.data
    | none => (assoc outside r).map fun bs => bs.map some
/-- All members of this device issued the same kind, op, type, LEN and root, and those from outside the same length. -/
def roundAgrees (mine : List Contribution) (outside : List (Nat × List Byte)) : Bool :=
  match mine with
  | [] => true
  | x :: r => r.all (fun y => y.kind == x.kind && y.op == x.op && y.type == x.type && y.eng.len == x.eng.len && y.root == x.root)
      && outside.all fun y => y.2.length == x.eng.len

/-- A member whose operation is over: its completion object is due (R294). -/
def State.returnOp (s : State) (core : Nat) (o : EngOp) : State := s.updCore core fun c => { c with ops := c.ops ++ [o] }
/-- The bytes that are there, as runs from an address on. -/
def someRuns (ea : Nat) (bs : List (Option Byte)) : List (Nat × List Byte) :=
  bs.zipIdx.foldl (fun acc x => match x.1 with
    | none => acc
    | some v => match acc.getLast? with
      | some r => if r.1 + r.2.length == ea + x.2 then acc.dropLast ++ [(r.1, r.2 ++ [v])] else acc ++ [(ea + x.2, [v])]
      | none => [(ea + x.2, [v])]) []
/-- One line of a member's DST written, but for the holes of the contributions; its failure noted (R297) (log 44). What the round itself uses
of the budgets holds none of it back. -/
def State.writeLine (s : State) (b : Block) (l : Launch) (o : EngOp) (ea : Nat) (bs : List (Option Byte)) : State × EngOp :=
  let o := match bs.findIdx? Option.isNone with
    | some i => o.failed cENGFLT [(4, ea + i)]
    | none => o
  (someRuns ea bs).foldl (fun (acc : State × EngOp) r =>
    let ea := normEa acc.1.dev r.1
    match (acc.1.engSurvey l acc.2 (writeTouches ea r.2.length)).bind fun s _ => s.engPlaceNow b l acc.2 ea with
    | .ok s p => (s.engPut b l acc.2 [(ea, r.2.length, p)] r.2, acc.2)
    | .fail s code xs => (s, acc.2.failed code xs)
    | _ => acc) (s, o)
/-- The lines that a member writes. -/
def memberLines (x : Contribution) (bs : List (Option Byte)) : List (Nat × List (Option Byte)) :=
  (runsOf x.eng.dst.toNat bs.length).foldl (fun (acc : List (Nat × List (Option Byte)) × List (Option Byte)) r =>
    (acc.1 ++ [(r.1, acc.2.take r.2)], acc.2.drop r.2)) ([], bs) |>.1
/-- The bytes of a round that cross a link (R425): a member's contribution where another member is on another die or device, and what
comes from other devices (log 44). -/
def State.chargeRound (s : State) (k : Comm) (mine : List Contribution) (outside : List (Nat × List Byte)) : State :=
  let far (x : Contribution) : Bool :=
    k.members.any (fun m => m.dev != s.dev) || mine.any fun y => dieOf y.core != dieOf x.core
  let sent := mine.foldl (fun n x => if far x then n + x.eng.len else n) 0
  s.charge k.part bFABRIC (outside.foldl (fun n x => n + x.2.length) sent)
/-- What stands in the way of a round: a page to request, a wait, or nothing. -/
def State.roundStop (s : State) (ws : List (Contribution × List (Nat × List (Option Byte)))) : Option (Option State) :=
  ws.findSome? fun w => match s.block? w.1.eng.blk, s.launch? w.1.eng.launch with
    | some b, some l => w.2.findSome? fun x => match s.engPlace b l w.1.eng (normEa s.dev x.1) with
      | .wait => some none
      | .request k => some (some (s.requestPage k l.part l.queue))
      | .mcheck a => some (some (s.mcheck w.1.eng.blk a))
      | _ => none
    | _, _ => none
/-- COLLECTIVE_ROUND: `outside` brings the contributions of members on other devices (R468, log 37). -/
def execCollectiveRound (s : State) : Host.Outcome State Fault Refusal :=
  runEvent s (match s.subject with
    | .round part comm round outside =>
      match s.comm? part comm with
      | none => none
      | some k =>
        let isMine (x : Contribution) : Bool := x.part == part && x.comm == comm && x.round == round
        let mine := s.contributions.filter isMine
        let outside := outside.filter fun x => (k.members[x.1]?).any fun m => m.dev != s.dev
        if mine.isEmpty || (k.scope == 5 && !s.podReaches k) then none
        else match roundData k mine outside with
        | none => none
        | some data =>
          let rest := s.contributions.filter fun x => !isMine x
          let n := k.members.length
          let split (s : State) (x : Contribution) : State :=
            s.returnOp x.core { x.eng with err := true, fail := some (cENGFLT, 5, x.eng.src) }
          if !roundAgrees mine outside then some (mine.foldl split { s with contributions := rest })
          else
            let ws := mine.map fun x => (x, memberLines x (collResult x.kind x.op x.type x.root x.eng.len n x.rank data))
            match s.roundStop ws with
            | some t => t
            | none =>
              some (ws.foldl (fun s w => match s.block? w.1.eng.blk, s.launch? w.1.eng.launch with
                | some b, some l =>
                  let r := w.2.foldl (fun (acc : State × EngOp) x => State.writeLine acc.1 b l acc.2 x.1 x.2) (s, w.1.eng)
                  r.1.returnOp w.1.core r.2
                | _, _ => s) (State.chargeRound { s with contributions := rest } k mine outside))
    | _ => none)
/-- NET_ACK_TIMEOUT (R470): after the communicator's timeout the round of a .net communicator ends with err = 1 and detail 4 for its members
here. -/
def execNetAckTimeout (s : State) : Host.Outcome State Fault Refusal :=
  runEvent s (match s.subject with
    | .round part comm round _ =>
      match s.comm? part comm with
      | none => none
      | some k =>
        let isMine (x : Contribution) : Bool := x.part == part && x.comm == comm && x.round == round
        let mine := s.contributions.filter isMine
        if k.scope != 7 || mine.isEmpty || mine.any (fun x => decide (s.gtime < x.since + 1000000 * k.timeoutMs)) then none
        else some (mine.foldl (fun s x => s.returnOp x.core (x.eng.failed cENGFLT [(4, x.eng.src.toNat)]))
          { s with contributions := s.contributions.filter fun x => !isMine x })
    | _ => none)

/-! ## AWAIT (R312) -/

def execAwait (o : OpR) (s : State) : Host.Outcome State Fault Refusal :=
  perLane (.await o) s fun g _ t =>
    let ea := normEa s.dev (t.vPair o.a.toNat).toNat
    let len := Instr.len (.await o)
    if eaSpace ea != 0 then .raise (mkFail cADDRSPACE ea 6)
    else match spaceFault s.podSize ea with
    | some d => .raise (mkFail cADDRSPACE ea d)
    | none =>
      if ea % 16 != 0 then .raise (mkFail cMISALIGN ea 0)
      else .done { t with st := .waiting (.await o.d.toNat (BitVec.ofNat 64 ea) (operandB g t o.bk o.b) len), pc := t.pc - BitVec.ofNat 64 len }

/-- The record an erring AWAIT delivers: an arming's, the status of a launch (R417), or an operation's; none while the log is full. -/
def State.deliverAwait (s : State) (b : Block) (l : Launch) (grp lane : Nat) (resume : Dword) (ea handle : Nat) : Option State :=
  match s.armRecords.find? fun r => r.1 == l.ctx && r.2.1 == ea && r.2.2.1 == handle with
  | some r => some (s.deliver b.id grp lane resume r.2.2.2)
  | none =>
    if handle < 64 then
      if s.logFull then none
      else
        let pc := match s.thread? b.id grp lane with | some t => (t.pc, t.region) | none => (0, 0)
        let r := s.record b l grp lane pc.1 pc.2 (engFlt 10 ea)
        some ((s.logRecord evFAULT l r).deliver b.id grp lane resume r)
    else if s.logFull && s.engLost b handle then none
    else some (s.deliverEngine b grp lane resume handle)
/-- A waiting thread's read meets a fault response (R95, R211): it stops with the instruction behind it, and settles. -/
def State.stopWait (s : State) (blk grp lane len : Nat) (pc : Dword) (why : Stop) (ea : Nat) : State :=
  let id := match s.group? blk grp with | some g => g.nextLoad | none => 0
  let s := s.updThread blk grp lane fun t => (t.setState .runnable).advance len
  (s.stop blk grp lane id pc why ea).settle blk grp lane
/-- The same for what an answer means. -/
def State.waitMiss (s : State) (b : Block) (l : Launch) (grp lane len : Nat) (pc : Dword) (ea : Nat) (a : Answer) : Option State :=
  match a with
  | .noPort => none
  | .failed => some (s.mcheck b.id ea)
  | .absent k => some ((s.requestPage k l.part l.queue).stopWait b.id grp lane len pc (.page k false) ea)
  | .filling k => some (s.stopWait b.id grp lane len pc (.page k false) ea)
  | .rejected k => some ((s.tableError k l.part l.queue).stopWait b.id grp lane len pc (.deny (mkFail cADDRSPACE ea 4)) ea)
  | .denied d => some (s.stopWait b.id grp lane len pc (.deny (mkFail cPERM ea d)) ea)
  | _ => some (s.stopWait b.id grp lane len pc (.deny (mkFail cADDRSPACE ea 4)) ea)
/-- AWAIT_COMPLETE: the generation is the home's, without dirty bytes of the thread's own core (log 82). -/
def execAwaitComplete (s : State) : Host.Outcome State Fault Refusal :=
  runEvent s (match s.subject with
    | .lane blk grp lane =>
      match s.block? blk, s.thread? blk grp lane with
      | some b, some t =>
        match t.st, s.launch? b.launch with
        | .waiting (.await vd a g len), some l =>
          let ea := a.toNat
          let r := reqOf l b.core
          let done (s : State) (p : Place) : Option State :=
            let s := (s.homeRead r ea (p.add (ea % 128)) 8).1
            let w := ofBytes (s.placeRead (p.add (ea % 128)) 16)
            if (nat32 w - g).getLsbD 31 then none
            else
              let s := s.joinAt blk grp ea
              if bit w 64 then
                (s.joined b).endErring b grp lane fun s => s.deliverAwait b l grp lane (t.pc + BitVec.ofNat 64 len) ea (field w 127 96)
              else
                some (((s.updThread blk grp lane fun t => (t.setV vd (nat32 w)).endWait len).joined b).settle blk grp lane)
          if !b.running || s.heldRequest r [ea] then none
          else match s.answer r .rd (ea / 128 * 128) 128 with
          | .served p _ _ _ _ => done s p
          | .direct p _ => done s p
          | x => s.waitMiss b l grp lane len t.pc ea x
        | _, _ => none
      | _, _ => none
    | _ => none)

end Sys2Proof.Machine
end

