-- ==== Sys2Proof/Machine/Cancel.lean ====
section
/-! DEFINITION. ACANCEL (spec 09 R298, R313; 12 R376). -/

namespace Sys2Proof.Machine

open Sys2Proof

/-- How many parts a unit may take: each line of its source, and its performance. -/
def EngOp.parts (o : EngOp) (b : Block) (u : Nat) : Nat := ((o.needs b u).flatMap fun r => runsOf r.1 r.2).length + 1
/-- The units that a cancelled operation still owes, each in its parts, one after the other; the last of them completes it. None while one
must wait. -/
def State.finishUnits (s : State) (core h : Nat) (us : List Nat) : Option State :=
  match us with
  | [] => some s
  | u :: r =>
    match s.op? core h with
    | none => some s
    | some o => if o.remaining.contains u then (s.engineUnit core o u).bind fun s => State.finishUnits s core h r else State.finishUnits s core h r
/-- The elements that a cancelled traverse has computed, then its arrival (R376). -/
def State.finishTrav (s : State) (core h : Nat) (b : Block) (l : Launch) (n : Nat) : Option State :=
  match s.op? core h, n with
  | none, _ => some s
  | some _, 0 => none
  | some o, n + 1 =>
    match (o.trav.map TravRun.writes).getD [] with
    | [] => s.travArrive core b l o
    | w :: _ => (s.travWrite core ((s.block? b.id).getD b) l o w).bind fun s => State.finishTrav s core h b l n
/-- The operation is cancelled as a whole: its touched spans are completed, and its completion is signalled with canc = 1; none while a page
or a resource is missing. -/
def State.cancelNow (s : State) (b : Block) (l : Launch) (o : EngOp) : Option State :=
  let core := b.core
  let o := { o.cancelled b with canc := true }
  let s := s.updOp core o.handle fun _ => o
  let isTrav := match o.kind with | .trav | .travst .. => true | _ => false
  let s := if isTrav then s.finishTrav core o.handle b l (((o.trav.map TravRun.writes).getD []).length + 1)
    else if o.remaining.isEmpty then s.finishOp core o
    else s.finishUnits core o.handle (o.remaining.flatMap fun u => List.replicate (o.parts b u) u)
  s.bind fun s =>
    match s.op? core o.handle with
    | none => some s
    | some o =>
      if !o.finished then none
      else (s.finishObject core o).bind fun s => if (s.op? core o.handle).isSome then none else some s
/-- The page that stands in the way of it, requested (R297). -/
def State.requestFor (s : State) (b : Block) (l : Launch) (o : EngOp) : State :=
  let ask {α : Type} (x : EngOut α) : Option EntryKey := match x with
    | .request k => some k
    | _ => none
  let key := ((o.cancelUnits b).findSome? fun u => match o.wants s.dev (o.needs b u) with
    | some (ea, offs) => ask (s.engFetch b l o ea offs)
    | none => ask (s.engUnit b l o u)).or (((o.trav.map TravRun.writes).getD []).findSome? fun w => ask (s.travPut b l o w))
  match key with
  | some k => s.requestPage k l.part l.queue
  | none =>
    if o.atWord then s
    else match s.answer (o.req l b.core) .wr (o.done.toNat / 128 * 128) 128 with
      | .absent k => s.requestPage k l.part l.queue
      | _ => s

def execAcancel (o : OpR) (s : State) : Host.Outcome State Fault Refusal :=
  runBoundary (.acancel o) s fun c s =>
    match c.guarded (.acancel o) with
    | [] => c.passAll s (.acancel o)
    | l :: r =>
      let h := (operandB c.g (c.thread l) o.bk o.b).toNat
      let answer (s : State) (x : Bool) : State :=
        c.passAll (s.updGroup c.blk c.grp fun g =>
          g.each fun k t => if (l :: r).contains k then t.setP (o.d.toNat % 8) x else t) (.acancel o)
      match (s.op? c.b.core h).filter fun e => e.blk == c.blk && !e.contributed with
      | none => answer s false
      | some e =>
        match s.cancelNow c.b c.l e with
        | some s => answer s true
        | none => c.hold (s.requestFor c.b c.l e)

end Sys2Proof.Machine
end

