-- ==== Sys2Proof/Machine/Matrix.lean ====
section
/-! DEFINITION. The matrix unit and the accumulator tiles: MMA, MMASP, the accumulator instructions and MATRIX_OP_COMPLETE (spec 10
R314-R334; 11 R348, R349, R358, R359). -/

namespace Sys2Proof.Machine

open Sys2Proof

/-! ## Tiles (R315) -/

def Tile.get (t : Tile) (i j : Nat) : Word := assocD t (64 * i + j) 0
/-- A tile by its elements, zeros unlisted. -/
def Tile.ofFn (f : Nat → Nat → Word) : Tile :=
  (List.range 4096).filterMap fun n => let x := f (n / 64) (n % 64); if x == 0 then none else some (n, x)
def Group.tile (g : Group) (n : Nat) : Tile := g.acc.getD n []
def Group.setTile (g : Group) (n : Nat) (t : Tile) : Group := { g with acc := g.acc.set n t }
/-- An FP64 element lies in a pair of tiles, its low half in the even one. -/
def Group.elem (g : Group) (n : Nat) (f64 : Bool) (i j : Nat) : Nat :=
  ((g.tile n).get i j).toNat + (if f64 then ((g.tile (n + 1)).get i j).toNat * 2 ^ 32 else 0)
/-- Elements rewritten by a function of row and column. -/
def Group.mapTile (g : Group) (n : Nat) (f64 : Bool) (f : Nat → Nat → Nat) : Group :=
  let g' := g.setTile n (Tile.ofFn fun i j => nat32 (f i j))
  if f64 then g'.setTile (n + 1) (Tile.ofFn fun i j => nat32 (f i j / 2 ^ 32)) else g'

/-! ## Formats (R316-R318, R327) -/

def matElem (fmt : Nat) : Fmt :=
  match fmt with
  | 0 => fmtE2m1
  | 1 => fmtE2m3
  | 2 => fmtE3m2
  | 3 => fmtE4m3
  | 4 => fmtE5m2
  | 5 => fmtE4m3
  | 6 => fmtE5m2
  | 7 => fmtBf16
  | 8 => fmtF32
  | _ => fmtF64
def matWidth (fmt : Nat) : Nat := (matElem fmt).mag + 1
def matMx (fmt : Nat) : Bool := decide (fmt ≤ 4)
def matAcc (fmt : Nat) : Fmt := if fmt == 9 then fmtF64 else fmtF32
/-- L of R316. -/
def matChunk (fmt : Nat) (tn : Bool) : Nat := if fmt == 9 then 8 else if fmt ≤ 6 then 32 else if tn then 32 else 16
/-- `.lad` (R316). -/
def ladFmt (rung : Nat) : Nat :=
  match rung with
  | 0 => 0
  | 1 => 3
  | 2 => 7
  | 3 => 8
  | _ => 9
/-- SB of R318. -/
def denseBytes (fmt : Nat) (tn : Bool) : Nat :=
  let kb := if tn then 64 else mmaK fmt
  64 * (kb * matWidth fmt / 8) + (if matMx fmt then 2 * kb else 0)
/-- Parts of MMASP's compressed operand (R327). -/
def sparseN (n16 : Bool) : Nat := if n16 then 16 else 32
def sparseCol (fmt : Nat) (n16 : Bool) : Nat := 2 * mmaK fmt / 64 * sparseN n16 * matWidth fmt / 8
def sparseScales (fmt : Nat) : Nat := if matMx fmt then 2 * (2 * mmaK fmt) else 0
def sparseBytes (fmt : Nat) (n16 : Bool) : Nat :=
  64 * sparseCol fmt n16 + sparseScales fmt + 64 * (2 * mmaK fmt / 64) * (3 * sparseN n16 / 4)

/-- The fields of MMA and MMASP (R326, R327). -/
structure MatSpec where
  sparse : Bool
  code : Nat
  acc : Nat
  a : Nat
  off : Nat
  tn : Bool
  q : Nat
  n16 : Bool
  reuse : Bool
  rnd : BitVec 3
def matSpec (sparse : Bool) (o : OpR) (g : Group) : MatSpec :=
  let c := (modsOf o.m).c.toNat
  { sparse := sparse, code := o.d.toNat / 8, acc := o.d.toNat % 8, a := o.a.toNat, off := (g.sr o.b.toNat).toNat, tn := !sparse && bit c 0,
    q := if sparse then 0 else c / 4 % 8, n16 := sparse && bit c 2, reuse := bit c 1, rnd := (modsOf o.m).rnd }
def MatSpec.bytes (q : MatSpec) (fmt : Nat) : Nat := if q.sparse then sparseBytes fmt q.n16 else denseBytes fmt q.tn
def MatSpec.regs (q : MatSpec) (fmt : Nat) : Nat := if q.sparse then mmaspRegs fmt else mmaRegs fmt
/-- The format, or the faults of R316 and R327 for `.lad`. -/
def MatSpec.resolve (q : MatSpec) (i : Instr) (b : Block) (l : Launch) (g : Group) : Except Fail Nat :=
  if q.code != 10 then .ok q.code
  else
    let fmt := ladFmt b.rung
    let word := (instrWord i).toNat
    if !l.lr.ladder || (q.sparse && 1 < b.rung) then .error (mkFail cLADDERFLT 0 1)
    else if (q.tn && 64 / mmaK fmt ≤ q.q) || (fmt == 9 && q.acc % 2 == 1) || 128 < q.a + q.regs fmt then .error (mkFail cILLEGAL 0 word)
    else if g.vallot < q.a + q.regs fmt || (fmt == 9 && l.lr.accs ≤ q.acc + 1) then .error (mkFail cREGRANGE 0 word)
    else .ok fmt
/-- All checks of R326 at issue. -/
def MatSpec.check (q : MatSpec) (i : Instr) (b : Block) (l : Launch) (g : Group) : Except Fail Nat :=
  match q.resolve i b l g with
  | .error f => .error f
  | .ok fmt =>
    if q.off % 16 != 0 then .error (mkFail cMISALIGN (tileEa q.off) 0)
    else if l.lr.tiles < q.off + q.bytes fmt then .error (mkFail cTILELIM (tileEa q.off) 0)
    else .ok fmt
/-- The operands as the completing cycle reads them (R323). -/
def MatSpec.latch (q : MatSpec) (fmt : Nat) (b : Block) (g : Group) : MatrixOp :=
  { sparse := q.sparse, fmt := fmt, tn := q.tn, q := q.q, n16 := q.n16, rnd := q.rnd, tile := q.acc,
    a := (lanesOf g.liveLanes).map fun l => (l, (g.thread l).vList q.a (q.regs fmt)), b := b.tileBytes q.off (q.bytes fmt) }

def execMma (o : OpR) (s : State) : Host.Outcome State Fault Refusal := wholeGroup (.mma o) s
def execMmasp (o : OpR) (s : State) : Host.Outcome State Fault Refusal := wholeGroup (.mmasp o) s

/-! ## Products and chunks (R320, R321) -/

/-- An element with the E8M0 scale of its block, 127 where its format has none. -/
structure MatVal where
  v : FVal
  scale : Nat
  deriving DecidableEq, Repr
/-- A product: its exact value, and whether it is 0 times infinity or holds a signalling NaN. -/
structure Product where
  v : FVal
  iv : Bool
  deriving DecidableEq, Repr

/-- R155: the three parts h, m and l of an FP32 value; infinity and NaN are h alone, converted under R163. -/
def splitBf16 (v : FVal) : FVal × FVal × FVal :=
  match v with
  | .fin n m e =>
    let part (x : Int) : FVal :=
      let p := roundTo fmtBf16 .rtz false { neg := decide (x < 0), m := x.natAbs, e := e, sticky := false }
      if x == 0 then .fin n 0 e else fmtBf16.value p.1
    let units (w : FVal) : Int := match w with
      | .fin k a f => let y : Int := ((a <<< (f - e).toNat : Nat) : Int); let y := if f < e then ((a >>> (e - f).toNat : Nat) : Int) else y
                      if k then -y else y
      | _ => 0
    let x : Int := if n then -(m : Int) else m
    let h := part x
    let m := part (x - units h)
    (h, m, part (x - units h - units m))
  | .inf n => (.inf n, .fin false 0 0, .fin false 0 0)
  | v => (fmtBf16.value (nanInto fmtBf16 v), .fin false 0 0, .fin false 0 0)
/-- The exact value ah*bh + ah*bm + am*bh, in units of the operands' exponents (R320). -/
def tripleProduct (a b : FVal) : FVal :=
  match a, b with
  | .fin n1 _ e1, .fin n2 _ e2 =>
    let x := splitBf16 a
    let y := splitBf16 b
    let mul (u w : FVal) : FVal := match u, w with
      | .fin p m e, .fin q k f => .fin (p != q) (m * k) (e + f)
      | _, _ => .fin false 0 0
    let ts := [mul x.1 y.1, mul x.1 y.2.1, mul x.2.1 y.1]
    let e := min (leastExp ts) (e1 + e2)
    let t := sumAt e ts
    .fin (if t == 0 then n1 != n2 else decide (t < 0)) (t.natAbs >>> (e1 + e2 - e).toNat) (e1 + e2)
  | _, _ => .fin false 0 0
/-- One product, exact; `alter` is what an over-scaled unit does to its significand (R359). -/
def product (fmt : Nat) (alter : Nat → Nat) (a b : MatVal) : Product :=
  if a.scale == 0xFF || b.scale == 0xFF || a.v.isNaN || b.v.isNaN then
    { v := .nan false true 0 0, iv := decide (7 ≤ fmt) && (a.v.isSignalling || b.v.isSignalling) }
  else if zeroTimesInf a.v b.v then { v := .nan false true 0 0, iv := true }
  else if a.v.isInf || b.v.isInf then { v := .inf (a.v.neg != b.v.neg), iv := false }
  else
    let p : FVal :=
      if fmt == 8 then tripleProduct a.v b.v
      else match a.v, b.v with
        | .fin n1 m1 e1, .fin n2 m2 e2 => .fin (n1 != n2) (m1 * m2) (e1 + e2)
        | _, _ => .fin false 0 0
    match p with
    | .fin n m e => { v := .fin n (alter m) (e + a.scale + b.scale - 254), iv := false }
    | x => { v := x, iv := false }

/-- Chunk of R321: bits of t and flags. -/
def chunkSum (f : Fmt) (mode : RMode) (ps : List Product) : Nat × Flags :=
  let pinf := ps.any fun p => p.v.isInf && !p.v.neg
  let ninf := ps.any fun p => p.v.isInf && p.v.neg
  if ps.any (fun p => p.v.isNaN) || (pinf && ninf) then
    (f.canonical, if ps.any (fun p => p.iv) || (pinf && ninf) then fIV else 0)
  else if pinf then (f.infBits false, 0)
  else if ninf then (f.infBits true, 0)
  else roundSum f mode (ps.map Product.v)
/-- Accumulate of R321. -/
def accumulate (f : Fmt) (mode : RMode) (x t : Nat) : Nat × Flags :=
  let r := fpOut2 f fnAdd { faddEnv with mode := mode } Mods.default x t
  (r.bits, r.flags &&& 0x1F)

/-- What one element's chain has come to. -/
structure Chain where
  res : Nat
  flags : Flags
  range : Bool
  cancel : Bool
  skips : Nat
  deriving DecidableEq, Repr
/-- R348: the range test of a chunk. -/
def rangeTest (f : Fmt) (ps : List Product) (res t new : Nat) : Bool :=
  (f.isInf t && !ps.any fun p => p.v.isInf || p.v.isNaN) || (f.isInf new && (f.value res).finite && (f.value t).finite)
/-- R349: the cancellation test. -/
def cancelTest (f : Fmt) (cb res t new : Nat) : Bool :=
  let x := f.value res
  let y := f.value t
  let z := f.value new
  cb != 0 && x.finite && x.nonzero && y.finite && y.nonzero && (z.isZero || (z.finite && decide ((cb : Int) < max x.exp y.exp - z.exp)))
/-- One chunk of one element; none for one that is skipped. -/
def Chain.step (f : Fmt) (mode : RMode) (cb : Nat) (k : Chain) (ps : Option (List Product)) : Chain :=
  match ps with
  | none => { k with skips := k.skips + 1 }
  | some [] => k
  | some (p :: r) =>
    let t := chunkSum f mode (p :: r)
    let n := accumulate f mode k.res t.1
    { k with res := n.1, flags := k.flags ||| t.2 ||| n.2, range := k.range || rangeTest f (p :: r) k.res t.1 n.1
             cancel := k.cancel || cancelTest f cb k.res t.1 n.1 }

/-! ## Operands as elements (R317, R318, R327) -/

/-- n elements of a format packed from the lowest bit on, each with its block's scale. -/
def unpackElems (fmt n x : Nat) (scale : Nat → Nat) : List MatVal :=
  let w := matWidth fmt
  (List.range n).map fun e =>
    { v := (matElem fmt).value (field x (w * e + w - 1) (w * e)), scale := if matMx fmt then scale (e / 32) else 127 }
/-- A lane's fragment of n elements, with its scale register behind them. -/
def fragment (fmt n : Nat) (ws : List Word) : List MatVal :=
  let used := n * matWidth fmt / 32
  unpackElems fmt n (wordsNat (ws.take used)) fun c => (ws.getD used 0).toNat / 2 ^ (8 * c) % 256
/-- Column j of a dense B of kb elements. -/
def denseColumn (fmt kb : Nat) (b : List Byte) (j : Nat) : List MatVal :=
  let cb := kb * matWidth fmt / 8
  unpackElems fmt kb (ofBytes ((b.drop (j * cb)).take cb)) fun c => ((b.getD (64 * cb + j * (kb / 32) + c) 0).toNat)
/-- Group g of column j of a compressed B: each stored value with its position. -/
def sparseGroup (fmt : Nat) (n16 : Bool) (b : List Byte) (j g : Nat) : List (Nat × MatVal) :=
  let kl := 2 * mmaK fmt
  let n := sparseN n16
  let w := matWidth fmt
  let cbs := sparseCol fmt n16
  let vals := unpackElems fmt n (ofBytes ((b.drop (j * cbs + g * (n * w / 8))).take (n * w / 8))) fun _ => 127
  let ib := 3 * n / 4
  let idx := ofBytes ((b.drop (64 * cbs + sparseScales fmt + (j * (kl / 64) + g) * ib)).take ib)
  vals.zipIdx.map fun x =>
    let k := 64 * g + field idx (6 * x.2 + 5) (6 * x.2)
    (k, { x.1 with scale := if matMx fmt then (b.getD (64 * cbs + j * (kl / 32) + k / 32) 0).toNat else 127 })

/-- A list cut into pieces of n; `fuel` bounds how many. -/
def cutInto {α : Type} (fuel n : Nat) (l : List α) : List (List α) :=
  match fuel with
  | 0 => []
  | k + 1 => if l.isEmpty then [] else l.take n :: cutInto k n (l.drop n)
/-- The chunks of pairs of element (i, j), in ascending order; exited lanes are omitted (R319, R320, R327). -/
def MatrixOp.chunks (m : MatrixOp) (i j : Nat) : List (List (MatVal × MatVal)) :=
  let k := mmaK m.fmt
  if m.sparse then
    let a := fragment m.fmt (2 * k) ((assoc m.a i).getD [])
    (List.range (2 * k / 64)).map fun g =>
      (sparseGroup m.fmt m.n16 m.b j g).map fun x => (a.getD x.1 { v := .fin false 0 0, scale := 127 }, x.2)
  else if m.tn then
    let col := denseColumn m.fmt 64 m.b j
    let l := matChunk m.fmt true
    (List.range (64 / l)).map fun c => (m.a.filter fun x => x.1 / l == c).filterMap fun x =>
      match (fragment m.fmt k x.2)[i - m.q * k]?, col[x.1]? with
      | some u, some w => some (u, w)
      | _, _ => none
  else cutInto 64 (matChunk m.fmt false) ((fragment m.fmt k ((assoc m.a i).getD [])).zip (denseColumn m.fmt k m.b j))
/-- The tiles it writes, for the scoreboard (R83). -/
def MatrixOp.tiles (m : MatrixOp) : RegUse := wacc m.tile (if m.fmt == 9 then 2 else 1)
/-- Rows of D that change. -/
def MatrixOp.rows (m : MatrixOp) : List Nat :=
  if m.tn then (List.range (mmaK m.fmt)).map fun e => m.q * mmaK m.fmt + e else m.a.map Prod.fst

/-! ## MATRIX_OP_COMPLETE (R320, R348, R349, R358, R359) -/

/-- E_acc of R358; none where nothing may be skipped. -/
def MatrixOp.accExp (m : MatrixOp) (g : Group) : Option Int :=
  let vs := m.rows.flatMap fun i => (List.range 64).map fun j => (matAcc m.fmt).value (g.elem m.tile (m.fmt == 9) i j)
  if vs.any fun v => !v.finite then none
  else match (vs.filter FVal.nonzero).map FVal.exp with
    | [] => none
    | x :: r => some (r.foldl max x)
/-- Whether a chunk is skipped. -/
def skipChunk (fmt : Nat) (eacc : Int) (skipm : Nat) (ps : List (MatVal × MatVal)) : Bool :=
  !ps.isEmpty && ps.all fun p =>
    p.1.scale != 0xFF && p.2.scale != 0xFF &&
      decide ((p.1.scale : Int) + p.2.scale - 254 + 2 * elemEmax (BitVec.ofNat 4 fmt) + 7 < eacc - skipm)
/-- Product n of an over-scaled unit (R359): bits 1:0 of its significand as the free value has them. -/
def alterBits (n m : Nat) : Nat := if Config.overScaled n then m / 4 * 4 + (Config.relaxedBits n).toNat else m

/-- All elements that change, with their chains. -/
def MatrixOp.run (m : MatrixOp) (b : Block) (l : Launch) (g : Group) (free : Nat) : List (Nat × Chain) :=
  let f := matAcc m.fmt
  let mode := RMode.ofCode (if m.rnd == 0 then 1 else m.rnd.toNat)
  let pol := match l.policy with | some p => (p.skip, p.skipm, p.relax) | none => (false, 0, false)
  let eacc := if b.monitored && pol.1 && !l.lr.det && !m.sparse && matMx m.fmt then m.accExp g else none
  let relaxed := b.monitored && pol.2.2 && !l.lr.det && decide (b.rung ≤ 1)
  let cb := if b.monitored then g.cb else 0
  m.rows.flatMap fun i => (List.range 64).map fun j =>
    let start : Chain := { res := g.elem m.tile (m.fmt == 9) i j, flags := 0, range := false, cancel := false, skips := 0 }
    let one (c : Nat) (ps : List (MatVal × MatVal)) : Option (List Product) :=
      if eacc.any fun e => skipChunk m.fmt e pol.2.1 ps then none
      else some (ps.zipIdx.map fun p =>
        product m.fmt (if relaxed then alterBits (free + (64 * i + j) * 1024 + 64 * c + p.2) else id) p.1.1 p.1.2)
    (64 * i + j, ((m.chunks i j).zipIdx.map fun x => one x.2 x.1).foldl (Chain.step f mode cb) start)
/-- The tile after them, the flags and the counts. CB is the group's as the operation completes, and RCOUNT is counted and tested before
CCOUNT (log 82). -/
def State.matrixDone (s : State) (b : Block) (l : Launch) (g : Group) (m : MatrixOp) : State :=
  let out := m.run b l g s.freeCount
  let wide := m.fmt == 9
  let value (i j : Nat) : Nat := match assoc out (64 * i + j) with
    | some k => k.res
    | none => g.elem m.tile wide i j
  let flags := out.foldl (fun (fl : Flags) x => fl ||| x.2.flags) 0
  let s := s.updGroup b.id g.idx fun g =>
    { g.mapTile m.tile wide value with flights := g.flights.drop 1, mmaflags := g.mmaflags ||| flags.setWidth 5 }
  -- the products' free values (log 10) and the replays of the unit are used up
  let s : State := { s with freeCount := s.freeCount + 64 * 64 * 1024 + 1 }
  let relaxed := match l.policy with | some p => b.monitored && p.relax && !l.lr.det && decide (b.rung ≤ 1) | none => false
  let s := if relaxed then s.updCore b.core fun c => { c with relaxedReplays := c.relaxedReplays + Config.pick s.freeCount } else s
  let s := s.addSkip b.id (out.foldl (fun n x => n + x.2.skips) 0)
  let s := s.addRange b.id (out.countP fun x => x.2.range)
  s.addCancel b.id (out.countP fun x => x.2.cancel)
/-- MATRIX_OP_COMPLETE. -/
def execMatrixOpComplete (s : State) : Host.Outcome State Fault Refusal :=
  runEvent s (match s.subject with
    | .group blk grp =>
      match s.block? blk, s.group? blk grp with
      | some b, some g =>
        match g.flights.head?, s.launch? b.launch with
        | some m, some l => if b.onCore then some (s.matrixDone b l g m) else none
        | _, _ => none
      | _, _ => none
    | _ => none)

/-! ## Accumulator instructions (R328-R333) -/

def execAccz (o : OpR) (s : State) : Host.Outcome State Fault Refusal := wholeGroup (.accz o) s
def execAccld (o : OpR) (s : State) : Host.Outcome State Fault Refusal := wholeGroup (.accld o) s
def execAccst (o : OpR) (s : State) : Host.Outcome State Fault Refusal := wholeGroup (.accst o) s
def execAccrd (o : OpR) (s : State) : Host.Outcome State Fault Refusal := wholeGroup (.accrd o) s
def execAccwr (o : OpR) (s : State) : Host.Outcome State Fault Refusal := wholeGroup (.accwr o) s

/-- R330: the range of ACCLD, or its fault. -/
def accldCheck (o : OpR) (l : Launch) (g : Group) : Except Fail (Nat × Nat) :=
  let off := (g.sr o.a.toNat).toNat
  let st := (g.sr o.b.toNat).toNat
  let es := if o.d.getLsbD 3 then 8 else 4
  if off % 16 != 0 || st % 16 != 0 then .error (mkFail cMISALIGN (tileEa off) 0)
  else if l.lr.tiles < off + 63 * st + 64 * es then .error (mkFail cTILELIM (tileEa off) 0)
  else .ok (off, st)
def accldDone (o : OpR) (b : Block) (off st : Nat) (g : Group) : Group :=
  let f64 := o.d.getLsbD 3
  let es := if f64 then 8 else 4
  g.mapTile (o.d.toNat % 8) f64 fun i j => b.tileNat (off + i * st + j * es) es
/-- R332. -/
def accrdDone (o : OpR) (g : Group) : Group :=
  let f64 := o.a.getLsbD 3
  let n := o.a.toNat % 8
  let q := o.b.toNat
  g.each fun l t =>
    if !t.live then t
    else if f64 then t.setList o.d.toNat ((List.range 8).flatMap fun e =>
      let x := g.elem n true l (8 * q + e)
      [nat32 x, nat32 (x / 2 ^ 32)])
    else t.setList o.d.toNat ((List.range 16).map fun e => (g.tile n).get l (16 * q + e))
def accwrDone (o : OpR) (g : Group) : Group :=
  let f64 := o.d.getLsbD 3
  let n := o.d.toNat % 8
  let q := o.b.toNat
  let wide := if f64 then 8 else 16
  g.mapTile n f64 fun i j =>
    let t := g.thread i
    if t.live && j / wide == q then
      let e := j % wide
      if f64 then (t.vPair (o.a.toNat + 2 * e)).toNat else (t.vr (o.a.toNat + e)).toNat
    else g.elem n f64 i j

/-- The destination formats of ACCST (R331). -/
def accstFmt (dt : Nat) : Fmt :=
  match dt with
  | 0 => fmtF32
  | 1 => fmtF16
  | 2 => fmtBf16
  | 3 => fmtE4m3
  | 4 => fmtE5m2
  | _ => fmtF64
/-- One element converted: bits and flags. -/
def accstElem (f : Fmt) (m : Mods) (src : Fmt) (x : Nat) : Nat × Flags :=
  let env := { faddEnv with mode := RMode.ofCode (if m.rnd == 0 then 1 else m.rnd.toNat), sat := m.sat, scale := m.scale.toInt }
  match src.value x with
  | .nan .. => (f.canonical, 0)
  | .inf n => ((fpFinish f env [] 0 false (.inf n)).bits, 0)
  | .fin n k e =>
    let r := fpFinish f env [] 0 false (if k == 0 then .zero n else .real { neg := n, m := k, e := e, sticky := false })
    (r.bits, r.flags)
/-- Row i as ACCST stores it, with the flags its elements raise. -/
def accstRow (o : OpR) (g : Group) (i : Nat) : List Byte × Flags :=
  let f := accstFmt (o.d.toNat / 16)
  let f64 := o.d.getLsbD 3
  let xs := (List.range 64).map fun j => accstElem f (modsOf o.m) (if f64 then fmtF64 else fmtF32) (g.elem (o.d.toNat % 8) f64 i j)
  (xs.flatMap fun x => bytesLE ((f.mag + 1) / 8) x.1, xs.foldl (fun fl x => fl ||| x.2) 0)
/-- A member's row and its checks (R331); an address that breaks R190 takes R190's own detail before detail 6 (log 82). -/
def State.accstAddr (s : State) (c : Sel) (o : OpR) (lane : Nat) : Except Fail Nat :=
  let ed := ((accstFmt (o.d.toNat / 16)).mag + 1) / 8
  let a := (c.g.sPair o.a.toNat).toNat
  let st := (c.g.sr o.b.toNat).toNat
  let ea := normEa s.dev (a + lane * st)
  match spaceFault s.podSize ea with
  | some d => .error (mkFail cADDRSPACE ea d)
  | none =>
    if !isLocal s.dev ea && eaSpace ea != 3 then .error (mkFail cADDRSPACE ea 6)
    else if a % ed != 0 || st % ed != 0 then .error (mkFail cMISALIGN ea 0)
    else match s.checkAccess c ea (64 * ed) 1 true with
      | some f => .error f
      | none => .ok ea
/-- ACCST once its wait is complete: each member's row is stored as its ST would be. Members that find no room stay (`State.wholly`). -/
def State.accstDone (s : State) (c : Sel) (w : MemberWait) (o : OpR) : State :=
  let ed := ((accstFmt (o.d.toNat / 16)).mag + 1) / 8
  let addrs := c.lanes.map fun l => (l, s.accstAddr c o l)
  let len := Instr.len w.instr
  let s := s.updGroup c.blk c.grp fun g => { g.refuseWait w.arrived with waits := g.waits.filter fun x => x != w }
  let t := c.store s w.instr { size := 64 * ed, byp := false, stream := false } (fun l => (accstRow o c.g l).1) addrs
  -- the members that stored: their flags, and the region entry behind the instruction (R322)
  let past (l : Nat) (x : Thread) : Bool := w.arrived.getLsbD l && x.pc == w.pc + BitVec.ofNat 64 len && x.trap == (c.thread l).trap
  t.updGroup c.blk c.grp fun g =>
    let fl := (List.range 64).foldl (fun (fl : Flags) l => if past l (g.thread l) then fl ||| (accstRow o c.g l).2 else fl) 0
    { g.each fun l x => if past l x then x.setRegion x.pc else x with mmaflags := g.mmaflags ||| fl.setWidth 5 }
/-- A complete ACCST some member of which finds no free shadow line (R331, R360). -/
def State.accstStalls (s : State) (b : Block) (g : Group) (w : MemberWait) : Bool :=
  match w.instr, s.waitSel b.id g.idx w with
  | .accst o, some c =>
    let t := s.accstDone c w o
    w.complete && (lanesOf w.arrived).any fun l => (t.thread? b.id g.idx l).any fun x => x.st == .waiting .shadow
  | _, _ => false

/-- MMAFLG (R333): it waits for the group's MMA or MMASP in flight. -/
def execMmaflg (o : OpR) (s : State) : Host.Outcome State Fault Refusal :=
  runSet (.mmaflg o) s fun c =>
    match c.guarded (.mmaflg o) with
    | [] => c.advanceAll s (.mmaflg o)
    | l :: r =>
      if !c.g.flights.isEmpty then c.hold s
      else
        let b := operandB c.g (c.thread l) o.bk o.b
        let old : Word := c.g.mmaflags.setWidth 32
        c.advanceAll (s.updGroup c.blk c.grp fun g =>
          { g.each fun k t => if (l :: r).contains k then t.setV o.d.toNat old else t with
            mmaflags := g.mmaflags &&& ~~~(b.setWidth 5) }) (.mmaflg o)

end Sys2Proof.Machine
end

