-- ==== Sys2Proof/Machine/Ladder.lean ====
section
/-! DEFINITION. The precision ladder: MONSET, TRXCHK, TRXESC, the abort and the commit of an attempt, and the shadow pool's stall (spec 11
R340-R365; 07 R239-R241; 08 R270). -/

namespace Sys2Proof.Machine

open Sys2Proof

/-! ## MONSET, TRXCHK, TRXESC (R361-R364) -/

/-- The three instructions outside LADDER (R361). -/
def Sel.ladderOnly (c : Sel) (s : State) (i : Instr) (f : List Nat → State) : State :=
  match c.guarded i with
  | [] => c.advanceAll s i
  | l :: r =>
    if !c.l.lr.ladder then c.raiseEach (c.advanceBut s i fun x => (l :: r).contains x) (l :: r) (mkFail cLADDERFLT 0 3)
    else f (l :: r)
/-- A threshold only tightens (R362). -/
def tighten (cur x : Nat) : Nat := if cur == 0 || x < cur then x else cur

def execMonset (o : OpR) (s : State) : Host.Outcome State Fault Refusal :=
  runSet (.monset o) s fun c => c.ladderOnly s (.monset o) fun ls =>
    let x := (operandB c.g (c.thread (ls.headD 0)) o.bk o.b).toNat
    let s := c.advanceAll s (.monset o)
    if !c.b.monitored then s
    else if o.d == 0 then
      (if x == 0 then s else s.updBlock c.blk fun b => { b with thr := tighten b.thr x }).tripTest c.blk
    else
      (if x == 0 || 63 < x then s else s.updGroup c.blk c.grp fun g => { g with cb := tighten g.cb x }).tripTest c.blk

def execTrxchk (o : OpR) (s : State) : Host.Outcome State Fault Refusal :=
  runSet (.trxchk o) s fun c => c.ladderOnly s (.trxchk o) fun ls =>
    if !c.g.flights.isEmpty then c.hold s
    else
      let b := c.b
      let count := match o.b.toNat with | 1 => b.rcount | 2 => b.ccount | _ => b.skcount
      let x := if b.monitored then count else 0
      let one (l : Nat) (t : Thread) : Thread :=
        if !ls.contains l then t
        else if o.b == 0 then t.setP (o.d.toNat % 8) (b.monitored && b.doomed.isSome)
        else t.setV o.d.toNat (nat32 x)
      c.advanceAll (s.updGroup c.blk c.grp fun g => g.each one) (.trxchk o)

def execTrxesc (o : OpZ) (s : State) : Host.Outcome State Fault Refusal :=
  runSet (.trxesc o) s fun c => c.ladderOnly s (.trxesc o) fun _ =>
    (c.advanceAll s (.trxesc o)).doom c.blk (if (modsOf o.m).c.getLsbD 0 then .ceiling else .escalation)

/-! ## The abort (R352, R360) -/

/-- Steps 2 to 5 of R352: the block is queued again at a rung, with nothing of the attempt left but its weight, its ticket and its
owner ranges as first read. -/
def State.abortTo (s : State) (b : Block) (rung : Nat) : State :=
  let s := s.updCore b.core fun c =>
    { c with ops := c.ops.filter fun o => o.blk != b.id
             buffers := c.buffers.filter fun e => e.blk != b.id
             stores := c.stores.filter fun e => e.blk != b.id }
  let s : State := { s with signatures := s.signatures.filter fun x => x.blk != b.id }
  s.updBlock b.id fun b =>
    { b with st := .queued, rung := rung, doomed := none, groups := [], tile := [], drawn := 0, shadow := [], deferred := [], joins := [], images := [],
             bars := [], owners := b.ownersKept, records := [], rcount := 0, ccount := 0, skcount := 0 }
/-- The rung after an attempt (R352). -/
def nextRung (l : Launch) (b : Block) (cause : TripCause) : Nat :=
  let ceil := match l.policy with | some p => p.ceil | none => b.rung
  match cause with
  | .exhaustion => ceil
  | .ceiling => ceil
  | _ => min (b.rung + 1) ceil
/-- LADDER_ABORT. -/
def execLadderAbort (s : State) : Host.Outcome State Fault Refusal :=
  runEvent s (match s.subject with
    | .block blk =>
      match s.block? blk with
      | some b =>
        match b.doomed, s.launch? b.launch with
        | some cause, some l => if b.st == .resident then some (s.abortTo b (nextRung l b cause)) else none
        | _, _ => none
      | none => none
    | _ => none)

/-- An engine operation of a block has a write left for which the pool has no line, its arrival included. -/
def State.opStalled (s : State) (b : Block) (l : Launch) (o : EngOp) : Bool :=
  let tile (a n : Nat) : List Nat := if isTile a then (spansOf (eaOff a) n).map fun x => 128 * x else []
  let done := if isTile o.done.toNat then [eaOff o.done.toNat] else []
  let units := o.remaining.map fun u => (((o.spans b u).filter fun x => isTile (128 * x)).map fun x => eaOff (128 * x), ([] : List Nat))
  let elems := (match o.trav with | some t => t.writes | none => []).map fun (w : Nat × List Byte) =>
    (tile w.1 w.2.length, if isTile w.1 then [] else [w.1 / 128])
  (units ++ elems).any fun x => s.shadowRoom b l (b.newShadow (x.1 ++ done) + b.newDeferred x.2) == .stall
/-- A thread of the block, or an engine operation for it, is stalled for want of a shadow line. -/
def State.stalledBlock (s : State) (b : Block) : Bool :=
  (b.groups.any fun g => g.threads.any fun t => match t.st with
    | .waiting .shadow | .waiting (.issued _ _ true) => true
    | _ => false) ||
  (b.groups.any fun g => g.waits.any fun w => s.accstStalls b g w) ||
  match s.launch? b.launch with
  | some l => (s.core b.core).ops.any fun o => o.blk == b.id && s.opStalled b l o
  | none => false
/-- SHADOW_STALL_RESOLVE (R360): once every holder of lines is stalled, the most recently dispatched of them runs again at its rung, or at
CEIL where it holds the pool with the lines that its stalled write has drawn or would draw. Its operations stop with the attempt (R298: no
rule names another unsatisfiable ladder state; log 84). -/
def execShadowStallResolve (s : State) : Host.Outcome State Fault Refusal :=
  runEvent s (match s.subject with
    | .core core =>
      let holders := (s.blocksOn core).filter fun b => b.monitored && decide (0 < b.shadowLines)
      match holders with
      | [] => none
      | b :: r =>
        if (b :: r).all fun b => b.st == .resident && b.doomed.isNone && s.stalledBlock b then
          let v := r.foldl (fun m x => if m.dispatched < x.dispatched then x else m) b
          match s.launch? v.launch with
          | some l =>
            let rung := if 4096 ≤ v.shadowLines + s.shadowFree core then nextRung l v .exhaustion else v.rung
            some ((s.doom v.id .exhaustion).abortTo v rung)
          | none => none
        else none
    | _ => none)

/-! ## The commit (R345) -/

/-- A line the commit writes: its number, the right it needs, and its lowest byte written. -/
structure CommitLine where
  line : Nat
  right : Right
  low : Nat
def Block.commitLines (b : Block) : List CommitLine :=
  ((b.deferred.filter fun d => !d.2.isEmpty).map fun d => { line := d.1, right := .wr, low := 128 * d.1 + d.2.foldl (fun m x => min m x.1) 127 }) ++
  (b.images.map fun im =>
    let i := im.elems.findIdx fun e => e.con
    { line := im.line, right := .atomic, low := 128 * im.line + min i (im.type.elems - 1) * im.type.bytes })
/-- Where a line of the commit goes; none where its bytes are discarded. -/
def answerPlace (a : Answer) : Option Place :=
  match a with
  | .served p _ _ _ _ => some p
  | .direct p _ => some p
  | _ => none
/-- Step 1 of R345: the first page that is missing, requested, or none where the commit only waits; `.inr` where it may go on. -/
def State.commitStop (s : State) (r : Req) (queue : Nat) (xs : List CommitLine) : Option (Option State) :=
  let answers := xs.map fun x => s.answer r x.right (128 * x.line) 128
  match answers.find? fun a => match a with | .absent _ => true | _ => false with
  | some (.absent k) => some (some (s.requestPage k r.part queue))
  | _ => if answers.any fun a => match a with | .filling _ => true | .noPort => true | _ => false then some none else none
/-- The events that some lines' rejected entries call for (R257). -/
def State.tableErrors (s : State) (r : Req) (queue : Nat) (xs : List CommitLine) : State :=
  xs.foldl (fun s x => match s.answer r x.right (128 * x.line) 128 with
    | .rejected k => s.tableError k r.part queue
    | _ => s) s
/-- The commit event C and what follows it: the fault event, the writes after everything the core wrote before (R241), the Gazetteer,
COMMIT, the ticket and the weight (log 46). -/
def State.commit (s : State) (b : Block) (l : Launch) : State :=
  let r := reqOf l b.core
  let place (x : CommitLine) : Option Place := answerPlace (s.answer r x.right (128 * x.line) 128)
  let xs := b.commitLines
  let bad := xs.filter fun x => (place x).isNone
  let s0 := match bad with
    | [] => s
    | x :: rest =>
      let low := rest.foldl (fun m (y : CommitLine) => min m y.low) x.low
      ((s.tableErrors r l.queue bad).log evCOMMITFAULT l.part l.queue (nat32 b.blkidx) (BitVec.ofNat 64 low)).raiseStatus l.id 6
  let s1 := b.deferred.foldl (fun t d => match place { line := d.1, right := .wr, low := 0 } with
    | some p => (t.yieldLine b.core r { ctx := l.ctx, line := d.1 }).homeWrite r (128 * d.1) p d.2
    | none => t) (s0.settleCore b.core r)
  let s2 := b.images.foldl (fun t im => match place { line := im.line, right := .atomic, low := 0 } with
    | some p => t.sendImage b.core l.part { im with place := p.line }
    | none => t) s1
  let s3 := s2.updBlock b.id fun b =>
    { b with tile := b.shadow.foldl (fun (m : Mem) (x : Nat × List Byte) => m.writeBytes (128 * x.1) x.2) b.tile, drawn := 0, shadow := [], deferred := [], images := [] }
  let s4 := (s3.gazUpdate l b).log evCOMMIT l.part l.queue (nat32 b.blkidx) (rungArg b.rung b.skcount)
  let s5 := (s4.updLaunch l.id fun l => l.passOnce b.blkidx b.seen).returnWeight l.id b.weight
  s5.updBlock b.id fun b => { b with st := .ended, weight := 0 }
/-- LADDER_COMMIT. -/
def execLadderCommit (s : State) : Host.Outcome State Fault Refusal :=
  runEvent s (match s.subject with
    | .block blk =>
      match s.block? blk with
      | some b =>
        match s.launch? b.launch with
        | some l =>
          if b.st == .committing then
            match s.commitStop (reqOf l b.core) l.queue b.commitLines with
            | some t => t
            | none => some (s.commit b l)
          else none
        | none => none
      | none => none
    | _ => none)

end Sys2Proof.Machine
end

