-- ==== Sys2Proof/Machine/Barriers.lean ====
section
/-! DEFINITION. Barriers, tickets, returned weight, MWAIT and owner ranges (spec 13 R382-R398, R409, R412, R413). -/

namespace Sys2Proof.Machine

open Sys2Proof

/-! ## Barrier operands and XBLOCK (R382, R389) -/

def barNum (a : RegNum) : Nat := a.toNat % 16
def barScope (a : RegNum) : Nat := a.toNat / 16
/-- A partition lies in more than one instance of .quad or .die (R389). -/
def Partition.spans (p : Partition) (scope : Nat) : Bool :=
  let quads := (List.range 48).filter fun q => p.quads.getLsbD q
  if scope == 2 then decide (1 < quads.length)
  else if scope == 3 then decide (1 < (quads.map fun q => q / 12).eraseDups.length)
  else false
/-- The XBLOCK causes of R389, in the order of the table; a BARINIT needs no binding. -/
def State.barFail (s : State) (b : Block) (l : Launch) (scope num : Nat) (bound : Bool) : Option Fail :=
  if scope < 2 then none
  else if b.monitored then some (xblock 1)
  else if l.lr.det then some (xblock 2)
  else if !l.lr.coop then some (xblock 3)
  else if (s.part? l.part).any fun p => p.spans scope then some (xblock 4)
  else if bound && scope == 5 && ((findBar l.bars 5 num).bind Barrier.comm).isNone then some (xblock 5)
  else none
/-- An instruction of the set that its guard-true threads may not run. -/
def Sel.refuseAll (c : Sel) (s : State) (i : Instr) (ls : List Nat) (f : Fail) : State :=
  c.raiseEach (c.advanceBut s i fun x => ls.contains x) ls f

/-! ## BARINIT (R384) -/

/-- LR.groups of a member's launch. -/
def State.memberGroups (s : State) (m : Member) : Nat :=
  if m.dev == s.dev then (match s.launch? m.launch with | some l => l.lr.groups | none => 0) else Config.remoteGroups m.dev m.launch
/-- The default of EXPECT. -/
def State.barDefault (s : State) (l : Launch) (scope : Nat) (comm : Option Comm) : Nat :=
  match comm with
  | some k => (k.members.map s.memberGroups).sum
  | none => if scope == 1 then l.lr.groups else l.lr.blocks * l.lr.groups
/-- BARINIT.pod: the object is bound, and made where no member has yet. -/
def State.bindBar (s : State) (l : Launch) (num : Nat) (k : Comm) : State :=
  let x : Barrier := { Barrier.new 5 num (s.barDefault l 5 (some k)) with comm := some k.number }
  let s := s.updLaunch l.id fun l => { l with bars := putBar l.bars x }
  if s.podBars.any fun p => p.part == l.part && p.comm == k.number && p.bar.num == num then s
  else { s with podBars := s.podBars ++ [{ part := l.part, comm := k.number, bar := x }] }
def execBarinit (o : OpR) (s : State) : Host.Outcome State Fault Refusal :=
  runSet (.barinit o) s fun c =>
    match c.guarded (.barinit o) with
    | [] => c.advanceAll s (.barinit o)
    | l :: r =>
      let scope := barScope o.a
      let num := barNum o.a
      let n := (operandB c.g (c.thread l) o.bk o.b).toNat
      match s.barFail c.b c.l scope num false with
      | some f => c.refuseAll s (.barinit o) (l :: r) f
      | none =>
        if scope == 5 then
          match (s.comm? c.l.part (n % 65536)).filter fun k => k.scope == 5 && (k.rank? s.dev c.l.id c.b.blkidx).isSome with
          | none => c.refuseAll s (.barinit o) (l :: r) (engFlt 3 0)
          | some k => c.advanceAll ((s.bindBar c.l num k).testBar c.blk 5 num) (.barinit o)
        else
          match s.bar? c.blk scope num with
          | none => c.advanceAll s (.barinit o)
          | some x =>
            let x := { x with expect := if n == 0 then s.barDefault c.l scope none else n }
            c.advanceAll ((s.setBar c.blk x).testBar c.blk scope num) (.barinit o)

/-! ## BARARR, BAR and the arrival (R385, R386) -/

def execBararr (o : OpR) (s : State) : Host.Outcome State Fault Refusal := wholeGroup (.bararr o) s
def execBar (o : OpR) (s : State) : Host.Outcome State Fault Refusal := wholeGroup (.bar o) s

/-- A thread that waits for the group's previous phase is taken out (R444): the others wait for it at the instruction again. -/
def Group.withdraw (g : Group) (lane : Nat) : Group :=
  match g.arrival with
  | none => g
  | some a =>
    let others := laneSet ((List.range 64).filter fun k => k != lane && (g.thread k).st == .waiting .arrive)
    let w := { a.wait with snapshot := g.liveLanes, arrived := others, guarded := a.wait.guarded &&& others }
    { g.each fun k t => if others.getLsbD k then t.setState .member else t with
      arrival := none, waits := if others == 0 then g.waits else g.waits ++ [w] }
/-- Every live thread has arrived at the instruction: the group waits for its previous phase (R386), or its members fault (R389) (log 51). -/
def State.barStart (s : State) (b : Block) (l : Launch) (grp : Nat) (w : MemberWait) (a : RegNum) (sd : Option Nat) : State :=
  match s.barFail b l (barScope a) (barNum a) true with
  | some f => s.failWait b.id grp w f
  | none =>
    let len := Instr.len w.instr
    s.updGroup b.id grp fun g =>
      { g.each fun k t => if w.arrived.getLsbD k then { t with st := .waiting .arrive, region := w.pc } else t with
        waits := g.waits.filter fun x => x != w
        arrival := some { scope := barScope a, num := barNum a, sd := sd, len := len, wait := w } }
/-- After the arrival: BARARR's threads run on, BAR's wait for the phase. -/
def Thread.arrived (t : Thread) (a : Arrival) (phase : BitVec 16) : Thread :=
  match t.st with
  | .waiting .arrive =>
    if a.sd.isSome then (t.setState .runnable).pass a.len
    else { t with st := .waiting (.barrier a.scope a.num phase true a.len), region := t.pc + BitVec.ofNat 64 a.len }
  | _ => t
/-- BARRIER_ARRIVE: once the group's previous phase is complete and its threads' stores allow the release (R386, R388) (log 15); a halted group
has not arrived (R385, R459). -/
def execBarrierArrive (s : State) : Host.Outcome State Fault Refusal :=
  runEvent s (match s.subject with
    | .group blk grp =>
      match s.block? blk, s.group? blk grp with
      | some b, some g =>
        match g.arrival, s.launch? b.launch with
        | some a, some l =>
          match s.bar? blk a.scope a.num with
          | some x =>
            let ready := (lanesOf g.liveLanes).all fun k => (s.core b.core).releasable blk grp k
            if b.running && !g.halted && g.aphOf a.scope a.num == x.phase && ready then
              let s := (s.releaseNow b.core blk (reqOf l b.core) a.scope).arriveBar blk grp a.scope a.num
              let phase := x.phase + 1
              some (s.updGroup blk grp fun g =>
                let g := { g.each fun _ t => t.arrived a phase with arrival := none }
                match a.sd with
                | some n => g.setS n (phase.setWidth 32)
                | none => g)
            else none
          | none => none
        | _, _ => none
      | _, _ => none
    | _ => none)

/-! ## BARWAIT (R387, R388) -/

def execBarwait (o : OpR) (s : State) : Host.Outcome State Fault Refusal :=
  runSet (.barwait o) s fun c =>
    match s.barFail c.b c.l (barScope o.a) (barNum o.a) true with
    | some f => let ls := c.guarded (.barwait o); if ls.isEmpty then c.advanceAll s (.barwait o) else c.refuseAll s (.barwait o) ls f
    | none =>
      -- the PC stays at the waiting instruction: its completion moves past it
      c.apply s (c.laneStep (.barwait o) fun _ t =>
        .done { t with st := .waiting (.barrier (barScope o.a) (barNum o.a) ((operandB c.g t o.bk o.b).setWidth 16) false (Instr.len (.barwait o))) })
/-- What an awaited phase orders before the waiting group (R409). -/
def Group.learn (g : Group) (known : List (Nat × Nat × Nat)) : Group :=
  ({ g with known := known.foldl addSeen g.known } : Group).nextInterval
/-- BARWAIT_COMPLETE: an acquire at the barrier's scope. -/
def execBarwaitComplete (s : State) : Host.Outcome State Fault Refusal :=
  runEvent s (match s.subject with
    | .lane blk grp lane =>
      match s.block? blk, s.thread? blk grp lane with
      | some b, some t =>
        match t.st, s.launch? b.launch with
        | .waiting (.barrier scope num phase _ len), some l =>
          match s.bar? blk scope num with
          | some x =>
            if b.running && genReached x.phase phase then
              let s := s.updThread blk grp lane fun t => t.endWait len
              let seen := (x.known.filter fun k => genReached phase (BitVec.ofNat 16 k.1)).map Prod.snd
              let s := if scope == 1 then s.updGroup blk grp fun g => g.learn seen else s
              some ((s.acquireActs b.core (reqOf l b.core) scope).settle blk grp lane)
            else none
          | none => none
        | _, _ => none
      | _, _ => none
    | _ => none)

/-! ## Tickets (R390, R391) -/

def execTkpass (o : OpR) (s : State) : Host.Outcome State Fault Refusal :=
  runChecked (.tkpass o) s (fun c _ => if c.b.monitored then some (xblock 1) else none) fun c s =>
    match c.guarded (.tkpass o) with
    | [] => c.passAll s (.tkpass o)
    | l :: r =>
      if c.b.monitored then c.refuseAll s (.tkpass o) (l :: r) (xblock 1)
      else if !c.releasable s (l :: r) then c.hold s
      else
        let s := s.releaseNow c.b.core c.blk c.req 4
        let s := s.updLaunch c.l.id fun l => l.passOnce c.b.blkidx (c.g.seen c.blk)
        c.passAll (s.updGroup c.blk c.grp Group.nextInterval) (.tkpass o)
def execTkwait (o : OpR) (s : State) : Host.Outcome State Fault Refusal :=
  runSet (.tkwait o) s fun c =>
    let ls := c.guarded (.tkwait o)
    if c.b.monitored && !ls.isEmpty then c.refuseAll s (.tkwait o) ls (xblock 1)
    else c.apply s (c.laneStep (.tkwait o) fun _ t =>
      .done { t with st := .waiting (.ticket (o.d.toNat % 8) (operandB c.g t o.bk o.b) (Instr.len (.tkwait o))) })
/-- i32 (COUNTER - n) is at least 0. -/
def ticketReached (counter : Nat) (n : Word) : Bool := !(nat32 counter - n).getLsbD 31
/-- TKWAIT_COMPLETE: an acquire at .pkg, and the void bit of ticket n - 1. -/
def execTkwaitComplete (s : State) : Host.Outcome State Fault Refusal :=
  runEvent s (match s.subject with
    | .lane blk grp lane =>
      match s.block? blk, s.thread? blk grp lane with
      | some b, some t =>
        match t.st, s.launch? b.launch with
        | .waiting (.ticket pd n len), some l =>
          if b.running && ticketReached l.counter n then
            let void := 1 ≤ n.toNat && n.toNat ≤ l.lr.blocks && l.passed.any fun p => p.1 + 1 == n.toNat && p.2
            let s := s.updThread blk grp lane fun t => (t.setP pd void).endWait len
            let seen := (l.ticketKnown.filter fun k => decide (k.1 < n.toNat)).map Prod.snd
            let s := s.updGroup blk grp fun g => g.learn seen
            some ((s.acquireActs b.core (reqOf l b.core) 4).settle blk grp lane)
          else none
        | _, _ => none
      | _, _ => none
    | _ => none)

/-! ## WRET (R396) -/

def execWret (o : OpR) (s : State) : Host.Outcome State Fault Refusal :=
  runChecked (.wret o) s (fun c _ => if c.b.monitored then some (xblock 1) else none) fun c s =>
    match c.guarded (.wret o) with
    | [] => c.passAll s (.wret o)
    | l :: r =>
      if c.b.monitored then c.refuseAll s (.wret o) (l :: r) (xblock 1)
      else if !c.releasable s (l :: r) then c.hold s
      else
        let n := min (operandB c.g (c.thread l) o.bk o.b).toNat c.b.weight
        let s := s.releaseNow c.b.core c.blk c.req 4
        let s := (s.updBlock c.blk fun b => { b with weight := b.weight - n }).returnWeight c.l.id n
        c.passAll s (.wret o)

/-! ## MWAIT (R398) -/

def State.checkMwait (s : State) (c : Sel) (ea n : Nat) : Option Fail :=
  match spaceFault s.podSize ea with
  | some d => some (mkFail cADDRSPACE ea d)
  | none =>
    if !isLocal s.dev ea then some (mkFail cADDRSPACE ea 6)
    else if ea % n != 0 then some (mkFail cMISALIGN ea 0)
    else if c.b.monitored then some (xblock 1)
    else if c.l.lr.det then some (xblock 2)
    else none
/-- The words a satisfied MWAIT writes. -/
def Thread.mwaitDone (t : Thread) (vd : Nat) (wide : Bool) (x : Nat) : Thread :=
  if wide then t.setPair vd (BitVec.ofNat 64 x) else t.setV vd (nat32 x)
/-- A line as memory holds it at its home, contributions that no read has resolved not among its bytes (R400). -/
def State.lineAtHome (s : State) (r : Req) (ea : Nat) : List Byte :=
  match answerPlace (s.answer r .rd (ea / 128 * 128) 128) with
  | some p => s.placeRead p.line 128
  | none => []
def execMwait (o : OpR) (s : State) : Host.Outcome State Fault Refusal :=
  runSet (.mwait o) s fun c =>
    let cf := (modsOf o.m).c
    let wide := cf.getLsbD 3
    let n := if wide then 8 else 4
    let scope := cf.toNat % 8
    let len := Instr.len (.mwait o)
    let addrs := (c.guarded (.mwait o)).map fun l =>
      let ea := normEa s.dev ((c.thread l).vPair o.a.toNat).toNat
      (l, match s.checkMwait c ea n with | some f => Except.error f | none => .ok ea)
    let ok := (splitLanes addrs).1
    let behind := ok.any fun x => c.g.loads.any fun l => !l.prefetch && l.lanes.any fun y =>
      y.lane == x.1 && y.lines.contains (x.2 / 128)
    if s.heldRequest c.req (ok.map Prod.snd) then c.full s
    else if behind then c.hold s
    else
      let want (t : Thread) : Nat := if wide then (pairB c.g t o.bk o.b).toNat else (operandB c.g t o.bk o.b).toNat
      c.sync s (.mwait o) false addrs [] fun s l ea =>
        match s.acquireRead c l ea n 4 with
        | (s, .inl out) => (s, out)
        | (s, .inr x) =>
          if x == want (c.thread l) then
            (s, .done fun t => { t with
              st := .waiting (.mwait o.d.toNat (BitVec.ofNat 64 ea) wide (BitVec.ofNat 64 x) scope len (s.lineAtHome c.req ea))
              pc := t.pc - BitVec.ofNat 64 len })
          else (s.acquireActs c.b.core c.req scope, .done fun t => t.mwaitDone o.d.toNat wide x)
/-- A waiting MWAIT reads its word again, once a write to the line has been performed at its home or its block has been re-admitted: it is over
where the word differs, and waits on else. A throttled partition's read is held but at re-admission (R279, R426). -/
def State.wakeMwait (s : State) (b : Block) (l : Launch) (grp lane : Nat) (again : Bool) (w : WaitOn) : Option State :=
  match w with
  | .mwait vd a wide value scope len home =>
    let ea := a.toNat
    let n := if wide then 8 else 4
    let r := reqOf l b.core
    let own := (List.range n).map fun i => (s.core b.core).ownByte b.id grp lane (s.core b.core).nextReq (ea + i)
    let offs := (List.range n).map fun i => ea % 128 + i
    let wake (p : Place) : Option State :=
      let (s, byte) := s.readNow b.core r { ctx := l.ctx, line := ea / 128 } p offs
      let x := ofBytes ((own.zip offs).map fun y => y.1.getD (byte y.2))
      if x == value.toNat then
        some (s.updThread b.id grp lane fun t => t.setState (.waiting (.mwait vd a wide value scope len (s.placeRead p.line 128))))
      else some (((s.updThread b.id grp lane fun t => (t.mwaitDone vd wide x).endWait len).acquireActs b.core r scope).settle b.id grp lane)
    if !b.running || (!again && (s.lineAtHome r ea == home || s.heldRequest r [ea])) then none
    else match s.answer r .rd (ea / 128 * 128) 128 with
    | .served p _ _ _ _ => wake p
    | .direct p _ => wake p
    | _ => none
  | _ => none
/-- MWAIT_WAKE: a write to the line has been performed at its home. -/
def execMwaitWake (s : State) : Host.Outcome State Fault Refusal :=
  runEvent s (match s.subject with
    | .lane blk grp lane =>
      match s.block? blk, s.thread? blk grp lane with
      | some b, some t =>
        match t.st, s.launch? b.launch with
        | .waiting w, some l => s.wakeMwait b l grp lane false w
        | _, _ => none
      | _, _ => none
    | _ => none)

/-! ## OWNSET (R413) -/

def execOwnset (o : OpR) (s : State) : Host.Outcome State Fault Refusal :=
  runSet (.ownset o) s fun c =>
    match c.guarded (.ownset o) with
    | [] => c.advanceAll s (.ownset o)
    | l :: r =>
      if !c.l.lr.own then c.refuseAll s (.ownset o) (l :: r) (mkFail cOWNFLT 0 2)
      else
        let range := (normEa s.dev (c.g.sPair o.a.toNat).toNat, (c.g.sPair (o.a.toNat + 2)).toNat)
        c.advanceAll (s.updBlock c.blk fun b => { b with owners := b.owners.set (o.d.toNat % 4) range }) (.ownset o)

end Sys2Proof.Machine
end

