-- ==== Sys2Proof/Machine/Reductions.lean ====
section
/-! DEFINITION. Exact reductions, update units and replica pairs: RED, REDFL, REDARM, the firing of a line (spec 13 R399-R407, R414). -/

namespace Sys2Proof.Machine

open Sys2Proof

/-! ## RED (R401) -/

def redType (d : RegNum) : RedType :=
  match d.toNat % 4 with
  | 0 => .b32
  | 1 => .b64
  | 2 => .f32
  | _ => .f64
def State.checkRed (s : State) (c : Sel) (ea n : Nat) : Option Fail :=
  match spaceFault s.podSize ea with
  | some d => some (mkFail cADDRSPACE ea d)
  | none =>
    if !isLocal s.dev ea then some (mkFail cADDRSPACE ea 6)
    else if ea % n != 0 then some (mkFail cMISALIGN ea 0)
    else if c.l.lr.own && !c.b.owns ea n then some (mkFail cOWNFLT ea 1)
    else none
/-- Two partial images of one line and type. -/
def Image.plus (a b : Image) : Image :=
  { a with elems := a.elems.zipWith (fun x y => x.add a.type y) b.elems, count := a.count + b.count }
/-- The home of a line for a reduction, where the check is answered with one. -/
def State.redPlace (s : State) (r : Req) (line : Nat) : Option Place :=
  match s.answer r .atomic (128 * line) 128 with
  | .served p _ _ _ _ => some p.line
  | _ => none
/-- The contributions of a set, one partial image a line: addresses with their values. -/
def State.redImages (s : State) (r : Req) (t : RedType) (xs : List (Nat × Nat)) : List Image :=
  ((xs.map fun x => x.1 / 128).eraseDups).filterMap fun line =>
    (s.redPlace r line).map fun p =>
      (xs.filter fun x => x.1 / 128 == line).foldl (fun im x => im.contribute (x.1 % 128 / t.bytes) x.2) (Image.empty t p r.ctx line)
/-- A contribution enters a scheduler's atomic buffer; a full buffer drains its oldest entry (R402). -/
def State.bufferImage (s : State) (core part sched blk : Nat) (im : Image) : State :=
  let bufs := (s.core core).buffers
  let same (e : BufferEntry) : Bool :=
    e.sched == sched && e.blk == blk && e.image.ctx == im.ctx && e.image.line == im.line && e.image.place == im.place && e.image.type == im.type
  if bufs.any same then
    s.updCore core fun c => { c with buffers := c.buffers.map fun e => if same e then { e with image := e.image.plus im } else e }
  else
    let s := if (bufs.filter fun e => e.sched == sched).length < 64 then s
      else match bufs.find? fun e => e.sched == sched with
        | some old => (s.updCore core fun c => { c with buffers := c.buffers.erase old }).drainEntry State.mcheckBuffered core part old
        | none => s
    let e : BufferEntry := { sched := sched, blk := blk, since := s.gtime, image := im }
    s.updCore core fun c => { c with buffers := c.buffers ++ [e] }
/-- Where the contributions of a set go. -/
def State.putReds (s : State) (c : Sel) (nb : Bool) (ims : List Image) : State :=
  if c.b.monitored then s.updBlock c.blk fun b => { b with images := ims.foldl addDeferred b.images }
  else if nb then ims.foldl (fun s im => s.sendImage c.b.core c.l.part im) s
  else ims.foldl (fun s im => s.bufferImage c.b.core c.l.part c.g.sched c.blk im) s
/-- The shadow lines that deferring some images would draw (R341). -/
def Block.newImages (b : Block) (ims : List Image) : Nat :=
  ims.foldl (fun n im => if b.images.any fun x => x.ctx == im.ctx && x.line == im.line && x.type == im.type then n
    else n + im.type.shadowLines) 0
/-- The bytes contributed to (R409). -/
def redTouches (ea n : Nat) : List Touch :=
  touchesOf ea n fun tile line m => { tile := tile, line := line, reads := 0, writes := 0, reds := m }
/-- What the check of one lane's target comes to. -/
def State.redCheck (s : State) (c : Sel) (ea : Nat) : State × SyncOut :=
  match s.answer c.req .atomic (ea / 128 * 128) 128 with
  | .served .. => (s, .done id)
  | .direct _ (some k) => (if (s.entry? k).any fun x => x.settled then s else s.pageReq k 1 c.l.part c.l.queue, .stop (.page k true))
  | a => s.syncMiss c ea true a

def execRed (o : OpR) (s : State) : Host.Outcome State Fault Refusal :=
  let t := redType o.d
  let n := t.bytes
  let nb := (modsOf o.m).c.getLsbD 0
  let addr (c : Sel) (l : Nat) : Except Fail Nat :=
    let ea := normEa s.dev ((c.thread l).vPair o.a.toNat).toNat
    match s.checkRed c ea n with | some f => .error f | none => .ok ea
  runChecked (.red o) s (fun c l => failOf (addr c l)) fun c s =>
    let addrs := (c.guarded (.red o)).map fun l => (l, addr c l)
    let ok := (splitLanes addrs).1
    let value (l : Nat) : Nat := let th := c.thread l
      if n == 8 then (pairB c.g th o.bk o.b).toNat else (operandB c.g th o.bk o.b).toNat
    let ims := s.redImages c.req t (ok.map fun x => (x.2, value x.1))
    let need := if c.b.monitored then c.b.newImages ims else 0
    if !c.b.monitored && !ims.isEmpty && (s.throttled c.l.part bSLOTS || (nb && s.heldRequest c.req (ok.map Prod.snd))) then c.full s
    else match s.shadowRoom c.b c.l need with
    | .stall => s.stallShadow c.blk c.grp c.issue.lanes
    | room =>
      let (s, details) := s.surveyLanes c (ok.map fun x => (x.1, redTouches x.2 n))
      let s := if room == .exhausted then s.doom c.blk .exhaustion else (s.takeShadow c.blk need).putReds c nb ims
      c.sync s (.red o) true addrs (conflictFails ok details) fun s _ ea => s.redCheck c ea

/-! ## REDFL (R402) -/

def execRedfl (o : OpR) (s : State) : Host.Outcome State Fault Refusal :=
  runBoundary (.redfl o) s fun c s =>
    let s := if (c.guarded (.redfl o)).isEmpty then s else s.drainBuffers c.b.core c.l.part c.blk
    c.passAll s (.redfl o)

/-! ## A record read by an instruction that acts once (R395, R405, R439) -/

/-- The n bytes at ea, within one line; none where the set holds, parks, faults or dies, with the state that leaves. -/
def Sel.readRecord (c : Sel) (s : State) (i : Instr) (ls : List Nat) (ea n : Nat) : State × Option (List Byte) :=
  if s.heldRequest c.req [ea] then (c.full s, none)
  else
    let stop (s : State) (whys : List Stop) : State :=
      let s := ls.foldl (fun s l => whys.foldl (fun s why => s.stop c.blk c.grp l c.g.nextLoad c.issue.pc why ea) s) s
      s.settleLanes c.blk c.grp ls
    -- the Surveyor records the read; a conflict stops the threads as a denial does (R410)
    let read (s : State) (p : Place) : State × Option (List Byte) :=
      match s.surveyAll c.l (c.g.party c.blk) (readTouches ea n) with
      | (s, []) =>
        let (s, bs) := s.homeRead c.req ea (p.add (ea % 128)) n
        (s, some bs)
      | (s, ds) => (stop (c.advanceBut s i fun l => ls.contains l) (ds.map fun d => .deny (mkFail cDETCONF ea d)), none)
    match s.answer c.req .rd (ea / 128 * 128) 128 with
    | .served p _ _ _ _ => read s p
    | .direct p _ => read s p
    | a =>
      let (s, out) := s.syncMiss c ea true a
      let s := c.advanceBut s i fun l => ls.contains l
      (match out with
        | .done _ => s
        | .raise f => c.raiseEach s ls f
        | .stop why => stop s [why]
        | .mcheck => s.mcheck c.blk ea
        | .stall => s, none)
/-- The result predicate of an instruction that acts once, in every guard-true thread. -/
def Sel.answerAll (c : Sel) (s : State) (i : Instr) (ls : List Nat) (pd : RegNum) (x : Bool) : State :=
  c.passAll (s.updGroup c.blk c.grp fun g => g.each fun k t => if ls.contains k then t.setP (pd.toNat % 8) x else t) i

/-! ## REDARM (R404, R405) -/

/-- The fields of an update record, its addresses after R189. -/
structure UpdateRec where
  done : Nat
  h : List Word
  reserved : Nat
  rule : Nat
  expect : Nat
  nlines : Nat
  paddr : Nat
  gaddr : Nat
def readUpdate (dev : Nat) (bs : List Byte) : UpdateRec :=
  let x := ofBytes bs
  { done := normEa dev (field x 511 448), h := (List.range 7).map fun i => nat32 (field x (255 + 32 * i) (224 + 32 * i)),
    reserved := field x 223 195, rule := field x 194 192, expect := field x 191 160, nlines := field x 159 128,
    paddr := normEa dev (field x 127 64), gaddr := normEa dev (field x 63 0) }
/-- S of R404. -/
def UpdateRec.stride (u : UpdateRec) : Nat := if u.rule == 1 then 384 else 256
/-- A line of the gradient range that an arming still waits for. -/
def Arming.armed (a : Arming) (ctx line : Nat) : Bool :=
  a.ctx == ctx && !a.canc && decide (a.gaddr / 128 ≤ line) && decide (line - a.gaddr / 128 < a.nlines) && !a.fired.contains (line - a.gaddr / 128)
/-- Some line of a range is armed already. -/
def State.rangeArmed (s : State) (ctx first n : Nat) : Bool :=
  s.armings.any fun a => a.ctx == ctx && !a.canc && decide (first < a.gaddr / 128 + a.nlines) && decide (a.gaddr / 128 < first + n) &&
    (List.range (min (first + n) (a.gaddr / 128 + a.nlines) - max first (a.gaddr / 128))).any fun i => a.armed ctx (max first (a.gaddr / 128) + i)
/-- Nothing of R405 speaks against arming. -/
def State.updateOk (s : State) (ctx : Nat) (u : UpdateRec) : Bool :=
  let lines := 128 * u.nlines
  let params := u.stride * u.nlines
  u.reserved == 0 && u.rule < 2 && (u.rule == 1 || (u.h.drop 3).all fun x => x == 0) && u.expect != 0 && u.nlines != 0 &&
  decide (u.nlines ≤ 0x1000000) && u.gaddr % 128 == 0 && u.paddr % 128 == 0 && u.done % 16 == 0 &&
  isLocal s.dev u.gaddr && isLocal s.dev u.paddr && isLocal s.dev (u.paddr + params - 1) && isLocal s.dev u.done &&
  decide (eaOff u.gaddr + lines ≤ 2 ^ 48) &&
  !(decide (u.paddr < u.gaddr + lines) && decide (u.gaddr < u.paddr + params)) && !s.rangeArmed ctx (u.gaddr / 128) u.nlines
/-- An arming entry is taken in each slice of the gradient's die. -/
def State.arm (s : State) (c : Sel) (lane : Nat) (clr : Bool) (u : UpdateRec) : State :=
  let a : Arming :=
    { id := s.nextArming, launch := c.l.id, blk := c.blk, grp := c.grp, lane := lane, pc := c.issue.pc, region := (c.thread lane).region,
      ctx := c.l.ctx, clr := clr, adam := u.rule == 1, h := u.h, expect := u.expect, nlines := u.nlines, paddr := u.paddr,
      gaddr := u.gaddr, done := BitVec.ofNat 64 u.done, counts := [], fired := [], fail := none,
      handle := 64 + s.choose (2 ^ 32 - 64), canc := false }
  { s.tickFree with armings := s.armings ++ [a], nextArming := s.nextArming + 1 }

/-- REDARM with its record: 0 where a check fails, 1 once it is armed; none while a slice has no entry free. -/
def Sel.armFrom (c : Sel) (s : State) (o : OpR) (ls : List Nat) (lane : Nat) (bs : List Byte) : Option State :=
  let u := readUpdate s.dev bs
  if !s.updateOk c.l.ctx u then some (c.answerAll s (.redarm o) ls o.d false)
  else if 32 ≤ s.armings.countP (fun a => eaDie a.gaddr == eaDie u.gaddr) then none
  else some (c.answerAll (s.arm c lane ((modsOf o.m).c.getLsbD 0) u) (.redarm o) ls o.d true)
def execRedarm (o : OpR) (s : State) : Host.Outcome State Fault Refusal :=
  runChecked (.redarm o) s (fun c _ => if c.b.monitored then some (xblock 1) else none) fun c s =>
    match c.guarded (.redarm o) with
    | [] => c.passAll s (.redarm o)
    | l :: r =>
      let ls := l :: r
      let ea := normEa s.dev (c.g.sPair o.a.toNat).toNat
      let keep (s : State) (x : Option (List Byte)) : State := s.updThread c.blk c.grp l fun t => { t with armRecord := x }
      if c.b.monitored then c.refuseAll s (.redarm o) ls (xblock 1)
      else if !c.releasable s ls then c.hold s
      else
        let s := s.releaseNow c.b.core c.blk c.req 4
        -- the record is read once: a thread that waits for an entry keeps it
        match (c.thread l).armRecord with
        | some bs => (match c.armFrom s o ls l bs with
          | some s => keep s none
          | none => c.hold s)
        | none =>
          if !isLocal s.dev ea || ea % 64 != 0 then c.answerAll s (.redarm o) ls o.d false
          else match c.readRecord s (.redarm o) ls ea 64 with
          | (s, none) => s
          | (s, some bs) => (c.armFrom s o ls l bs).getD (c.hold (keep s (some bs)))

/-! ## Firing (R405-R407) -/

/-- An exact product: canonical NaN for a NaN or zero times infinity. -/
def exactMul (a b : FVal) : FVal :=
  match a, b with
  | .fin n m e, .fin k x y => .fin (n != k) (m * x) (e + y)
  | x, y => if x.isNaN || y.isNaN || zeroTimesInf x y then fmtF32.value fmtF32.canonical else .inf (x.neg != y.neg)
def f32Val (x : Nat) : FVal := fmtF32.value x
def FVal.minus (v : FVal) : FVal := v.setNeg !v.neg
/-- Round(Exact(sum of products)) in f32 under RNE. -/
def f32Sum (vs : List FVal) : Nat := plainSum fmtF32 vs
def hyper (h : List Word) (i : Nat) : FVal := f32Val (h.getD i 0).toNat
/-- SGD on one element: the new w and u. -/
def sgdRule (h : List Word) (g w u : Nat) : Nat × Nat :=
  let g1 := f32Sum [f32Val g, exactMul (hyper h 2) (f32Val w)]
  let u := f32Sum [exactMul (hyper h 1) (f32Val u), f32Val g1]
  (f32Sum [f32Val w, (exactMul (hyper h 0) (f32Val u)).minus], u)
/-- Adam on one element: the new w, m and v. -/
def adamRule (h : List Word) (g w m v : Nat) : Nat × Nat × Nat :=
  let m := f32Sum [exactMul (hyper h 1) (f32Val m), exactMul (hyper h 2) (f32Val g)]
  let v := f32Sum [exactMul (hyper h 3) (f32Val v), exactMul (exactMul (hyper h 4) (f32Val g)) (f32Val g)]
  let r := (fpOut1 fmtF32 fnSqrt faddEnv Mods.default v).bits
  let d := f32Sum [f32Val r, hyper h 5]
  let q := (fpOut2 fmtF32 fnDiv2 faddEnv Mods.default m d).bits
  (f32Sum [f32Val w, (exactMul (hyper h 0) (f32Val q)).minus, (exactMul (hyper h 6) (f32Val w)).minus], m, v)
/-- The 32 elements of a line. -/
def lineWords (bs : List Byte) : List Nat := (List.range 32).map fun i => ofBytes ((bs.drop (4 * i)).take 4)
def wordLine (ws : List Nat) : List Byte := ws.flatMap fun x => bytesLE 4 x
/-- The new parameter and state lines from the gradient line and the old ones. -/
def updateLines (adam : Bool) (h : List Word) (g : List Nat) (ps : List (List Nat)) : List (List Byte) :=
  let at_ (k i : Nat) : Nat := (ps.getD k []).getD i 0
  if adam then
    let xs := (List.range 32).map fun i => adamRule h (g.getD i 0) (at_ 0 i) (at_ 1 i) (at_ 2 i)
    [wordLine (xs.map fun x => x.1), wordLine (xs.map fun x => x.2.1), wordLine (xs.map fun x => x.2.2)]
  else
    let xs := (List.range 32).map fun i => sgdRule h (g.getD i 0) (at_ 0 i) (at_ 1 i)
    [wordLine (xs.map fun x => x.1), wordLine (xs.map fun x => x.2)]

def Arming.gradient (a : Arming) (i : Nat) : Nat := a.gaddr + 128 * i
/-- The addresses of line i's parameter and state lines. -/
def Arming.params (a : Arming) (i : Nat) : List Nat :=
  if a.adam then (List.range 3).map fun k => a.paddr + 384 * i + 128 * k else (List.range 2).map fun k => a.paddr + 256 * i + 128 * k
/-- Every line that a firing reads and writes, with the right that takes. -/
def Arming.lines (a : Arming) (i : Nat) : List CommitLine :=
  (a.gradient i :: a.params i).map fun ea => { line := ea / 128, right := .update, low := ea }
def State.updArming (s : State) (id : Nat) (f : Arming → Arming) : State :=
  { s with armings := s.armings.map fun a => if a.id == id then f a else a }
def Arming.req (a : Arming) (part : Nat) : Req := { part := part, engine := true, ctx := a.ctx, die := eaDie a.gaddr }
/-- A line's bytes at its home. -/
def State.lineAt (s : State) (r : Req) (ea : Nat) : State × List Byte :=
  match answerPlace (s.answer r .update ea 128) with
  | some p => s.homeRead r ea p 128
  | none => (s, List.replicate 128 0)
def State.putLineAt (s : State) (r : Req) (ea : Nat) (bs : List Byte) : State :=
  match answerPlace (s.answer r .update ea 128) with
  | some p => s.homeWrite r ea p (runOf 0 bs)
  | none => s
/-- The five steps of R405 for line i, whose pages are all there. -/
def State.fireLine (s : State) (a : Arming) (r : Req) (i : Nat) : State :=
  let (s, g) := s.lineAt r (a.gradient i)
  let (s, ps) := (a.params i).foldl (fun (acc : State × List (List Byte)) ea => let x := acc.1.lineAt r ea; (x.1, acc.2 ++ [x.2])) (s, [])
  let new := updateLines a.adam a.h (lineWords g) (ps.map lineWords)
  let s := ((a.params i).zip new).foldl (fun s x => s.putLineAt r x.1 x.2) s
  s.putLineAt r (a.gradient i) (if a.clr then List.replicate 128 0 else g)
/-- A denied line (R407): the lowest address of the arming's denials is kept. -/
def Arming.deny (a : Arming) (ea : Nat) : Arming :=
  { a with fail := match a.fail with
      | some x => if ea < x.toNat then some (BitVec.ofNat 64 ea) else some x
      | none => some (BitVec.ofNat 64 ea) }
/-- A gradient line whose count has reached EXPECT. -/
def Arming.due (a : Arming) (i : Nat) : Bool := !a.canc && i < a.nlines && !a.fired.contains i && decide (a.expect ≤ assocD a.counts i 0)
def State.fire (s : State) (a : Arming) (l : Launch) (i : Nat) : Option State :=
  let r := a.req l.part
  let spent (s : State) (f : Arming → Arming) : State :=
    s.updArming a.id fun a => f { a with fired := a.fired ++ [i], counts := a.counts.filter fun c => c.1 != i }
  match s.commitStop r l.queue (a.lines i) with
  | some t => t
  | none =>
    match (a.lines i).filter fun x => (answerPlace (s.answer r x.right (128 * x.line) 128)).isNone with
    | [] => some (spent (s.fireLine a r i) id)
    | x :: rest =>
      let low := rest.foldl (fun m (y : CommitLine) => min m y.low) x.low
      let s := s.tableErrors r l.queue (a.lines i)
      let bad := (a.lines i).filter fun x => (match s.answer r x.right (128 * x.line) 128 with | .failed => true | _ => false)
      let s := match bad with | y :: _ => s.mcheck a.blk y.low | [] => s
      some (spent s fun a => a.deny low)
/-- The arming is over: every line has fired, or its launch has ended (R407). -/
def Arming.over (a : Arming) : Bool := a.canc || a.fired.length == a.nlines
/-- DONE is updated, as a release at .pkg (R294, R407). -/
def State.finishArming (s : State) (a : Arming) (l : Launch) : Option State :=
  let r := a.req l.part
  let ea := a.done.toNat
  let drop (s : State) : State := { s with armings := s.armings.filter fun x => x.id != a.id }
  let note (s : State) : State :=
    match a.fail, s.block? a.blk with
    | some x, some b =>
      let rec_ := s.record b l a.grp a.lane a.pc a.region (engFlt 4 x.toNat)
      let s := s.logRecord evFAULT l rec_
      { s with armRecords := s.armRecords ++ [(a.ctx, ea, a.handle, rec_)] }
    | _, _ => s
  match s.answer r .wr (ea / 128 * 128) 128 with
  | .failed => some ((drop s).mcheck a.blk ea)
  | _ =>
    match s.objectDenied r l.queue ea with
    | some s => some ((drop (note s)).raiseImprecise a.blk a.grp a.lane a.pc (engFlt 8 ea))
    | none =>
    match s.updateObject r l.queue a.ctx ea (objectDone a.fail.isSome a.canc a.handle) with
      | some (t, true) => some (drop (note t))
      | some (t, false) => some t
      | none => none
/-- UPDATE_LINE_FIRE: of a line that is due; a line number of NLINES or more names the arming's completion. -/
def execUpdateLineFire (s : State) : Host.Outcome State Fault Refusal :=
  runEvent s (match s.subject with
    | .arming id line =>
      match s.armings.find? fun a => a.id == id with
      | some a =>
        match s.launch? a.launch with
        | some l =>
          if a.nlines ≤ line then (if a.over then s.finishArming a l else none)
          else if a.due line then s.fire a l line
          else none
        | none => none
      | none => none
    | _ => none)

/-! ## Replica pairs (R414, R437) -/

def replicaSet (x : Subject) : Command := fun s =>
  match x with
  | .replica peer schedule =>
    if s.podSize ≤ peer || peer == s.dev then .error stRANGE
    else .ok ({ s with pair := some { peer := peer, schedule := schedule, phase := .running, since := 0, peerWithdrawn := false, counts := s.eccCounts } }, [])
  | _ => .error stRANGE
def execReplicaSet (s : State) : Host.Outcome State Fault Refusal :=
  runEvent s (some (s.command 0x12 (replicaSet s.subject)))
/-- This device has logged corrected errors since the last equal boundary, or holds a failed self-test (R479). -/
def State.ownErrors (s : State) (p : Replica2) : Bool :=
  !s.selftestFailed.isEmpty || s.eccCounts.any fun c => decide (((p.counts.find? fun x => x.1 == c.1 && x.2.1 == c.2.1).map fun x => x.2.2).getD 0 < c.2.2)
/-- One comparison of the pair's digests at a step boundary (log 55). -/
def Replica2.compare (p : Replica2) (since : Nat) (equal ownErrors peerErrors : Bool) : Replica2 :=
  match p.phase, equal with
  | .withdrawn, _ => p
  | .running, true => p
  | .running, false => { p with phase := .rerun, since := since }
  | .rerun, true => { p with phase := .running }
  | .rerun, false =>
    { p with phase := if ownErrors || !peerErrors then .withdrawn else .running, peerWithdrawn := peerErrors || !ownErrors }
/-- REPLICA_COMPARE: the pair halts at a boundary where the digests differ, its launches issue nothing (`State.paused`),
and it takes launches in ownership mode until it has run the step again; a withdrawn device takes none (`State.offers`, `State.enterLaunch`). -/
def execReplicaCompare (s : State) : Host.Outcome State Fault Refusal :=
  runEvent s (match s.subject, s.pair with
    | .digests own peer peerErrors, some p =>
      if p.phase == .withdrawn || p.peerWithdrawn then none
      else
        let equal := own == peer
        let p' := p.compare s.nextLaunch equal (s.ownErrors p) peerErrors
        let t : State := { s with pair := some { p' with counts := if equal then s.eccCounts else p.counts } }
        some (if p.phase == .rerun && equal then t.log evSOFTERROR 0 0 0 (BitVec.ofNat 64 p.peer) else t)
    | _, _ => none)

end Sys2Proof.Machine
end

