-- ==== Sys2Proof/Machine/Traverse.lean ====
section
/-! DEFINITION. The traverse unit: the recurrence in chunked and stepwise form, traverse blocks, TRAV, TRAVST and TRAVERSE_COMPLETE (spec 12
R366-R381). -/

namespace Sys2Proof.Machine

open Sys2Proof

/-! ## Arithmetic on FP32 encodings (R367, R371, R373) -/

def f32Mul (a b : Nat) : Nat := (fpOut2 fmtF32 fnMul2 faddEnv Mods.default a b).bits
def f32Fma (a b c : Nat) : Nat := (fpOut3 fmtF32 faddEnv Mods.default a b c).bits
/-- The exact product of two FP32 values. -/
def f32Product (a b : Nat) : Product :=
  product 7 id { v := fmtF32.value a, scale := 127 } { v := fmtF32.value b, scale := 127 }
/-- E(z) of R367, for z the exact sum of some decays. -/
def decay (zs : List Nat) : Nat := (fpOut1 fmtF32 (fnApprox .fex2) faddEnv Mods.default (plainSum fmtF32 (zs.map fmtF32.value))).bits
/-- Dot of R371. -/
def dot (ps : List (Nat × Nat)) : Nat :=
  (cutInto (ps.length + 1) 32 ps).foldl (fun res c =>
    (accumulate fmtF32 .rne res (chunkSum fmtF32 .rne (c.map fun p => f32Product p.1 p.2)).1).1) 0
/-- An FP32 result rounded to the type of y. -/
def narrowTo (f : Fmt) (x : Nat) : Nat := plainSum f [fmtF32.value x]

/-! ## One head (R370-R372) -/

/-- The inputs of a head as FP32 encodings: rows by step. -/
structure Head where
  n : Nat
  p : Nat
  a : Array Nat
  x : Array (Array Nat)
  b : Array (Array Nat)
  c : Array (Array Nat)
  /-- D, none under ND or for TRAVST -/
  d : Option (Array Nat)
def row (m : Array (Array Nat)) (i : Nat) : Array Nat := m.getD i #[]
def entry (m : Array (Array Nat)) (i j : Nat) : Nat := (row m i).getD j 0
/-- D[p]*x, exact; 0 without a D term. -/
def Head.skip (h : Head) (t p : Nat) : FVal :=
  match h.d with
  | some d => (f32Product (d.getD p 0) (entry h.x t p)).v
  | none => .fin false 0 0
/-- Decays of steps t0 + from to t0 + upto. -/
def Head.decays (h : Head) (t0 from_ upto : Nat) : List Nat := (List.range (upto + 1 - from_)).map fun u => h.a.getD (t0 + from_ + u) 0

/-- A chunk of R371: its y, by step and p, and the boundary state. -/
def Head.chunk (h : Head) (len t0 : Nat) (hin : Array (Array Nat)) : List (List Nat) × Array (Array Nat) :=
  let bc (i j : Nat) : Nat := dot ((row h.c (t0 + i)).toList.zip (row h.b (t0 + j)).toList)
  let y (i p : Nat) : Nat :=
    let q := f32Mul (decay (h.decays t0 0 i)) (dot ((List.range h.n).map fun n => (entry h.c (t0 + i) n, entry hin n p)))
    let u := dot ((List.range (i + 1)).map fun j => (f32Mul (decay (h.decays t0 (j + 1) i)) (bc i j), entry h.x (t0 + j) p))
    plainSum fmtF32 [fmtF32.value u, fmtF32.value q, h.skip (t0 + i) p]
  let out (n p : Nat) : Nat :=
    let v (j : Nat) : Nat := f32Mul (decay (h.decays t0 (j + 1) (len - 1))) (entry h.b (t0 + j) n)
    f32Fma (decay (h.decays t0 0 (len - 1))) (entry hin n p) (dot ((List.range len).map fun j => (v j, entry h.x (t0 + j) p)))
  ((List.range len).map fun i => (List.range h.p).map fun p => y i p,
   ((List.range h.n).map fun n => ((List.range h.p).map fun p => out n p).toArray).toArray)
/-- A step of R372. -/
def Head.step (h : Head) (t : Nat) (hin : Array (Array Nat)) : List Nat × Array (Array Nat) :=
  let e := decay [h.a.getD t 0]
  let out : Array (Array Nat) := ((List.range h.n).map fun n => ((List.range h.p).map fun p =>
    f32Fma (entry h.b t n) (entry h.x t p) (f32Mul e (entry hin n p))).toArray).toArray
  ((List.range h.p).map fun p =>
    plainSum fmtF32 [fmtF32.value (dot ((List.range h.n).map fun n => (entry h.c t n, entry out n p))), h.skip t p], out)
/-! ## Traverse blocks (R368, R369) -/

structure TravBlock where
  nd : Bool
  nhf : Bool
  zh0 : Bool
  lc : Nat
  yf : Nat
  bcf : Nat
  xf : Nat
  nh : Nat
  p : Nat
  n : Nat
  t : Nat
  yaddr : Nat
  hf : Nat
  h0 : Nat
  daddr : Nat
  caddr : Nat
  baddr : Nat
  aaddr : Nat
  xaddr : Nat
def parseTrav (dev x : Nat) : TravBlock :=
  let ad (hi lo : Nat) : Nat := normEa dev (field x hi lo)
  { nd := bit x 592, nhf := bit x 591, zh0 := bit x 590, lc := field x 589 588, yf := field x 587 584, bcf := field x 583 580,
    xf := field x 579 576, nh := field x 575 560, p := field x 559 552, n := field x 551 544, t := field x 543 512, yaddr := ad 511 448,
    hf := ad 447 384, h0 := ad 383 320, daddr := ad 319 256, caddr := ad 255 192, baddr := ad 191 128, aaddr := ad 127 64, xaddr := ad 63 0 }
/-- Bytes of a type code 0x9, 0xA or 0xB. -/
def travSize (f : Nat) : Nat := if f == 9 then 4 else 2
def travType (f : Nat) : Bool := 9 ≤ f && f ≤ 11
/-- The operation: TRAV, or TRAVST with its form and k. -/
inductive TravOp where
  | trav
  | ext (k : Nat)
  | ins (k : Nat)
  deriving DecidableEq, Repr
def TravOp.isTrav : TravOp → Bool
  | .trav => true
  | _ => false
/-- Steps to run (R380). -/
def TravOp.steps (q : TravOp) (t : Nat) : Nat :=
  match q with
  | .trav => t
  | .ext k => k
  | .ins k => k
/-- A range the operation uses: address, bytes, element size. -/
structure TravRange where
  ea : Nat
  len : Nat
  size : Nat
def TravBlock.inputs (b : TravBlock) (q : TravOp) : List TravRange :=
  let steps := b.nh * b.t
  [{ ea := b.xaddr, len := steps * b.p * travSize b.xf, size := travSize b.xf }, { ea := b.aaddr, len := steps * 4, size := 4 },
   { ea := b.baddr, len := steps * b.n * travSize b.bcf, size := travSize b.bcf }]
  ++ (if q.isTrav then [{ ea := b.caddr, len := steps * b.n * travSize b.bcf, size := travSize b.bcf }] else [])
  ++ (if q.isTrav && !b.nd then [{ ea := b.daddr, len := b.nh * b.p * 4, size := 4 }] else [])
  ++ (if b.zh0 then [] else match q with
      | .ins _ => []
      | _ => [{ ea := b.h0, len := b.nh * b.n * b.p * 4, size := 4 }])
def TravBlock.outputs (b : TravBlock) (q : TravOp) : List TravRange :=
  let state (ea : Nat) : TravRange := { ea := ea, len := b.nh * b.n * b.p * 4, size := 4 }
  match q with
  | .trav => { ea := b.yaddr, len := b.nh * b.t * b.p * travSize b.yf, size := travSize b.yf } :: (if b.nhf then [] else [state b.hf])
  | .ext _ => [state b.hf]
  | .ins _ => [state b.h0]
/-- What the operation reads: the inputs, and the state that TRAVST.ins works on in place. -/
def TravBlock.reads (b : TravBlock) (q : TravOp) : List TravRange :=
  b.inputs q ++ (match q with
    | .ins _ => if b.zh0 then [] else [{ ea := b.h0, len := b.nh * b.n * b.p * 4, size := 4 }]
    | _ => [])
/-- A range in a space the unit takes, aligned, in one piece, and within the tile store (R369). -/
def TravRange.ok (dev tiles : Nat) (r : TravRange) : Bool :=
  (isLocal dev r.ea || isTile r.ea) && r.ea % r.size == 0 && decide (eaOff r.ea + r.len ≤ 2 ^ 48)
    && (!isTile r.ea || decide (eaOff r.ea + r.len ≤ tiles))
def TravRange.meets (a b : TravRange) : Bool := a.len != 0 && b.len != 0 && decide (a.ea < b.ea + b.len) && decide (b.ea < a.ea + a.len)
/-- Some range of a list overlaps a later one. -/
def anyMeets : List TravRange → Bool
  | [] => false
  | r :: rs => rs.any r.meets || anyMeets rs
/-- R369: the block is rejected. `x` is its 1,024 bits. -/
def TravBlock.rejected (b : TravBlock) (q : TravOp) (dev tiles x : Nat) : Bool :=
  let ins := b.inputs q
  let outs := b.outputs q
  field x 1023 593 != 0 || b.lc == 3 || !travType b.yf || !travType b.bcf || !travType b.xf || b.nh == 0 || 4096 < b.nh || b.p == 0
    || 64 < b.p || b.n == 0 || 128 < b.n || 0x40000000 < b.t || decide (b.t < q.steps b.t) || !(ins ++ outs).all (TravRange.ok dev tiles)
    || anyMeets outs || outs.any fun o => ins.any o.meets

/-! ## TRAV and TRAVST (R377, R378) -/

def execTraverse (i : Instr) (o : OpR) (s : State) (kind : Nat → EngKind) : Host.Outcome State Fault Refusal :=
  let desc (c : Sel) : Desc :=
    { src := normEa s.dev (c.g.sPair o.a.toNat).toNat, dst := 0, len := 128, param := (c.g.sr (o.a.toNat + 3)).toNat,
      done := tileEa (c.g.sr (o.a.toNat + 2)).toNat }
  let check (c : Sel) : Option Fail :=
    let d := desc c
    engChecks s.dev c d [] [(!(isLocal s.dev d.src || isTile d.src), engFlt 1 d.src)] [(d.src % 128 != 0, engFlt 2 d.src)] [(d.src, 128)] 0
  runChecked i s (fun c _ => check c) fun c s =>
    match c.guarded i with
    | [] => c.passAll s i
    | l :: r =>
      let d := desc c
      match check c with
      | some f => c.raiseEach (c.advanceBut s i fun x => (l :: r).contains x) (l :: r) f
      | none => c.issueOp s i l o.d.toNat d { kind := kind d.param, units := [0], total := 128, snapshot := none }
def execTrav (o : OpR) (s : State) : Host.Outcome State Fault Refusal := execTraverse (.trav o) o s fun _ => .trav
def execTravst (o : OpR) (s : State) : Host.Outcome State Fault Refusal :=
  execTraverse (.travst o) o s fun k => .travst ((modsOf o.m).c.getLsbD 0) k

/-! ## TRAVERSE_COMPLETE (R369-R376, R379-R381) -/

/-- A page-sized step through a range, and its end. -/
def rangePages (r : TravRange) : List Nat :=
  if r.len == 0 || isTile r.ea then []
  else (List.range ((r.len - 1) / 65536 + 1)).map (fun i => r.ea + 65536 * i) ++ [r.ea + r.len - 1]
/-- What stands in the way of the operation's pages (R375). -/
inductive TravStop where
  | go
  | wait
  | request (keys : List EntryKey)
  | fail (s : State) (addr : Nat)
  | mcheck (addr : Nat)
def State.travPages (s : State) (b : Block) (l : Launch) (o : EngOp) (ins outs : List TravRange) : TravStop :=
  let r := o.req l b.core
  let xs := (ins.flatMap rangePages).map (fun ea => (ea, s.answer r .rd (ea / 128 * 128) 128))
    ++ (outs.flatMap rangePages).map fun ea => (ea, s.answer r .wr (ea / 128 * 128) 128)
  let denied := xs.filter fun x => match x.2 with | .unmapped => true | .rejected _ => true | .denied _ => true | _ => false
  match denied with
  | x :: rest =>
    let s := denied.foldl (fun s y => match y.2 with | .rejected k => s.tableError k l.part l.queue | _ => s) s
    .fail s (rest.foldl (fun m y => min m y.1) x.1)
  | [] =>
    match xs.find? fun x => match x.2 with | .failed => true | _ => false with
    | some x => .mcheck x.1
    | none =>
      let keys := xs.filterMap fun x => match x.2 with | .absent k => some k | _ => none
      if !keys.isEmpty then .request keys.eraseDups
      else if xs.any fun x => match x.2 with | .filling _ => true | .noPort => true | _ => false then .wait
      else .go

/-- An encoding read exactly into FP32: a NaN keeps its kind and its fraction (R369). -/
def widenExact (f : Fmt) (x : Nat) : Nat :=
  match f.value x with
  | .nan neg _ frac fb => fmtF32.withSign neg (fmtF32.infMag + frac <<< (23 - fb))
  | v => valueBits fmtF32 v
/-- Elements of a size as FP32 encodings: rows of a width. -/
def toRows (f : Fmt) (size width : Nat) (bs : List Byte) : List (List Nat) :=
  (cutInto (bs.length + 1) (size * width) bs).map fun r => (cutInto (r.length + 1) size r).map fun e => widenExact f (ofBytes e)
def arrays (rows : List (List Nat)) : Array (Array Nat) := (rows.map List.toArray).toArray

/-- The operation of an engine operation. -/
def EngOp.travOp (o : EngOp) : Option TravOp :=
  match o.kind with
  | .trav => some .trav
  | .travst ins k => some (if ins then .ins k else .ext k)
  | _ => none
def TravBlock.chunk (x : TravBlock) : Nat := 16 * 2 ^ x.lc
/-- The full chunks and the single steps of a head, in all (R370). -/
def TravBlock.pieces (x : TravBlock) (q : TravOp) : Nat := let n := q.steps x.t; n / x.chunk + n % x.chunk
/-- Piece k of a head: its first step and its steps. -/
def TravBlock.piece (x : TravBlock) (q : TravOp) (k : Nat) : Nat × Nat :=
  let full := q.steps x.t / x.chunk
  if k < full then (k * x.chunk, x.chunk) else (full * x.chunk + (k - full), 1)
/-- Part of an array by element: its address and bytes, none of length 0. -/
def travPart (base first n size : Nat) : Nat × Nat := (base + first * size, n * size)
/-- Where head h reads D and its initial state; no bytes of what it does not read. -/
def TravBlock.partD (x : TravBlock) (q : TravOp) (h : Nat) : Nat × Nat :=
  travPart x.daddr (h * x.p) (if q.isTrav && !x.nd then x.p else 0) 4
def TravBlock.part0 (x : TravBlock) (h : Nat) : Nat × Nat := travPart x.h0 (h * x.n * x.p) (if x.zh0 then 0 else x.n * x.p) 4
/-- Where steps t to t + n - 1 of head h read x, a, B and C. -/
def TravBlock.partX (x : TravBlock) (h t n : Nat) : Nat × Nat := travPart x.xaddr ((h * x.t + t) * x.p) (n * x.p) (travSize x.xf)
def TravBlock.partA (x : TravBlock) (h t n : Nat) : Nat × Nat := travPart x.aaddr (h * x.t + t) n 4
def TravBlock.partB (x : TravBlock) (h t n : Nat) : Nat × Nat := travPart x.baddr ((h * x.t + t) * x.n) (n * x.n) (travSize x.bcf)
def TravBlock.partC (x : TravBlock) (q : TravOp) (h t n : Nat) : Nat × Nat :=
  travPart x.caddr ((h * x.t + t) * x.n) (if q.isTrav then n * x.n else 0) (travSize x.bcf)
/-- Elements as bytes, from an element on. -/
def elemWrites (base first size : Nat) (xs : List Nat) : List (Nat × List Byte) :=
  xs.zipIdx.map fun x => (base + (first + x.2) * size, bytesLE size x.1)
/-- The writes of a head's last state; none under NHF. -/
def TravBlock.finalWrites (x : TravBlock) (q : TravOp) (h : Nat) (st : List (List Nat)) : List (Nat × List Byte) :=
  match q with
  | .trav => if x.nhf then [] else elemWrites x.hf (h * x.n * x.p) 4 st.flatten
  | .ext _ => elemWrites x.hf (h * x.n * x.p) 4 st.flatten
  | .ins _ => elemWrites x.h0 (h * x.n * x.p) 4 st.flatten
/-- A head begins: its D and its initial state, or +0. -/
def TravBlock.begin (x : TravBlock) (q : TravOp) (h : Nat) (get : Nat × Nat → List Byte) : TravHead :=
  { head := h, past := 0, d := ((toRows fmtF32 4 x.p (get (x.partD q h))).headD []),
    state := if x.zh0 then List.replicate x.n (List.replicate x.p 0) else toRows fmtF32 4 x.p (get (x.part0 h)) }
/-- The next chunk or step of a head: what it writes, and the head behind it (R370-R372). -/
def TravBlock.advance (x : TravBlock) (q : TravOp) (h : TravHead) (get : Nat × Nat → List Byte) : List (Nat × List Byte) × TravHead :=
  let (t, n) := x.piece q h.past
  let fx := typeFmt (BitVec.ofNat 4 x.xf)
  let fb := typeFmt (BitVec.ofNat 4 x.bcf)
  let head : Head :=
    { n := x.n, p := x.p, a := ((toRows fmtF32 4 1 (get (x.partA h.head t n))).map fun r => r.headD 0).toArray
      x := arrays (toRows fx (travSize x.xf) x.p (get (x.partX h.head t n))), b := arrays (toRows fb (travSize x.bcf) x.n (get (x.partB h.head t n)))
      c := arrays (toRows fb (travSize x.bcf) x.n (get (x.partC q h.head t n))), d := if q.isTrav && !x.nd then some h.d.toArray else none }
  let (ys, out) := if h.past < q.steps x.t / x.chunk then head.chunk n 0 (arrays h.state)
    else let r := head.step 0 (arrays h.state); ([r.1], r.2)
  let y := if q.isTrav then
      elemWrites x.yaddr ((h.head * x.t + t) * x.p) (travSize x.yf) (ys.flatten.map (narrowTo (typeFmt (BitVec.ofNat 4 x.yf))))
    else []
  (y, { h with past := h.past + 1, state := (List.range x.n).map fun i => (List.range x.p).map fun j => entry out i j })
/-- The ranges that head h reads next: to begin, or for its next piece. -/
def TravBlock.needs (x : TravBlock) (q : TravOp) (h : Nat) (begun : Option TravHead) : List (Nat × Nat) :=
  match begun with
  | none => [x.partD q h, x.part0 h]
  | some k => let (t, n) := x.piece q k.past; [x.partX h t n, x.partA h t n, x.partB h t n, x.partC q h t n]

def TravRun.head? (t : TravRun) (h : Nat) : Option TravHead := t.heads.find? fun x => x.head == h
/-- A head that has chunks or steps to compute, or has not begun. -/
def TravRun.unfinished (t : TravRun) (x : TravBlock) (q : TravOp) (h : Nat) : Bool :=
  match t.head? h with
  | some k => decide (k.past < x.pieces q)
  | none => true
/-- A head has come further: its elements are to be written, but for units already lost, and after its last piece its state. -/
def TravRun.come (t : TravRun) (x : TravBlock) (q : TravOp) (h : TravHead) (ws : List (Nat × List Byte)) : TravRun :=
  let ws := ws ++ (if h.past == x.pieces q then x.finalWrites q h.head h.state else [])
  { t with heads := upsert (fun k => k.head == h.head) h t.heads, writes := t.writes ++ ws.filter fun w => !t.lost.contains (w.1 / 16) }
/-- One part of head h: a line of its inputs is read, or it begins, or computes its next chunk or step; none while it waits. -/
def State.travHead (s : State) (core : Nat) (b : Block) (l : Launch) (o : EngOp) (q : TravOp) (x : TravBlock) (t : TravRun) (h : Nat) :
    Option State :=
  let get (r : Nat × Nat) : List Byte := if r.2 == 0 then [] else (o.source s.dev b r.1 r.2).map fun v => v.getD 0
  match o.wants s.dev (x.needs q h (t.head? h)) with
  | some (ea, offs) =>
    match s.engFetch b l o ea offs with
    | .ok s bs => some (s.updOp core o.handle fun o => o.keep ea bs)
    | .wait => none
    | .request k => some (s.requestPage k l.part l.queue)
    | .mcheck a => some (s.mcheck o.blk a)
    -- a head whose inputs are denied after all computes no more (log 45)
    | .fail s code xs =>
      some ((s.updOp core o.handle fun o => o.failed code xs).updTrav core o.handle fun t =>
        { t with heads := upsert (fun k => k.head == h) { head := h, past := x.pieces q, state := [], d := [] } t.heads })
  | none =>
    let (ws, k) := match t.head? h with
      | none => ([], x.begin q h get)
      | some k => x.advance q k get
    some (s.updTrav core o.handle fun t => t.come x q k ws)
/-- The traverse block has been read: it is rejected, or the operation goes on with it (R369). -/
def State.travBlock (s : State) (core : Nat) (b : Block) (l : Launch) (o : EngOp) (q : TravOp) : Option State :=
  let bits := ofBytes ((o.source s.dev b o.src.toNat 128).map fun v => v.getD 0)
  let x := parseTrav s.dev bits
  let failWith (s : State) (code : Nat) (xs : List (Nat × Nat)) : Option State := s.travArrive core b l (o.failed code xs)
  match s.engSurvey l o (readTouches o.src.toNat 128) with
  | .fail s code xs => failWith s code xs
  | .ok s _ =>
    if x.rejected q s.dev l.lr.tiles bits then failWith s cENGFLT [(9, o.src.toNat)]
    else match (x.outputs q).find? fun r => l.lr.own && r.len != 0 && !isTile r.ea && !b.owns r.ea r.len with
    | some r => failWith s cENGFLT [(7, r.ea)]
    | none =>
      let t : TravRun := { block := bits, placed := false, heads := [], writes := [], lost := [] }
      some (s.updOp core o.handle fun o => { o with trav := some t })
  | _ => none
/-- Every page of the ranges is translated before any output is written (R375). -/
def State.travPlace (s : State) (core : Nat) (b : Block) (l : Launch) (o : EngOp) (q : TravOp) (x : TravBlock) : Option State :=
  let ins := x.reads q
  let outs := x.outputs q
  match s.travPages b l o ins outs with
  | .wait => none
  | .request ks => some (ks.foldl (fun s k => s.requestPage k l.part l.queue) s)
  | .mcheck a => some (s.mcheck o.blk a)
  | .fail s a => s.travArrive core b l (o.failed cENGFLT [(4, a)])
  | .go =>
    let touches := ins.flatMap (fun r => if r.len == 0 then [] else readTouches r.ea r.len)
      ++ outs.flatMap fun r => if r.len == 0 then [] else writeTouches r.ea r.len
    match s.engSurvey l o touches with
    | .ok s _ => some (s.updTrav core o.handle fun t => { t with placed := true })
    | .fail s code xs => s.travArrive core b l (o.failed code xs)
    | _ => none
/-- One part of a traverse, which the device picks (R374): an element written, or a head's next part; at the end its arrival. A cancelled
one computes nothing more (R376). None while it waits (log 45). -/
def State.traverse (s : State) (core : Nat) (b : Block) (l : Launch) (o : EngOp) (q : TravOp) : Option State :=
  match o.trav with
  | none =>
    if o.canc then s.travArrive core b l o
    else match o.wants s.dev [(o.src.toNat, 128)] with
    | none => s.travBlock core b l o q
    | some (ea, offs) =>
      match s.engFetch b l o ea offs with
      | .ok s bs => some (s.updOp core o.handle fun o => o.keep ea bs)
      | .wait => none
      | .request k => some (s.requestPage k l.part l.queue)
      | .mcheck a => some (s.mcheck o.blk a)
      | .fail s code xs => s.travArrive core b l (o.failed code xs)
  | some t =>
    let x := parseTrav s.dev t.block
    if !t.placed && !o.canc then s.travPlace core b l o q x
    else
      let parts : List (Unit → Option State) := (t.writes.map fun w _ => s.travWrite core b l o w) ++
        (if o.canc then [] else ((List.range x.nh).filter (t.unfinished x q)).map fun h _ => s.travHead core b l o q x t h)
      if parts.isEmpty then s.travArrive core b l o
      else
        let k := s.choose parts.length
        ((parts.drop k ++ parts.take k).findSome? fun f => f ()).map State.tickFree
/-- TRAVERSE_COMPLETE: a traverse goes on by one part, the last of which is its completion. -/
def execTraverseComplete (s : State) : Host.Outcome State Fault Refusal :=
  runEvent s (match s.subject with
    | .op core h =>
      match s.op? core h with
      | none => none
      | some o =>
        match s.block? o.blk, s.launch? o.launch with
        | some b, some l =>
          if b.doomed.isSome && b.monitored then none else o.travOp.bind fun q => s.traverse core b l o q
        | _, _ => none
    | _ => none)

end Sys2Proof.Machine
end

