-- ==== Sys2Proof/Machine/Completion.lean ====
section
/-! DEFINITION. The completion of cross-lane and whole-group instructions once every lane of their snapshot has arrived (spec 03 R87-R92,
R111-R115; 04 R124-R127; 10 R322, R323; 13 R386). -/

namespace Sys2Proof.Machine

open Sys2Proof

/-- A tile-store range that a whole-group instruction reads, recorded by the Surveyor (R409): the details of the conflicts it completes. -/
def State.surveyRead (s : State) (l : Launch) (b : Block) (g : Group) (off n : Nat) : State × List Nat :=
  s.surveyAll l (g.party b.id) (readTouches (tileEa off) n)
/-- The conflicts of a whole-group read: its threads fault with the first, and the others are logged (R410). -/
def State.failSurvey (s : State) (b : Block) (g : Group) (w : MemberWait) (off d : Nat) (ds : List Nat) : State :=
  let s := match s.waitSel b.id g.idx w with
    | some c => s.logConflicts c ((lanesOf w.arrived).headD 0) (tileEa off) ds
    | none => s
  s.failWait b.id g.idx w (mkFail cDETCONF (tileEa off) d)

/-- MMA and MMASP start (R320, R323, R324, R326, R327). -/
def State.matrixStart (s : State) (b : Block) (l : Launch) (g : Group) (w : MemberWait) (sparse : Bool) (o : OpR) : State :=
  let q := matSpec sparse o g
  match q.check w.instr b l g with
  | .error f => s.failWait b.id g.idx w f
  | .ok fmt =>
    match s.surveyRead l b g q.off (q.bytes fmt) with
    | (s, d :: ds) => s.failSurvey b g w q.off d ds
    | (s, []) =>
      s.closeWait b.id g.idx w (fun g => { g with flights := g.flights ++ [q.latch fmt b g], latch := if q.reuse then some (q.a, fmt, q.regs fmt) else none }) []
/-- ACCLD (R330). -/
def State.accldStart (s : State) (b : Block) (l : Launch) (g : Group) (w : MemberWait) (o : OpR) : State :=
  match accldCheck o l g with
  | .error f => s.failWait b.id g.idx w f
  | .ok (off, st) =>
    let es := if o.d.getLsbD 3 then 8 else 4
    let r := (List.range 64).foldl (fun (acc : State × List Nat) i =>
      let x := acc.1.surveyRead l b g (off + i * st) (64 * es)
      (x.1, acc.2 ++ x.2)) (s, [])
    match r with
    | (s, d :: ds) => s.failSurvey b g w off d ds
    | (s, []) => s.closeWait b.id g.idx w (accldDone o b off st) []

/-- What a complete wait's instruction does. -/
def State.completeWait (s : State) (b : Block) (l : Launch) (g : Group) (w : MemberWait) : Option State :=
  let con := w.guarded
  let close (f : Group → Group) : Option State := some (s.closeWait b.id g.idx w f [])
  let redux (isScan : Bool) (o : OpR) : Option State :=
    let rs := reduxResults isScan o con g
    some (s.closeWait b.id g.idx w (reduxDone o rs) (reduxFails rs g w.pc))
  match w.instr with
  | .vote o => close (voteDone o con)
  | .shfl o => close (shflDone o con)
  | .redux o => redux false o
  | .scan o => redux true o
  | .matchLanes o => close (matchDone o con)
  | .elect o => close (electDone o con)
  | .allot o => close (allotDone o (s.allotOk b l g o))
  | .mma o => some (s.matrixStart b l g w false o)
  | .mmasp o => some (s.matrixStart b l g w true o)
  | .accz o => close fun g => g.setTile (o.d.toNat % 8) []
  | .accld o => some (s.accldStart b l g w o)
  | .accst o => (s.waitSel b.id g.idx w).map fun c => s.accstDone c w o
  | .accrd o => close (accrdDone o)
  | .accwr o => close (accwrDone o)
  | .bararr o => some (s.barStart b l g.idx w o.a (some o.d.toNat))
  | .bar o => some (s.barStart b l g.idx w o.a none)
  | _ => none
/-- MEMBER_WAIT_COMPLETE: of a group that is not halted (R459), on a core; a trapped thread has not arrived, unless the wait is its own
(R87). -/
def execMemberWaitComplete (s : State) : Host.Outcome State Fault Refusal :=
  runEvent s (match s.subject with
    | .wait blk grp pc =>
      match s.block? blk, s.group? blk grp with
      | some b, some g =>
        if b.st != .resident || g.halted then none
        else match g.waits.find? fun w => w.pc == pc && w.complete, s.launch? b.launch with
        | some w, some l => (s.completeWait b l g w).bind fun t => t.wholly blk grp w.arrived
        | _, _ => none
      | _, _ => none
    | _ => none)

end Sys2Proof.Machine
end

