-- ==== Sys2Proof/Machine/Queues.lean ====
section
/-! DEFINITION. Launch records and queues: the record's fields and checks, SUBMIT, LAUNCH, SPAWN, TAIL writes, acceptance and
completion (spec 14 R415-R420, R438, R439; 13 R394, R395; 11 R337, R338, R356). -/

namespace Sys2Proof.Machine

open Sys2Proof

/-! ## Launch records (R415, R416) -/

/-- The fields of the 128 bytes, and the bits R415 reserves. -/
def readLaunch (bs : List Byte) : LaunchRec × Nat :=
  let x := ofBytes bs
  let d (lo : Nat) : Dword := BitVec.ofNat 64 (field x (lo + 63) lo)
  ({ code := d 0, handler := d 64, params := d 128, done := d 192, swap := d 256, swapmax := d 320, weight := d 384, policy := d 448,
     owners := d 512, blocks := field x 607 576, x := field x 639 608, y := field x 655 640, z := field x 671 656, tiles := field x 703 672,
     priv := field x 719 704, groups := field x 727 720, vregs := field x 735 728, uregs := field x 743 736, accs := field x 751 744,
     det := bit x 752, ladder := bit x 753, own := bit x 754, coop := bit x 755, nopark := bit x 756 }, field x 1023 757)
/-- Step 2 of R416, with the weight as it is taken.  A handler is a PC, so bit 0 of it is clear (R35; log 40). -/
def recordOk (dev : Nat) (r : LaunchRec) (reserved weight : Nat) : Bool :=
  reserved == 0 && r.blocks != 0 && r.x != 0 && r.y != 0 && r.z != 0 && r.x * r.y * r.z == r.blocks && decide (r.blocks ≤ weight) &&
  (targetFault dev r.code).isNone && (r.handler == 0 || (targetFault dev r.handler).isNone) &&
  r.tiles % 16 == 0 && decide (r.tiles ≤ 2097152) && decide (r.priv ≤ 16384) && decide (1 ≤ r.groups) && decide (r.groups ≤ 128) &&
  decide (1 ≤ r.vregs) && decide (r.vregs ≤ 128) && decide (16 ≤ r.uregs) && decide (r.uregs ≤ 128) && decide (r.accs ≤ 8) &&
  r.params.toNat % 16 == 0 && r.done.toNat % 16 == 0 && r.swap.toNat % 256 == 0 && r.owners.toNat % 64 == 0
/-- The 4 KiB granules of a tile store (R286). -/
def tileGranules (r : LaunchRec) : Nat := (r.tiles + 4095) / 4096
/-- R424. -/
def LaunchRec.fitsEmpty (r : LaunchRec) : Bool :=
  let c := (r.groups + 3) / 4
  decide (c ≤ 32) && decide (c * 64 * r.vregs ≤ 98304) && decide (c * r.uregs ≤ 4096) && decide (c * r.accs ≤ 8) && decide (tileGranules r ≤ 512)

/-- R338: the policy of a record's 64 bytes; none where it breaks a rule. -/
def readPolicy (bs : List Byte) : Option Policy :=
  let x := ofBytes bs
  let rung (i : Nat) : Nat × Nat := (field x (95 + 64 * i) (64 + 64 * i), field x (101 + 64 * i) (96 + 64 * i))
  let p : Policy :=
    { pid := nat32 (field x 31 0), floor := field x 34 32, ceil := field x 37 35, pred := bit x 38, relax := bit x 39, skip := bit x 40,
      skipm := field x 55 48, rungs := (List.range 4).map rung }
  -- the entries at or above CEIL may hold any value, but for rung 4's
  let rz := (List.range 4).all fun i => p.ceil ≤ i || field x (127 + 64 * i) (102 + 64 * i) == 0
  if field x 511 320 == 0 && field x 63 56 == 0 && field x 47 41 == 0 && rz && decide (p.floor ≤ p.ceil) && decide (p.ceil ≤ 4) then some p
  else none

/-! ## What the dispatcher reads -/

inductive ReadOut where
  | ok (s : State) (bs : List Byte)
  | wait
  | request (key : EntryKey)
  /-- no mapping, no permission, or a failed page -/
  | bad (s : State)

/-- The dispatcher's accesses are a partition's (R471), in the queue's context, from die 0. -/
def Queue.req (q : Queue) : Req := { part := q.part, engine := false, ctx := q.ctx, die := 0 }
/-- n bytes at ea, read at their homes. -/
def State.dispRead (s : State) (r : Req) (queue ea n : Nat) : ReadOut :=
  let ea := normEa s.dev ea
  if 1 < eaSpace ea || (spaceFault s.podSize ea).isSome then .bad s
  else
    let rs := (lineRuns (n / 128 + 2) ea n).map fun x => (normEa s.dev x.1, x.2)
    let ans := rs.map fun x => s.answer r .rd (x.1 / 128 * 128) 128
    match ans.findSome? fun a => match a with | .absent k => some k | _ => none with
    | some k => .request k
    | none =>
      if ans.any fun a => match a with | .filling _ => true | .noPort => true | _ => false then .wait
      else if ans.any fun a => (answerPlace a).isNone then
        .bad (ans.foldl (fun s a => match a with | .rejected k => s.tableError k r.part queue | _ => s) s)
      else
        let x := (rs.zip ans).foldl (fun (acc : State × List Byte) y => match answerPlace y.2 with
          | some p => let z := acc.1.homeRead r y.1.1 (p.add (y.1.1 % 128)) y.1.2; (z.1, acc.2 ++ z.2)
          | none => acc) (s, [])
        .ok x.1 x.2

/-! ## The ring (R419) -/

/-- TAIL - HEAD. -/
def Queue.held (q : Queue) : Nat := (q.tail - q.head).toNat
/-- The address of record k. -/
def Queue.slot (dev : Nat) (q : Queue) (k : Word) : Nat := normEa dev (q.qbase.toNat + 128 * (k.toNat % 2 ^ q.qsize))
/-- A record appended as one step: the slot is written, TAIL advances, SUBMIT is logged. None where the slot's page is not there yet (it
is requested), false where it cannot be written (log 39). -/
def State.append (s : State) (q : Queue) (bs : List Byte) (spawned : Option (Nat × Nat)) : Option (State × Bool) :=
  let ea := q.slot s.dev q.tail
  let r := q.req
  match s.answer r .wr (ea / 128 * 128) 128 with
  | .absent k => some (s.requestPage k q.part q.num, false)
  | .filling _ => none
  | .noPort => none
  | .rejected k => some (s.tableError k q.part q.num, true)
  | a => match answerPlace a with
    | none => some (s, true)
    | some p =>
      let s := s.homeWrite r ea p (runOf 0 bs)
      let s := s.updQueue q.num fun q => { q with
        tail := q.tail + 1
        spawned := match spawned with | some x => q.spawned ++ [(q.tail.toNat, x.1, x.2)] | none => q.spawned }
      some (s.log evSUBMIT q.part q.num 0 (BitVec.ofNat 64 q.tail.toNat), true)
/-- The append of an instruction of a set: it holds while the ring's page is being brought in. -/
def Sel.submit (c : Sel) (s : State) (i : Instr) (ls : List Nat) (pd : RegNum) (q : Queue) (bs : List Byte) (spawned : Option (Nat × Nat))
    (held : Nat) : State :=
  match s.append q bs spawned with
  | none => c.hold s
  | some (s, false) => c.hold s
  | some (t, true) =>
    let ok := t.queue? q.num != some q
    c.answerAll (if ok then t.updBlock c.blk fun b => { b with weight := b.weight - held } else t) i ls pd ok

/-! ## LAUNCH and SPAWN (R395, R439) -/

/-- Their checks at issue. -/
def State.checkLaunch (s : State) (c : Sel) (ea : Nat) : Option Fail :=
  match spaceFault s.podSize ea with
  | some d => some (mkFail cADDRSPACE ea d)
  | none =>
    if !isLocal s.dev ea then some (mkFail cADDRSPACE ea 6)
    else if ea % 128 != 0 then some (mkFail cMISALIGN ea 0)
    else if c.b.monitored then some (xblock 1)
    else none
/-- The checks, the waits, the release at .pkg and the reading that the two share; `f` gets the record's bytes. -/
def execSubmit (i : Instr) (o : OpR) (s : State) (f : Sel → State → List Nat → List Byte → State) : Host.Outcome State Fault Refusal :=
  let addr (c : Sel) : Nat := normEa s.dev (c.g.sPair o.a.toNat).toNat
  runChecked i s (fun c _ => s.checkLaunch c (addr c)) fun c s =>
    match c.guarded i with
    | [] => c.passAll s i
    | l :: r =>
      let ls := l :: r
      let ea := addr c
      match s.checkLaunch c ea with
      | some e => c.refuseAll s i ls e
      | none =>
        if !c.releasable s ls then c.hold s
        else
          match c.readRecord (s.releaseNow c.b.core c.blk c.req 4) i ls ea 128 with
          | (s, none) => s
          | (s, some bs) => f c s ls bs

def execLaunch (o : OpR) (s : State) : Host.Outcome State Fault Refusal :=
  execSubmit (.launch o) o s fun c s ls bs =>
    let n := (operandB c.g (c.thread (ls.headD 0)) o.bk o.b).toNat
    let n := if n == 0xFFFFFFFF then c.l.queue else n
    match s.queue? n with
    | none => c.answerAll s (.launch o) ls o.d false
    | some q =>
      if q.part != c.l.part || q.ctx != c.l.ctx || (n != c.l.queue && !q.lok) || decide (2 ^ q.qsize ≤ q.held) then
        c.answerAll s (.launch o) ls o.d false
      else c.submit s (.launch o) ls o.d q bs none 0

/-- The record with LR.weight set. -/
def withWeight (bs : List Byte) (w : Nat) : List Byte := bs.take 48 ++ bytesLE 8 w ++ bs.drop 56
def execSpawn (o : OpR) (s : State) : Host.Outcome State Fault Refusal :=
  execSubmit (.spawn o) o s fun c s ls bs =>
    let w := (operandB c.g (c.thread (ls.headD 0)) o.bk o.b).toNat
    let (r, rz) := readLaunch bs
    match s.queue? c.l.queue with
    | none => c.answerAll s (.spawn o) ls o.d false
    | some q =>
      if w < r.blocks || c.b.weight < w || !recordOk s.dev r rz w || decide (2 ^ q.qsize ≤ q.held) then c.answerAll s (.spawn o) ls o.d false
      else c.submit s (.spawn o) ls o.d q (withWeight bs w) (some (w, c.l.root)) w

/-! ## TAIL writes (R418, R419) -/

/-- A write of TAIL (log 61). It logs no SUBMIT: R419 names that event for the appends of LAUNCH and SPAWN (log 82). -/
def State.writeTail (s : State) (q : Queue) (tail : Word) : State :=
  let n := (tail - q.head).toNat
  if 2 ^ q.qsize < n || n < q.held then s.log evTAILERROR q.part q.num 0 (BitVec.ofNat 64 tail.toNat)
  else s.setQueue { q with tail := tail }
/-- The control space's access table lets a master write the TAIL of a queue (R418, R471). -/
def State.tailGranted (s : State) (queue master : Nat) : Bool :=
  let a := Config.tailOffset queue
  s.aclGrants .control master .wr a (a + 3)
/-- R473: an ACCESS-DENY event with the master and the address. -/
def State.accessDeny (s : State) (master addr : Nat) : State := s.log evACCESSDENY 0 0 (nat32 master) (BitVec.ofNat 64 addr)
/-- QUEUE_TAIL_WRITE: by the host or firmware, on any of the 1,024 descriptors; a denied write is dropped, on CXL.mem with an event (R473). -/
def execQueueTailWrite (s : State) : Host.Outcome State Fault Refusal :=
  runEvent s (match s.subject with
    | .tail queue master tail =>
      if 1024 ≤ queue || (master != 0x20 && master != 0x21 && master != 0x3F) then none
      else if s.tailGranted queue master then some (s.writeTail (s.descriptor queue) tail)
      else some (if master == 0x21 then s.accessDeny master (Config.tailOffset queue) else s)
    | _ => none)

/-! ## Acceptance (R416) -/

/-- Launches of a queue that have not completed, in the order of acceptance. -/
def State.incomplete (s : State) (queue : Nat) : List Launch := s.launches.filter fun l => l.queue == queue && !l.complete
/-- A launch that still dispatches fresh blocks (R420). -/
def Launch.dispatching (l : Launch) : Bool := !l.complete && !l.stopped && decide (l.next < l.lr.blocks)
/-- The phase of the replica pair that this device is in (R414). -/
def State.inPhase (s : State) (x : ReplicaPhase) : Bool := s.pair.any fun p => p.phase == x
/-- R420: the queue offers its head record; not on a device withdrawn from service (R414, log 55). -/
def State.offers (s : State) (q : Queue) : Bool :=
  !s.inPhase .withdrawn && q.st == .enabled && q.held != 0 && q.accepting.isNone &&
  (if q.serial then (s.incomplete q.num).isEmpty else !s.launches.any fun l => l.queue == q.num && l.dispatching)

/-- Step 4: the swap area from `a` to `hi`, entry by entry. -/
inductive AreaOut where
  | ok | bad | wait
  | request (key : EntryKey)
def State.swapAreaOk (fuel : Nat) (s : State) (ctx a hi : Nat) : AreaOut :=
  match fuel with
  | 0 => .bad
  | n + 1 =>
    if hi ≤ a then .ok
    else if !isLocal s.dev a then .bad
    else match s.walk ctx a with
    | none => .bad
    | some e =>
      if !(e.pr && e.pw && e.nm) then .bad
      else match e.st with
      | .resident => State.swapAreaOk n s ctx (entryBase s.dev e.key + keySize e.key) hi
      | .absent => .request e.key
      | .filling => .wait
      | .moving => .wait
      | _ => .bad
/-- The swap area of a launch (R274). -/
def swapBase (dev : Nat) (r : LaunchRec) : Nat := normEa dev r.swap.toNat + r.blocks * r.groups * r.priv * 256
def swapGranules (r : LaunchRec) : Nat := r.swapmax.toNat / 65536

/-- The 16 scope objects of a cooperative launch (R383): .quad, .die and .pkg. -/
def launchBarriers (r : LaunchRec) : List Barrier :=
  if r.coop then [2, 3, 4].flatMap fun scope => newBarriers scope (r.blocks * r.groups) else []
/-- The head record leaves the ring as a launch: HEAD and NLAUNCH count it, the watchdog runs (R418, R429); a step that a replica pair runs again
is in ownership mode (R414, log 55). -/
def State.enterLaunch (s : State) (q : Queue) (r : LaunchRec) (policy : Option Policy) (params : List Word) (status : Option Nat) : State :=
  let child := q.spawned.find? fun x => x.1 == q.head.toNat
  let weight := match child with | some x => x.2.1 | none => r.weight.toNat
  let id := s.nextLaunch
  let root := match child with | some x => x.2.2 | none => id
  let predicted := r.ladder && !r.det && policy.any fun p => p.pred
  let serial := match s.part? q.part with | some p => p.ladderSerial | none => 0
  let takes := status.isNone && predicted
  let l : Launch :=
    { id := id, queue := q.num, part := q.part, ctx := q.ctx, lr := { r with weight := BitVec.ofNat 64 weight, own := r.own || s.inPhase .rerun }, policy := policy,
      params := params, serial := if takes then serial.toNat else 0, root := root, returned := 0, next := 0, status := status.getD 0,
      stopped := status.isSome, complete := false, counter := 0, passed := [], ticketKnown := [], bars := launchBarriers r }
  let s : State := { s with launches := s.launches ++ [l], nextLaunch := id + 1 }
  let s := s.updQueue q.num fun q =>
    { q with head := q.head + 1, nlaunch := q.nlaunch + 1, accepting := none, wdogFrom := q.wdogFrom.or (some s.gtime),
             spawned := q.spawned.filter fun x => x.1 != q.head.toNat }
  let s := if takes then s.updPart q.part fun p => { p with ladderSerial := p.ladderSerial + 1 } else s
  match status with
  | none => s.log evACCEPT q.part q.num 0 (BitVec.ofNat 64 id)
  | some _ => s.returnWeight id weight

/-- The acceptance goes on from the step where it stands; `fuel` bounds the steps (log 52). -/
def State.acceptFrom (fuel : Nat) (s : State) (q : Queue) (a : Accepting) : State :=
  let stay (s : State) (a : Accepting) : State := s.updQueue q.num fun q => { q with accepting := some a }
  let (r, rz) := readLaunch a.raw
  let weight := match q.spawned.find? fun x => x.1 == q.head.toNat with | some x => x.2.1 | none => r.weight.toNat
  let fail (s : State) (code : Nat) : State := s.enterLaunch q r a.policy [] (some code)
  match fuel with
  | 0 => stay s a
  | n + 1 =>
    let next (s : State) (a : Accepting) : State := State.acceptFrom n s q { a with step := a.step + 1 }
    match a.step with
    | 1 => match s.dispRead q.req q.num (q.slot s.dev q.head) 128 with
      | .ok s bs => next s { a with raw := bs }
      | .wait => stay s a
      | .request k => stay (s.requestPage k q.part q.num) a
      | .bad s => fail s 1
    | 2 => if recordOk s.dev r rz weight then next s a else fail s 1
    | 3 =>
      if !r.ladder then next s a
      else
        let ea := normEa s.dev r.policy.toNat
        if ea % 64 != 0 || !isLocal s.dev ea then fail s 2
        else match s.dispRead q.req q.num ea 64 with
        | .ok s bs => match readPolicy bs with
          | some p => next s { a with policy := some p }
          | none => fail s 2
        | .wait => stay s a
        | .request k => stay (s.requestPage k q.part q.num) a
        | .bad s => fail s 2
    | 4 =>
      if r.swapmax == 0 then next s a
      else
        let lo := swapBase s.dev r
        match s.swapAreaOk (s.entries.length + 1) q.ctx lo (lo + swapGranules r * 65536) with
        | .ok => next s a
        | .bad => fail s 3
        | .wait => stay s a
        | .request k => stay (s.requestPage k q.part q.num) a
    | 5 => if r.fitsEmpty then next s a else fail s 4
    | _ =>
      match s.dispRead q.req q.num r.params.toNat 64 with
      | .ok s bs => s.enterLaunch q r a.policy (((lineWords bs).take 16).map nat32) none
      | .wait => stay s a
      | .request k => stay (s.requestPage k q.part q.num) a
      | .bad s => fail s 1
/-- Whether an acceptance that waits can go on. -/
def State.accept (s : State) (q : Queue) : Option State :=
  let a := q.accepting.getD { step := 1, raw := [], policy := none }
  let t := State.acceptFrom 8 s q a
  if t == s then none else some t

/-! ## Completion (R417) -/

/-- Weight of the blocks not yet dispatched (R394). -/
def Launch.undispatched (l : Launch) : Nat :=
  let w := l.lr.weight.toNat
  let n := l.lr.blocks
  w - (l.next * (w / n) + min l.next (w % n))
/-- Block b's share. -/
def Launch.share (l : Launch) (b : Nat) : Nat :=
  let w := l.lr.weight.toNat
  w / l.lr.blocks + (if b < w % l.lr.blocks then 1 else 0)
/-- Dispatch stops; what was not dispatched counts as returned. -/
def State.stopLaunch (s : State) (l : Launch) (status : Nat) : State :=
  let s := if l.stopped then s else s.returnWeight l.id l.undispatched
  (s.updLaunch l.id fun l => { l with stopped := true }).raiseStatus l.id status

/-- The blocks of a launch have all ended, and none is to come. -/
def State.blocksOver (s : State) (l : Launch) : Bool :=
  !l.dispatching && s.blocks.all fun b => b.launch != l.id || b.st == .ended || b.st == .killed
/-- No store of the launch's blocks, or for a root of its tree's, waits to be performed (R394). -/
def State.storesOver (s : State) (l : Launch) : Bool :=
  let tree (id : Nat) : Bool := id == l.id || (s.launch? id).any fun k => k.root == l.id
  let mine (e : Store) : Bool := (s.block? e.blk).any fun b => tree b.launch
  !s.cores.any (fun c => c.stores.any mine) && !s.partitions.any fun p => p.held.any mine
/-- The weight of its tree has returned, or for a copy made by SPAWN its blocks have ended (R395). -/
def State.launchDue (s : State) (l : Launch) : Bool :=
  !l.complete && (if l.root == l.id then decide (l.lr.weight.toNat ≤ l.returned) else s.blocksOver l) && s.storesOver l
/-- The completion object after a launch's completion with a status (R294, R417). -/
def launchObject (status x : Nat) : Nat :=
  let y := setField x 63 0 (field x 63 0 + 1)
  let y := if !bit x 64 && !bit x 65 then setField y 127 96 status else y
  let y := if status != 0 then setField y 64 64 1 else y
  if 8 ≤ status then setField y 65 65 1 else y
/-- The end of a drain (R430): DRAIN-DONE, and its MSI-X vector (R465). -/
def State.drainDone (s : State) (part : Nat) : State :=
  let s := (s.updPart part fun p => { p with draining := false, closed := [] }).log evDRAINDONE part 0 0 0
  { s with msix := s.msix ||| BitVec.ofNat 18 (2 ^ (2 + part)) }
/-- What follows the update of LR.done: COMPLETE, the replicas and the signatures that end with the launch (R201, R410), its armings
(R407), the watchdog (R429) (log 72). -/
def State.endLaunch (s : State) (l : Launch) (failed : Bool) : State :=
  let done := l.lr.done.toNat + (if failed then 1 else 0)
  let s := s.log evCOMPLETE l.part l.queue (nat32 l.status) (BitVec.ofNat 64 done)
  let s := s.updLaunch l.id fun l => { l with complete := true }
  let s : State := { s with
    replicas := s.replicas.filter fun r => r.launch != l.id
    signatures := s.signatures.filter fun x => x.launch != l.id
    armings := s.armings.map fun a => if a.launch == l.id && a.fired.length != a.nlines then { a with canc := true } else a }
  let oldest := !s.launches.any fun k => k.queue == l.queue && !k.complete && k.id < l.id
  let s := s.updQueue l.queue fun q =>
    { q with wdogFrom := if (s.incomplete q.num).isEmpty then none else if oldest then some s.gtime else q.wdogFrom }
  -- the last launch of a drain (R430)
  if (s.part? l.part).any fun p => p.draining && !s.launches.any fun k => k.part == l.part && !k.complete then
    s.drainDone l.part
  else s
/-- Every core's bytes of a context are performed at their homes (R394). -/
def State.settleContext (s : State) (r : Req) : State :=
  (s.cores.map Core.num).foldl (fun s c => s.settleCore c { r with die := dieOf c }) s
/-- The update of LR.done, as a release at .pkg; none while it waits for its page. It is made for a record that acceptance rejects too, even
where the object's own misalignment is what is wrong with it (log 82). -/
def State.finishLaunch (s : State) (l : Launch) : Option State :=
  let ea := normEa s.dev l.lr.done.toNat
  let r : Req := { part := l.part, engine := false, ctx := l.ctx, die := 0 }
  let s := s.settleContext r
  if l.lr.done == 0 then some (s.endLaunch l false)
  else if 1 < eaSpace ea || (spaceFault s.podSize ea).isSome then some (s.endLaunch l true)
  else match s.answer r .wr (ea / 128 * 128) 128, s.objectDenied r l.queue ea with
  | .failed, _ => some (s.endLaunch l true)
  | _, some t => some (t.endLaunch l true)
  | _, none => match s.updateObject r l.queue l.ctx ea (launchObject l.status) with
    | some (t, true) => some (t.endLaunch l false)
    | some (t, false) => some t
    | none => none
/-- LAUNCH_COMPLETE; the launches that a drain ends complete in the order of acceptance (R430). -/
def execLaunchComplete (s : State) : Host.Outcome State Fault Refusal :=
  runEvent s (match s.subject with
    | .launch id =>
      match s.launch? id with
      | some l =>
        let later := (s.part? l.part).any fun p => p.draining && s.launches.any fun k => k.part == l.part && !k.complete && k.id < id
        if s.launchDue l && !later then s.finishLaunch l else none
      | none => none
    | _ => none)

end Sys2Proof.Machine
end

