-- ==== Sys2Proof/Machine/Dispatcher.lean ====
section
/-! DEFINITION. The dispatcher: room on a core, the decision, dispatch, swap-out and re-admission, reservations (spec 14 R421-R424; 08
R271-R280; 03 R70-R73; 01 R24-R26; 11 R356). -/

namespace Sys2Proof.Machine

open Sys2Proof

/-! ## Room (R24, R71, R276) -/

/-- What a group needs of its scheduler: vector registers, uniform registers, accumulator tiles. -/
structure GroupNeed where
  sched : Nat
  v : Nat
  s : Nat
  accs : Nat
/-- What a block needs of a core. -/
structure BlockNeed where
  groups : List GroupNeed
  granules : Nat
  shadow : Nat
  stores : Nat
/-- R71: group g of a block goes to scheduler (BLKIDX + g) mod 4. -/
def schedOf (blkidx g : Nat) : Nat := (blkidx + g) % 4
/-- A block at its first dispatch, or queued again. -/
def freshNeed (r : LaunchRec) (blkidx : Nat) : BlockNeed :=
  { groups := (List.range r.groups).map fun g => { sched := schedOf blkidx g, v := 64 * r.vregs, s := r.uregs, accs := r.accs },
    granules := tileGranules r, shadow := 0, stores := 0 }
/-- A block that comes back with its context: where a group of a DET block holds less than its launch record allots, the room it asks for is
the record's, as a DET launch's groups keep it (R122, R127; log 76). -/
def Block.need (b : Block) (l : Launch) : BlockNeed :=
  { groups := b.groups.map fun g => { sched := g.sched, v := heldV l g, s := heldS l g, accs := l.lr.accs },
    granules := tileGranules l.lr, shadow := b.shadowLines, stores := b.savedStores.length + b.deniedStores }
/-- The tile-store granules in use on a core. -/
def State.granulesUsed (s : State) (core : Nat) : Nat :=
  (s.blocksOn core).foldl (fun n b => n + match s.launch? b.launch with | some l => tileGranules l.lr | none => 0) 0
/-- Whether a need fits a core that holds what it holds. -/
def State.hasRoom (s : State) (core : Nat) (n : BlockNeed) : Bool :=
  decide (s.granulesUsed core + n.granules ≤ 512) && decide (n.shadow ≤ s.shadowFree core) &&
  decide (s.faultEntries core + n.stores ≤ 64) &&
  (List.range 4).all fun sch =>
    let mine := n.groups.filter fun g => g.sched == sch
    decide (s.sumGroups core sch (fun _ _ => 1) + mine.length ≤ 32) &&
    decide (s.sumGroups core sch heldV + (mine.map GroupNeed.v).sum ≤ 98304) &&
    decide (s.sumGroups core sch heldS + (mine.map GroupNeed.s).sum ≤ 4096) &&
    decide (s.sumGroups core sch (fun l _ => l.lr.accs) + (mine.map GroupNeed.accs).sum ≤ 8)
/-- Groups resident on a core. -/
def State.residentGroups (s : State) (core : Nat) : Nat := (s.blocksOn core).foldl (fun n b => n + b.groups.length) 0
/-- The core of some that holds the fewest groups, the lowest number among equals (R422). -/
def State.emptiest (s : State) (cores : List Nat) : Option Nat :=
  match cores with
  | [] => none
  | c :: r => some (r.foldl (fun m x => if s.residentGroups x < s.residentGroups m || (s.residentGroups x == s.residentGroups m && x < m) then x else m) c)
/-- The core that takes a need, of those not reserved for another queue (R422, R423). -/
def State.place (s : State) (p : Partition) (n : BlockNeed) (queue : Option Nat) : Option Nat :=
  let barred (c : Nat) : Bool := match p.reservation, queue with
    | some r, some q => r.2 == c && r.1 != q
    | _, _ => false
  s.emptiest (p.openCores.filter fun c => !barred c && s.hasRoom c n)
/-- The lowest free slot of a scheduler of a core (R71), beside those in `taken`. -/
def State.freeSlot (s : State) (core sched : Nat) (taken : List (Nat × Nat)) : Nat :=
  let used (n : Nat) : Bool := taken.contains (sched, n) || (s.blocksOn core).any fun b => b.groups.any fun g => g.sched == sched && g.slot == n
  ((List.range 32).find? fun n => !used n).getD 0
/-- Slots for the groups of a block, in the order of GRPIDX. -/
def State.slotsFor (s : State) (core : Nat) (scheds : List Nat) : List (Nat × Nat) :=
  scheds.foldl (fun taken sch => taken ++ [(sch, s.freeSlot core sch taken)]) []

/-! ## Candidates and the decision (R276, R421) -/

/-- What the dispatcher of a partition does next. -/
inductive Choice where
  | takeIn (blk core : Nat)
  | rerun (blk core : Nat)
  | fresh (queue launch core eff : Nat)
  | offered (queue : Nat)
  deriving DecidableEq, Repr

def State.launchPart (s : State) (b : Block) : Option Nat := (s.launch? b.launch).map Launch.part
/-- PRIO of the queue that issued a block's launch. -/
def State.prioOf (s : State) (b : Block) : Nat :=
  match (s.launch? b.launch).bind fun l => s.queue? l.queue with | some q => q.prio | none => 0
/-- The ready blocks of a partition's Caravan in the order of R276. -/
def State.readyBlocks (s : State) (part : Nat) : List Block :=
  let mine := s.blocks.filter fun b => b.st == .swapped && b.readySeq.isSome && s.launchPart b == some part
  let raised := sortBy (fun a b => decide (a.raisedSeq.getD 0 ≤ b.raisedSeq.getD 0)) (mine.filter fun b => b.raisedSeq.isSome)
  let others := sortBy (fun a b => decide (s.prioOf b < s.prioOf a) || (s.prioOf a == s.prioOf b && decide (a.readySeq.getD 0 ≤ b.readySeq.getD 0)))
    (mine.filter fun b => b.raisedSeq.isNone)
  raised ++ others
/-- The blocks of a partition that were queued again, in the order of their trips (R352). -/
def State.requeued (s : State) (part : Nat) : List Block :=
  sortBy (fun a b => decide (a.tripSeq ≤ b.tripSeq)) (s.blocks.filter fun b => b.st == .queued && s.launchPart b == some part)
/-- The owner entry of a block can be read or must be requested now; not while its page is on the way (R412). -/
def State.ownerReady (s : State) (q : Queue) (l : Launch) : Bool :=
  !l.lr.own || (match s.dispRead q.req q.num (normEa s.dev l.lr.owners.toNat + 64 * l.next) 64 with | .wait => false | _ => true)
/-- A queue's fresh candidate where the queue is eligible (R421): its launch with the core for its next block, or its offered record. -/
inductive Candidate where
  | block (launch core : Nat)
  | record
def State.dispatchingLaunch (s : State) (queue : Nat) : Option Launch := s.launches.find? fun l => l.queue == queue && l.dispatching
def State.candidate (s : State) (p : Partition) (q : Queue) : Option Candidate :=
  match s.dispatchingLaunch q.num with
  | some l =>
    if s.ownerReady q l then (s.place p (freshNeed l.lr l.next) (some q.num)).map fun c => .block l.id c else none
  | none => if s.offers q then some .record else none
/-- eff(q) of R421. -/
def Queue.eff (q : Queue) (agestep : Nat) : Nat := min 7 (q.prio + q.age / (1000 * agestep))
/-- The queues of a partition, by number. -/
def State.queuesOf (s : State) (part : Nat) : List Queue :=
  sortBy (fun a b => decide (a.num ≤ b.num)) (s.queues.filter fun q => q.part == part && q.st != .absent)
/-- The first queue above the last one served, wrapping past 1,023. -/
def nextAfter (last : Nat) (qs : List Queue) : Option Queue := ((qs.filter fun q => last < q.num) ++ qs.filter fun q => q.num ≤ last).head?
/-- The class of fresh blocks: the queue that is served. -/
def State.freshChoice (s : State) (p : Partition) : Option Choice :=
  let el := (s.queuesOf p.num).filterMap fun q => (s.candidate p q).map fun c => (q, c)
  let top := el.foldl (fun m x => max m (x.1.eff p.agestep)) 0
  let at_ := (el.map Prod.fst).filter fun q => q.eff p.agestep == top
  let last := p.lastServed.getD top 1023
  match (nextAfter last (at_.filter fun q => q.credit != 0)).or (nextAfter last at_) with
  | none => none
  | some q => match el.find? fun x => x.1.num == q.num with
    | some (_, .block l c) => some (.fresh q.num l c top)
    | some (_, .record) => some (.offered q.num)
    | none => none
/-- One decision of a partition's dispatcher, in the order of R421; a partition that drains dispatches nothing (R430). -/
def State.decision (s : State) (p : Partition) : Option Choice :=
  if p.draining then none
  else
  let takeIn := (s.readyBlocks p.num).findSome? fun b => match s.launch? b.launch with
    | some l => (s.place p (b.need l) none).map fun c => Choice.takeIn b.id c
    | none => none
  let rerun := (s.requeued p.num).findSome? fun b => match s.launch? b.launch with
    | some l => (s.place p (freshNeed l.lr b.blkidx) none).map fun c => Choice.rerun b.id c
    | none => none
  takeIn.or (rerun.or (s.freshChoice p))

/-! ## Dispatch (R70-R73, R356, R394, R412) -/

/-- A thread as it starts (R73); FPENV is 1 at reset (R159). -/
def Thread.start (code : Dword) (vregs : Nat) : Thread :=
  { Thread.blank with pc := code, region := code, st := .runnable, v := List.replicate vregs 0, fpenv := 1 }
/-- A group as it starts. -/
def Group.start (r : LaunchRec) (params : List Word) (g sched slot cb age : Nat) : Group :=
  { idx := g, sched := sched, slot := slot, k := List.replicate 12 0, s := params ++ List.replicate (r.uregs - 16) 0, vallot := r.vregs,
    uallot := r.uregs, acc := List.replicate r.accs [], mmaflags := 0, cb := cb, threads := List.replicate 64 (Thread.start r.code r.vregs),
    waits := [], loads := [], nextLoad := 0, flights := [], latch := none, arrival := none, aph := [], unchosen := 0, opportunities := 0,
    age := age, parkedAt := none, halted := false, stepping := false, stepped := 0, skipBreak := 0, span := 0, interval := 0, known := [] }
/-- An attempt of a block starts on a core at a rung, with the state of R73. -/
def State.startBlock (s : State) (l : Launch) (b : Block) (core rung : Nat) : State :=
  let monitored := match l.policy with | some p => l.lr.ladder && rung < p.ceil | none => false
  let entry := match l.policy with | some p => p.rungs.getD rung (0, 0) | none => (0, 0)
  let slots := s.slotsFor core ((List.range l.lr.groups).map (schedOf b.blkidx))
  let young := s.youngest
  let groups := slots.zipIdx.map fun x => Group.start l.lr l.params x.2 x.1.1 x.1.2 (if monitored then entry.2 else 0) (young + x.2)
  let b := { b with st := .resident, core := core, rung := rung, monitored := monitored, thr := if monitored then entry.1 else 0, groups := groups,
                    bars := newBarriers 1 l.lr.groups, dispatched := s.nextDispatch, doomed := none }
  let s : State := { s with blocks := upsert (fun x => x.id == b.id) b s.blocks, nextDispatch := s.nextDispatch + 1 }
  s
/-- R356: the rung of a first attempt, and the lookup it rests on. -/
def State.firstRung (s : State) (l : Launch) (blkidx : Nat) : Nat × Option Lookup :=
  match l.policy with
  | none => (0xFFFFFFFF, none)
  | some p =>
    if l.lr.det || !p.pred then (p.floor, none)
    else match s.gazLookup l blkidx with
    | none => (p.floor, some { hit := false, rg := 0, cf := 0, start := p.floor, probe := false })
    | some e =>
      if e.cf < 2 then (p.floor, some { hit := true, rg := e.rg, cf := e.cf, start := p.floor, probe := false })
      else
        let st := min (max e.rg p.floor) p.ceil
        let probe := l.serial % 8 == 7 && p.floor < st
        let start := if probe then st - 1 else st
        (start, some { hit := true, rg := e.rg, cf := e.cf, start := start, probe := probe })
/-- A block that has not been dispatched. -/
def Block.blank (id : Nat) (l : Launch) (owners : List (Nat × Nat)) (lookup : Option Lookup) : Block :=
  { id := id, launch := l.id, blkidx := l.next, st := .queued, core := 0, rung := 0, monitored := false, thr := 0, rcount := 0, ccount := 0,
    skcount := 0, doomed := none, doomedAt := 0, unfit := false, lookup := lookup, weight := l.share l.next, groups := [], tile := [], drawn := 0, shadow := [],
    deferred := [], joins := [], images := [], bars := [], owners := owners, ownersKept := owners, granules := none, records := [],
    savedStores := [], readySeq := none, raisedSeq := none, tripSeq := 0, dispatched := 0 }
/-- The four ranges of an owner entry (R412), their bases after R189. -/
def readOwners (dev : Nat) (bs : List Byte) : List (Nat × Nat) :=
  let x := ofBytes bs
  (List.range 4).map fun k => (normEa dev (field x (128 * k + 63) (128 * k)), field x (128 * k + 127) (128 * k + 64))
/-- A queue without credit is chosen only by the second search: every queue at its effective priority has been reset to its WGT (R421). -/
def State.resetCredits (s : State) (p : Partition) (queue eff : Nat) : State :=
  if (s.queue? queue).any fun q => q.credit == 0 then
    { s with queues := s.queues.map fun q => if q.part == p.num && q.eff p.agestep == eff then { q with credit := q.wgt } else q }
  else s
/-- A queue's reservation ends, its candidate gone (R423). -/
def State.unreserve (s : State) (part queue : Nat) : State :=
  s.updPart part fun p => { p with reservation := p.reservation.filter fun r => r.1 != queue }
/-- A queue is served a block: credit, AGE, the pointer of its effective priority (R421) (log 73). -/
def State.serve (s : State) (p : Partition) (queue eff : Nat) : State :=
  let s := (s.resetCredits p queue eff).updQueue queue fun q => { q with credit := q.credit - 1, age := 0, nblock := q.nblock + 1 }
  (s.updPart p.num fun p => { p with lastServed := p.lastServed.set eff queue }).unreserve p.num queue
/-- A fresh block is dispatched; an owner entry that cannot be read ends the launch's dispatch (R412, R417). -/
def State.dispatchFresh (s : State) (p : Partition) (queue launch core eff : Nat) : Option State :=
  match s.queue? queue, s.launch? launch with
  | some q, some l =>
    let go (s : State) (owners : List (Nat × Nat)) : State :=
      let (rung, k) := s.firstRung l l.next
      let b := Block.blank s.nextBlock l owners k
      let s : State := { s with nextBlock := s.nextBlock + 1 }
      let s := (s.serve p queue eff).updLaunch launch fun l => { l with next := l.next + 1 }
      s.startBlock l b core rung
    if !l.lr.own then some (go s [])
    else match s.dispRead q.req queue (normEa s.dev l.lr.owners.toNat + 64 * l.next) 64 with
    | .ok s bs => some (go s (readOwners s.dev bs))
    | .wait => none
    | .request k => some (s.requestPage k p.num queue)
    | .bad s => some ((s.stopLaunch l 5).unreserve p.num queue)
  | _, _ => none

/-! ## Swap-out (R271-R275) -/

/-- R274: the bytes of a context. -/
def Block.contextBytes (b : Block) (l : Launch) (entries : Nat) : Nat :=
  4096 + (b.groups.map fun g => 256 * g.vallot + 4 * g.uallot + 16384 * l.lr.accs + 2560).sum + l.lr.tiles + 128 * b.shadowLines + 256 * entries
/-- The store-fault entries of a block on its core. -/
def State.blockStores (s : State) (b : Block) : List Store := (s.core b.core).stores.filter fun e => e.blk == b.id
/-- The lowest run of free granules of the launch's swap area that holds n bytes; the block's own count as free. -/
def State.granuleRun (s : State) (l : Launch) (b : Block) (n : Nat) : Option (Nat × Nat) :=
  let len := (n + 65535) / 65536
  let used := s.blocks.filterMap fun x => if x.launch == l.id && x.id != b.id then x.granules else none
  -- a free run begins at 0 or behind a run in use
  let starts := 0 :: used.map fun u => u.1 + u.2
  let free (a : Nat) : Bool := decide (a + len ≤ swapGranules l.lr) && used.all fun u => a + len ≤ u.1 || u.1 + u.2 ≤ a
  (starts.filter free).foldl (fun (m : Option Nat) a => some (match m with | some x => min x a | none => a)) none |>.map fun a => (a, len)
def State.swapRoom (s : State) (l : Launch) (b : Block) : Option (Nat × Nat) :=
  if l.lr.swapmax == 0 then none else s.granuleRun l b (b.contextBytes l ((s.blockStores b).length + b.deniedStores))
/-- The swap decision: the block's groups stop issuing (R273); a write that waits for shadow lines gives back those it has drawn (R360). -/
def State.beginSwap (s : State) (b : Block) (l : Launch) : State :=
  s.updBlock b.id fun x => { x with st := .swapping, granules := s.swapRoom l b, drawn := 0 }

/-- A group parked since a tick (R268). -/
def Group.parkTime (g : Group) (now : Nat) : Option Nat := g.parkedAt.map fun t => now - t
/-- Conditions 1 and 2 of R272. -/
def Block.parkedLong (b : Block) (pt now : Nat) : Bool :=
  let times := b.groups.filterMap fun g => g.parkTime now
  times.any (fun t => 1000 * pt ≤ t) ||
  (decide (2 ≤ b.groups.length) && decide (b.groups.length ≤ 2 * times.length) && times.any fun t => 2000 ≤ t)
/-- Condition 3: a fresh, re-queued or ready block waits for dispatch. -/
def State.blockWaiting (s : State) (part : Nat) : Bool :=
  s.launches.any (fun l => l.part == part && l.dispatching) || !(s.requeued part).isEmpty || !(s.readyBlocks part).isEmpty
/-- The rounds of .die and .pkg communicators that operations with this completion object take part in: communicator and round (R310). -/
def State.roundsAt (s : State) (part ctx ea : Nat) : List (Comm × Nat) :=
  let here (o : EngOp) : Bool := o.ctx == ctx && o.done.toNat == ea
  let rounds := (s.cores.flatMap fun c => c.ops.filterMap fun o => match o.kind, o.remaining with
      | .coll _ _ _ comm _, round :: _ => if here o then some (comm, round) else none
      | _, _ => none)
    ++ s.contributions.filterMap fun x => if x.part == part && here x.eng then some (x.comm, x.round) else none
  rounds.filterMap fun x => ((s.comm? part x.1).filter fun k => k.scope == 3 || k.scope == 4).map fun k => (k, x.2)
/-- A thread that waits at a barrier of .quad scope or wider, or counts as waiting at one (R280, R310, R393). -/
def State.waitsWide (s : State) (l : Launch) (g : Group) (t : Thread) : Bool :=
  match t.st with
  | .waiting (.barrier scope _ _ _ _) => decide (2 ≤ scope)
  -- BARARR is no wait at a barrier: its threads go on once the previous phase is complete
  | .waiting .arrive => (g.arrival.filter fun a => a.sd.isNone).any fun a => decide (2 ≤ a.scope)
  | .waiting (.ticket _ _ _) => true
  | .waiting (.await _ a _ _) => !(s.roundsAt l.part l.ctx a.toNat).isEmpty
  | _ => false
/-- Every live thread of a block that no halt stops waits at such a barrier (R280). -/
def State.atWideBarrier (s : State) (b : Block) : Bool :=
  !b.allEnded && (s.launch? b.launch).any fun l => b.groups.all fun g => !g.halted && g.threads.all fun t => !t.live || s.waitsWide l g t
/-- The ways to take k elements of a list, earlier ones first. -/
def choicesOf {α : Type} : Nat → List α → List (List α)
  | 0, _ => [[]]
  | _, [] => []
  | k + 1, x :: r => (choicesOf k r).map (x :: ·) ++ choicesOf (k + 1) r
/-- The package without some blocks: what they hold is free, and their store-fault entries have left with them (R273). -/
def State.without (s : State) (p : Block → Bool) : State :=
  let gone (id : Nat) : Bool := (s.block? id).any p
  { s with blocks := s.blocks.filter fun b => !p b
           cores := s.cores.map fun c => { c with stores := c.stores.filter fun e => !gone e.blk } }
/-- The fewest blocks of one core whose leaving makes room for a raised block, beside those that are leaving already; none where no core
can make it. -/
def State.evictFor (s : State) (p : Partition) (b : Block) (l : Launch) : Option (List Nat) :=
  let s' := s.without fun x => x.st == .swapping
  if (s'.place p (b.need l) none).isSome then some []
  else
    let may (x : Block) : Bool := x.st == .resident && s.atWideBarrier x && (s.launch? x.launch).any fun k => (s.swapRoom k x).isSome
    (p.openCores.findSome? fun c =>
      let xs := sortBy (fun (x y : Block) => decide (y.dispatched ≤ x.dispatched)) ((s.blocksOn c).filter may)
      let enough (ys : List Block) : Bool := (s'.without fun z => ys.any fun y => y.id == z.id).hasRoom c (b.need l)
      ((List.range (xs.length + 1)).flatMap fun k => choicesOf k xs).find? enough).map fun ys => ys.map Block.id
/-- R280: the blocks that are evicted for the first raised block that is ready and for which room can be made. -/
def State.evictions (s : State) (p : Partition) : List Nat :=
  (((s.readyBlocks p.num).filter fun b => b.raisedSeq.isSome).findSome? fun b => (s.launch? b.launch).bind fun l => s.evictFor p b l).getD []
/-- SWAP_TRIGGER: by R272, or by R280. -/
def execSwapTrigger (s : State) : Host.Outcome State Fault Refusal :=
  runEvent s (match s.subject with
    | .block blk =>
      match s.block? blk with
      | none => none
      | some b => match s.launch? b.launch with
        | none => none
        | some l => match s.part? l.part with
          | none => none
          | some p =>
            let parked := b.parkedLong p.pt s.gtime && s.blockWaiting p.num && !l.lr.nopark
            if b.st == .resident && b.doomed.isNone && (s.swapRoom l b).isSome && (parked || (s.evictions p).contains blk) then
              some (s.beginSwap b l)
            else none
    | _ => none)

/-- Steps 2 to 4 of R273 and R199 are over; a collective whose contribution has been read is complete for them (R310). -/
def State.swapReady (s : State) (b : Block) : Bool :=
  b.groups.all (fun g => g.loads.isEmpty && g.flights.isEmpty) &&
  b.groups.all (fun g => g.threads.all fun t => t.horizon.isNone || t.st == .parked || t.st.open) &&
  !(s.core b.core).ops.any (fun o => o.blk == b.id && !o.contributed) && (s.blockStores b).all fun e => e.queued
/-- The cycle that ends a YIELD (R103), changed. -/
def Thread.mapYield (t : Thread) (f : Nat → Nat) : Thread :=
  match t.st with
  | .yielding k cycle len => t.setState (.yielding k (f cycle) len)
  | _ => t
/-- The traffic of a context between a core and its granules: 64-byte accesses to the frames of the swap area, over the fabric where those lie
at another die (R265, R274, R425). -/
def State.moveContext (s : State) (l : Launch) (core : Nat) (run : Option (Nat × Nat)) (n : Nat) : State :=
  (List.range ((n + 65535) / 65536)).foldl (fun s i =>
    let ea := swapBase s.dev l.lr + ((run.map Prod.fst).getD 0 + i) * 65536
    let m := (min 65536 (n - 65536 * i) + 63) / 64
    match s.walk l.ctx ea with
    | some e =>
      let s := s.accessHbm (some l.part) (e.fdie * 2 ^ 40 + e.addr + eaOff ea % 2 ^ levelShift e.key.level) m
      if e.fdie == dieOf core then s else s.charge l.part bFABRIC (64 * m)
    | none => s.charge l.part bHBM (64 * m)) s
/-- SWAPOUT: buffers drain, the context's dirty bytes are performed, and the context leaves the core with its store-fault entries (R273,
R402); a latched operand is dropped (R324), and a YIELD keeps the cycles it has left (R103, R116) (log 49). -/
def execSwapout (s : State) : Host.Outcome State Fault Refusal :=
  runEvent s (match s.subject with
    | .block blk =>
      match s.block? blk with
      | none => none
      | some b => match s.launch? b.launch with
        | none => none
        | some l =>
          if b.st == .swapping && s.swapReady b then
            let saved := s.blockStores b
            let s := s.drainBuffers b.core l.part blk
            let s := s.settleCore b.core (reqOf l b.core)
            let n := b.contextBytes l (saved.length + b.deniedStores)
            let run := (s.granuleRun l b n).or b.granules
            let s := s.moveContext l b.core run n
            let s := s.updCore b.core fun c => { c with stores := c.stores.filter fun e => e.blk != blk }
            let s := s.updBlock blk fun b =>
              { b with st := .swapped, granules := run, savedStores := saved,
                       groups := b.groups.map fun g => { g with
                         latch := none, parkedAt := none, threads := g.threads.map fun t => t.mapYield fun c => c - s.clockOf b.core } }
            some (s.log evSWAPOUT l.part l.queue (nat32 b.blkidx) 0).markReady
          else none
    | _ => none)

/-! ## Re-admission (R277-R279) -/

/-- The admitting core invalidates its clean bytes of a context (R199). -/
def State.dropClean (s : State) (core ctx : Nat) : State :=
  let keep (l : Line) : Option Line :=
    if l.key.ctx != ctx then some l else if l.dirty == 0 then none else some { l with valid := l.dirty }
  s.updCore core fun c => { c with lines := c.lines.filterMap keep }
/-- An MWAIT of a context is evaluated again (R279). -/
def State.againMwait (s : State) (b : Block) (l : Launch) (grp lane : Nat) : State :=
  match s.thread? b.id grp lane with
  | some t => match t.st with
    | .waiting (.mwait vd a wide value scope len home) =>
      match s.wakeMwait b l grp lane true (.mwait vd a wide value scope len home) with
      | some s => s
      | none => match s.answer (reqOf l b.core) .rd (a.toNat / 128 * 128) 128 with
        | .served .. => s
        | .direct .. => s
        | .noPort => s
        | x => (s.waitMiss b l grp lane len t.pc a.toNat x).getD s
    | _ => s
  | none => s
/-- A denial recorded at the swap-out is delivered (step 6 of R277). -/
def State.deliverKept (s : State) (blk grp lane : Nat) : State :=
  match s.thread? blk grp lane with
  | some t => match t.denied, t.horizon with
    | some r, none => (s.updThread blk grp lane fun t => { t with denied := none }).deliver blk grp lane t.region r
    | _, _ => s
  | none => s
/-- Every lane of a block in order. -/
def State.eachLane (s : State) (b : Block) (f : State → Nat → Nat → State) : State :=
  (List.range b.groups.length).foldl (fun s g => (List.range 64).foldl (fun s l => f s g l) s) s
/-- The groups of a block that are parked as it is re-admitted: their park time starts now (R268, R277). -/
def State.startParks (s : State) (blk : Nat) : State :=
  s.updBlock blk fun b => { b with groups := b.groups.map fun g => if g.parkedNow then { g with parkedAt := some s.gtime } else g }
/-- A ready Caravan block is admitted to a core.  Its groups keep their ages: R75's dispatch order is that of the first dispatch (log 76). -/
def State.takeIn (s : State) (b : Block) (l : Launch) (core : Nat) : State :=
  let slots := s.slotsFor core (b.groups.map Group.sched)
  let s := s.updBlock b.id fun b =>
    { b with st := .resident, core := core, granules := none, savedStores := [], readySeq := none, raisedSeq := none,
             dispatched := s.nextDispatch,
             groups := (b.groups.zip slots).map fun x =>
               { x.1 with slot := x.2.2, threads := x.1.threads.map fun t => t.mapYield fun c => c + s.clockOf core } }
  let s : State := { s with nextDispatch := s.nextDispatch + 1 }
  let s := (s.moveContext l core b.granules (b.contextBytes l (b.savedStores.length + b.deniedStores))).tripTest b.id
  match s.block? b.id with
  | none => s
  | some b' =>
    match b'.doomed with
    -- a trip found at re-admission aborts the block before it issues (R353)
    | some cause => s.abortTo b' (nextRung l b' cause)
    | none =>
      let s := s.dropClean core l.ctx
      let s := (s.updCore core fun c => c.takeStores b.savedStores).retryCore core
      let s := s.eachLane b' fun s g k => s.againMwait b' l g k
      let s := s.eachLane b' fun s g k => s.deliverKept b.id g k
      (s.wakeParked.startParks b.id).log evREADMIT l.part l.queue (nat32 b.blkidx) (BitVec.ofNat 64 core)

/-! ## The rows -/

/-- DISPATCH_DECISION: a block is admitted, run again, or dispatched, after the store-fault entries that waited for room (R275). -/
def execDispatchDecision (s : State) : Host.Outcome State Fault Refusal :=
  let s := s.placeHeld
  runEvent s (match s.subject with
    | .part part =>
      match s.part? part with
      | none => none
      | some p => match s.decision p with
        | some (.takeIn blk core) => match s.block? blk with
          | some b => (s.launch? b.launch).map fun l => s.takeIn b l core
          | none => none
        | some (.rerun blk core) => match s.block? blk with
          | some b => (s.launch? b.launch).map fun l => s.startBlock l b core b.rung
          | none => none
        | some (.fresh queue launch core eff) => s.dispatchFresh p queue launch core eff
        | _ => none
    | _ => none)
/-- LAUNCH_ACCEPT: the offered record that the dispatcher serves, or an acceptance that waited for a page (R416, R421). -/
def execLaunchAccept (s : State) : Host.Outcome State Fault Refusal :=
  runEvent s (match s.subject with
    | .queue n =>
      match s.queue? n with
      | none => none
      | some q =>
        if q.accepting.isSome then (if q.st == .enabled then s.accept q else none)
        else match s.part? q.part with
        | some p => if s.decision p == some (.offered n) then (s.resetCredits p n (q.eff p.agestep)).accept q else none
        | none => none
    | _ => none)
/-- CORE_RESERVATION (R423). -/
def execCoreReservation (s : State) : Host.Outcome State Fault Refusal :=
  runEvent s (match s.subject with
    | .reservation part n =>
      match s.part? part, s.queue? n with
      | some p, some q =>
        match s.dispatchingLaunch n with
        | some l =>
          if q.part == part && p.reservation.isNone && q.prio < 7 && q.eff p.agestep == 7 && (s.place p (freshNeed l.lr l.next) (some n)).isNone then
            (s.emptiest p.openCores).map fun c => s.updPart part fun p => { p with reservation := some (n, c) }
          else none
        | none => none
      | _, _ => none
    | _ => none)

/-! ## What every step brings up to date -/

/-- Two blocks name one barrier object (R383). -/
def State.sharesBar (s : State) (a b : Block) (scope num : Nat) : Bool :=
  a.launch == b.launch || match s.bar? a.id scope num, s.bar? b.id scope num with
    | some x, some y => x.comm.isSome && x.comm == y.comm
    | _, _ => false
/-- A block of a communicator that has not joined a round (R310). -/
def State.lacksRound (s : State) (b : Block) (k : Comm) (round : Nat) : Bool :=
  (k.rank? s.dev b.launch b.blkidx).any fun r => decide (k.joined.getD r 0 ≤ round)
/-- A thread of block c waits for an arrival of b: at a barrier of .quad scope or wider (R278), on the completion object of a .die or .pkg
collective (R310), or for the ticket that b holds (R393). -/
def State.waitsFor (s : State) (c : Block) (l : Launch) (g : Group) (t : Thread) (b : Block) : Bool :=
  -- the open phase of an object lacks an arrival of b
  let lacks (scope num : Nat) (open_ : BitVec 16 → Bool) : Bool :=
    2 ≤ scope && s.sharesBar b c scope num && (match s.bar? c.id scope num with
      | some x => open_ x.phase && b.groups.any fun h => !h.ended && h.aphOf scope num != x.phase + 1
      | none => false)
  match t.st with
  | .waiting (.barrier scope num phase _ _) => lacks scope num fun p => !genReached p phase
  -- a group whose previous phase is open (R386)
  | .waiting .arrive => g.arrival.any fun a => lacks a.scope a.num fun p => g.aphOf a.scope a.num != p
  | .waiting (.await _ a _ _) => (s.roundsAt l.part l.ctx a.toNat).any fun x => s.lacksRound b x.1 x.2
  | .waiting (.ticket _ n _) => c.launch == b.launch && l.counter == b.blkidx && !ticketReached l.counter n
  | _ => false
/-- A thread of some block, wherever that block is, waits for a Caravan block (R278). -/
def State.raisedNow (s : State) (b : Block) : Bool :=
  s.blocks.any fun c => c.st != .queued && c.st != .ended && c.st != .killed &&
    (s.launch? c.launch).any fun l => c.groups.any fun g => g.threads.any fun t => s.waitsFor c l g t b
def State.markRaised (s : State) : State :=
  { s with blocks := s.blocks.map fun b =>
      if b.st == .swapped && b.raisedSeq.isNone && s.raisedNow b then { b with raisedSeq := some s.nextSeq } else b }
/-- AGE of the queues that are eligible and unserved (R421). -/
def State.ageQueues (s : State) (ticks : Nat) : State :=
  { s with queues := s.queues.map fun q => match s.part? q.part with
      | some p => if (s.candidate p q).isSome then { q with age := q.age + ticks } else q
      | none => q }

end Sys2Proof.Machine
end

