-- ==== Sys2Proof/Machine/Firmware.lean ====
section
/-! DEFINITION. Partitions, queues, budgets, pre-emption, the watchdog, the drain and the event log: firmware commands and their events
(spec 14 R425-R437; 01 R29; 11 R354). -/

namespace Sys2Proof.Machine

open Sys2Proof

/-- A command's row. -/
def runCommand (code : Nat) (s : State) (f : Subject → Command) : Host.Outcome State Fault Refusal :=
  runEvent s (some (s.command code (f s.subject)))

/-! ## Partitions (R29, R437) -/

/-- Some block holds its allotments on a core of these quads, or a partition that drains has one of them (R431). -/
def State.quadsBusy (s : State) (mask : BitVec 48) : Bool :=
  (s.blocks.any fun b => b.onCore && mask.getLsbD (b.core / 4)) || s.partitions.any fun p => p.draining && p.quads &&& mask != 0
def partSet (x : Subject) : Command := fun s =>
  match x with
  | .partSet mask part =>
    if 16 ≤ part then .error stRANGE
    else if s.quadsBusy mask then .error stBUSY
    else
      let had := s.partitions.filter fun p => p.num == part || p.quads &&& mask != 0
      let ps := if (s.part? part).isSome then s.partitions else s.partitions ++ [Partition.new part 0]
      let moved (c : Nat) : Bool := mask.getLsbD (c / 4)
      let one (p : Partition) : Partition :=
        { p with quads := if p.num == part then p.quads ||| mask else p.quads &&& ~~~mask, closed := p.closed.filter fun c => !moved c,
                 reservation := p.reservation.filter fun r => !moved r.2 }
      let touched (g : GazEntry) : Bool := g.part == part || had.any fun p => p.num == g.part
      .ok ({ s with partitions := ps.map one, gaz := s.gaz.filter fun g => !touched g }, [])
  | _ => .error stRANGE
def execPartSet (s : State) : Host.Outcome State Fault Refusal := runCommand 0x01 s partSet
def partFree (x : Subject) : Command := fun s =>
  match x with
  | .part part =>
    match s.part? part with
    | none => .error stNOENT
    | some p =>
      if p.quads != 0 || s.queues.any fun q => q.part == part && q.st != .absent then .error stBUSY
      else .ok ({ s with partitions := s.partitions.filter fun p => p.num != part }, [])
  | _ => .error stRANGE
def execPartFree (s : State) : Host.Outcome State Fault Refusal := runCommand 0x02 s partFree
/-- PT 4-1,000 us (R272), AGESTEP 1-1,000 us (R421), capacity 4,096-1,048,576 (R410). -/
def partParam (x : Subject) : Command := fun s =>
  match x with
  | .partParam part pt agestep capacity =>
    if (s.part? part).isNone then .error stNOENT
    else if pt < 4 || 1000 < pt || agestep < 1 || 1000 < agestep || capacity < 4096 || 1048576 < capacity then .error stRANGE
    else .ok (s.updPart part fun p => { p with pt := pt, agestep := agestep, capacity := capacity }, [])
  | _ => .error stRANGE
def execPartParam (s : State) : Host.Outcome State Fault Refusal := runCommand 0x08 s partParam
/-- R354. -/
def gazClear (x : Subject) : Command := fun s =>
  match x with
  | .part part =>
    if (s.part? part).isNone then .error stNOENT else .ok ({ s with gaz := s.gaz.filter fun g => g.part != part }, [])
  | _ => .error stRANGE
def execGazClear (s : State) : Host.Outcome State Fault Refusal := runCommand 0x10 s gazClear

/-! ## Queues (R418, R437) -/

/-- What Q_CREATE sets of a descriptor; the rest stands (log 77). -/
def Queue.create (q : Queue) (part ctx : Nat) (qbase : Dword) (qsize : Nat) : Queue :=
  { q with part := part, ctx := ctx, qbase := qbase, qsize := qsize, st := .halted }
def qCreate (x : Subject) : Command := fun s =>
  match x with
  | .qCreate part ctx qbase qsize =>
    let base := normEa s.dev qbase.toNat
    if (s.part? part).isNone then .error stNOENT
    else if 4096 ≤ ctx || !isLocal s.dev base || base % 128 != 0 || qsize < 4 || 16 < qsize then .error stRANGE
    else match (List.range 1024).find? fun n => (s.queue? n).isNone with
    | none => .error stNOQUEUE
    | some n => .ok (s.setQueue ((s.descriptor n).create part ctx qbase qsize), [n])
  | _ => .error stRANGE
def execQCreate (s : State) : Host.Outcome State Fault Refusal := runCommand 0x03 s qCreate
def qConfig (x : Subject) : Command := fun s =>
  match x with
  | .qConfig queue prio wgt wdog serial lok =>
    if (s.queue? queue).isNone then .error stNOENT
    else if 7 < prio || 255 < wgt || 2 ^ 20 ≤ wdog then .error stRANGE
    else .ok (s.updQueue queue fun q =>
      { q with prio := prio, wgt := if wgt == 0 then q.wgt else wgt, wdog := wdog, serial := serial, lok := lok }, [])
  | _ => .error stRANGE
def execQConfig (s : State) : Host.Outcome State Fault Refusal := runCommand 0x04 s qConfig
/-- A command on a queue. -/
def onQueue (x : Subject) (f : Queue → State → Except Nat State) : Command := fun s =>
  match x with
  | .queue n => match s.queue? n with
    | none => .error stNOENT
    | some q => match f q s with
      | .ok t => .ok (t, [])
      | .error e => .error e
  | _ => .error stRANGE
/-- R421: the credit is WGT when the queue is enabled; R435: not before a log ring is placed. A queue of a partition that drains stays HALTED
(R430, log 53). -/
def qEnable (q : Queue) (s : State) : Except Nat State :=
  if s.logRing.isNone || (s.part? q.part).any Partition.draining then .error stBUSY else .ok (s.updQueue q.num fun q => { q with st := .enabled, credit := q.wgt })
def execQEnable (s : State) : Host.Outcome State Fault Refusal := runCommand 0x05 s fun x => onQueue x qEnable
def qHalt (q : Queue) (s : State) : Except Nat State := .ok (s.updQueue q.num fun q => { q with st := .halted })
def execQHalt (s : State) : Host.Outcome State Fault Refusal := runCommand 0x05 s fun x => onQueue x qHalt
def qDestroy (q : Queue) (s : State) : Except Nat State :=
  if q.st != .halted || !(s.incomplete q.num).isEmpty then .error stBUSY
  else .ok ((s.updQueue q.num fun q => { q with st := .absent, accepting := none }).unreserve q.part q.num)
def execQDestroy (s : State) : Host.Outcome State Fault Refusal := runCommand 0x06 s fun x => onQueue x qDestroy
/-- R429. -/
def kick (q : Queue) (s : State) : Except Nat State :=
  .ok (s.updQueue q.num fun q => { q with wdogFrom := if (s.incomplete q.num).isEmpty then none else some s.gtime })
def execKick (s : State) : Host.Outcome State Fault Refusal := runCommand 0x0C s fun x => onQueue x kick

/-! ## Budgets (R425, R426) -/

/-- A LIMIT that CUR has reached throttles at once; one that is raised lifts no throttle of its period (R426). -/
def budgetSet (x : Subject) : Command := fun s =>
  match x with
  | .budget part kind limit =>
    if (s.part? part).isNone then .error stNOENT
    else if 4 ≤ kind then .error stRANGE
    else .ok (s.updPart part fun p => { p with budgets := p.budgets.modify kind fun b => { b with limit := limit.toNat }.reach }, [])
  | _ => .error stRANGE
def execBudgetSet (s : State) : Host.Outcome State Fault Refusal := runCommand 0x07 s budgetSet
def budgetRead (x : Subject) : Command := fun s =>
  match x with
  | .budget part kind _ =>
    match s.part? part with
    | none => .error stNOENT
    | some p => match p.budgets[kind]? with
      | none => .error stRANGE
      | some b => .ok (s, [b.limit, b.cur, b.last, b.total, b.throt])
  | _ => .error stRANGE
def execBudgetRead (s : State) : Host.Outcome State Fault Refusal := runCommand 0x07 s budgetRead
/-- The end of a period for one counter set. -/
def Budget.period (b : Budget) : Budget :=
  { b with last := b.cur, cur := 0, throt := if b.held then (b.throt + 1) % 2 ^ 32 else b.throt, held := false }
/-- BUDGET_PERIOD. -/
def execBudgetPeriod (s : State) : Host.Outcome State Fault Refusal :=
  runEvent s (if s.nextPeriod ≤ s.gtime then
      some { s with nextPeriod := s.nextPeriod + 10000,
                    partitions := s.partitions.map fun p => { p with budgets := p.budgets.map Budget.period } }
    else none)

/-! ## Pre-emption (R427, R428) -/

/-- The n cores that PREEMPT chooses: quads in descending number, the last one from its highest core. -/
def Partition.preemptCores (p : Partition) (n : Nat) : List Nat := p.cores.reverse.take n
/-- Every block on the chosen cores that has room in its swap area is swapped out. -/
def State.vacate (s : State) (cores : List Nat) : State :=
  cores.foldl (fun s c => ((s.blocksOn c).filter fun b => b.st == .resident && b.doomed.isNone).foldl (fun s b =>
    match s.block? b.id, s.launch? b.launch with
    | some b, some l => if (s.swapRoom l b).isSome then s.beginSwap b l else s
    | _, _ => s) s) s
def preempt (part n : Nat) (s : State) : Except Nat State :=
  match s.part? part with
  | none => .error stNOENT
  | some p =>
    if n < 1 || p.cores.length < n then .error stRANGE
    else
      let cs := p.preemptCores n
      .ok ((s.updPart part fun p => { p with
        closed := (p.closed ++ cs).eraseDups, preempting := some cs, reservation := p.reservation.filter fun r => !cs.contains r.2 }).vacate cs)
/-- PREEMPT: the mailbox is busy until PREEMPT_DONE. -/
def execPreempt (s : State) : Host.Outcome State Fault Refusal :=
  runEvent s (match s.subject with
    | .preempt part n =>
      if !s.takes 0x09 then some s
      else match preempt part n s with
      | .error e => some ((s.logCmd 0x09 e).reply 0x09 e [])
      | .ok _ => match preempt part n (s.logCmd 0x09 0) with
        | .ok t => some { t with mbBusy := true, mbCode := 0x09 }
        | .error _ => none
    | _ => none)
/-- The chosen cores without a block. -/
def State.emptyCores (s : State) (cores : List Nat) : Nat := (cores.filter fun c => (s.blocksOn c).isEmpty).length
/-- PREEMPT_DONE: every chosen core is empty, or holds only blocks that found no room in their swap areas. -/
def execPreemptDone (s : State) : Host.Outcome State Fault Refusal :=
  runEvent s (match s.subject with
    | .part part => match s.part? part with
      | none => none
      | some p => match p.preempting with
        | none => none
        | some cs =>
          if cs.any fun c => (s.blocksOn c).any fun b => b.st != .resident || b.doomed.isSome then none
          else
            let n := s.emptyCores cs
            let status := if n < cs.length then stPARTIAL else 0
            let s := s.updPart part fun p => { p with preempting := none }
            some ((s.log evPREEMPTDONE part 0 (nat32 status) (BitVec.ofNat 64 n)).reply 0x09 status [n])
    | _ => none)
def reopen (x : Subject) : Command := fun s =>
  match x with
  | .part part =>
    if (s.part? part).isNone then .error stNOENT else .ok (s.updPart part fun p => { p with closed := [] }, [])
  | _ => .error stRANGE
def execReopen (s : State) : Host.Outcome State Fault Refusal := runCommand 0x0A s reopen

/-! ## Watchdog and drain (R429, R430) -/

/-- What step 3 and 4 of a drain leave of a core: no line, store or atomic-buffer entry, and of its operations those that must still complete
a span (R313). -/
def Core.drained (c : Core) : Core := { c with lines := [], stores := [], buffers := [] }
/-- The same of the package's core: what it has sent is performed (R195). -/
def State.drainCore (s : State) (core : Nat) : State := (s.performSent core (s.core core).sent.length).updCore core Core.drained
/-- A drain of a partition with a launch status. Its launches complete one after the other, and DRAIN-DONE follows the last (R430) (log 53). -/
def State.drain (s : State) (p : Partition) (status : Nat) : State :=
  -- a pre-emption under way ends with status DRAINED (R428)
  let s := if p.preempting.isSome then s.reply 0x09 stDRAINED [] else s
  let s : State := { s with
    queues := s.queues.map fun q => if q.part == p.num && q.st != .absent then { q with st := .halted, accepting := none, wdogFrom := none } else q
    contributions := s.contributions.filter fun x => x.part != p.num
    podBars := s.podBars.filter fun x => x.part != p.num }
  let s := s.updPart p.num fun p => { p with held := [], preempting := none, reservation := none, draining := true }
  -- the operations that ended blocks have left stop too
  let all := s.blocks.filter fun b => s.launchPart b == some p.num
  let mine := all.filter fun b => b.st != .ended && b.st != .killed
  let s := all.foldl (fun s b => s.cancelOps b true) s
  let s := p.cores.foldl (fun s c => if (s.cores.any fun x => x.num == c) then s.drainCore c else s) s
  let s := mine.foldl (fun s b => (s.updBlock b.id fun b => { b with savedStores := [], images := [], doomed := none }).killBlock b.id) s
  let s : State := { s with launches := s.launches.map fun l =>
    if l.part == p.num && !l.complete then
      { l with stopped := true, status := max l.status status, returned := max l.returned l.lr.weight.toNat, bars := [] }
    else l }
  if s.launches.any fun l => l.part == p.num && !l.complete then s
  else s.drainDone p.num
/-- DRAIN (log 32). -/
def drainCommand (x : Subject) : Command := fun s =>
  match x with
  | .part part => match s.part? part with
    | none => .error stNOENT
    | some p => .ok (if p.draining then s else s.drain p 8, [])
  | _ => .error stRANGE
def execDrain (s : State) : Host.Outcome State Fault Refusal := runCommand 0x0B s drainCommand
/-- WDOG_EXPIRE; a second expiry in a partition that drains is ignored (R431). -/
def execWdogExpire (s : State) : Host.Outcome State Fault Refusal :=
  runEvent s (match s.subject with
    | .queue n => match s.queue? n with
      | none => none
      | some q => match q.wdogFrom, s.part? q.part with
        | some t, some p =>
          if q.wdog != 0 && t + 1000 * q.wdog ≤ s.gtime && !p.draining then
            some ((s.log evWDOGEXPIRE q.part n 0 0).drain p 9)
          else none
        | _, _ => none
    | _ => none)

/-! ## The event log (R433-R435, R437) -/

/-- The boot ring's records go to the start of the placed ring (log 16). -/
def evlogSet (x : Subject) : Command := fun s =>
  match x with
  | .evlog base size =>
    if size < 8192 || !frameRange base (32 * size) then .error stRANGE
    else
      let n := s.bootRing.length
      let hints := (s.bootRing.zipIdx.filter fun e => e.1.type == evHINT).map Prod.snd
      let hbm := (s.bootRing.zipIdx).foldl (fun (m : Mem) e => m.writeBytes (base + 32 * e.2) e.1.bytes) s.hbm
      let r : LogRing := { base := base, size := size, readIdx := 0, writeIdx := n, hints := hints }
      .ok (State.releaseHeld s.heldEvents.length { s with logRing := some r, bootRing := [], leftOut := 0, hbm := hbm }, [s.leftOut])
  | _ => .error stRANGE
def execEvlogSet (s : State) : Host.Outcome State Fault Refusal := runCommand 0x11 s evlogSet
def evlogStat (x : Subject) : Command := fun s =>
  match s.logRing with
  | none => .error stRANGE
  | some r =>
    .ok (if x == .flag true then { s with hintsDropped := 0 } else s, [r.readIdx, r.writeIdx, r.hints.length, s.hintsDropped])
def execEvlogStat (s : State) : Host.Outcome State Fault Refusal := runCommand 0x1B s evlogStat
/-- Threads that stopped at a full log go on once it has room (R434). -/
def State.settleAll (s : State) : State :=
  s.blocks.foldl (fun s b => if b.onCore then (List.range b.groups.length).foldl (fun s g => s.settleGroup b.id g) s else s) s
/-- LOG_READ_INDEX_WRITE: the index moves forward over records that have been written; another value is discarded. -/
def execLogReadIndexWrite (s : State) : Host.Outcome State Fault Refusal :=
  runEvent s (match s.subject, s.logRing with
    | .index i, some r =>
      if i < r.readIdx || r.writeIdx < i then some s
      else
        let s : State := { s with logRing := some { r with readIdx := i, hints := r.hints.filter fun h => i ≤ h } }
        some (State.releaseHeld s.heldEvents.length s).settleAll
    | _, _ => none)

end Sys2Proof.Machine
end

