-- ==== Sys2Proof/Machine/Traps.lean ====
section
/-! DEFINITION. TRAP, BKPT, TRET, KILLG, KILLB, FLTRD, the delivery of imprecise records, and the debug port (spec 15 R440-R460). -/

namespace Sys2Proof.Machine

open Sys2Proof

/-! ## Instructions (R451-R456) -/

/-- R452, a P+ fault: the resume PC is the instruction after the TRAP. -/
def execTrap (o : OpI) (s : State) : Host.Outcome State Fault Refusal :=
  runSet (.trap o) s fun c =>
    let ls := c.guarded (.trap o)
    let next := c.issue.pc + BitVec.ofNat 64 (Instr.len (.trap o))
    let s := c.advanceBut s (.trap o) fun x => ls.contains x
    c.raise s (ls.map fun l => { lane := l, fail := mkFail cTRAPI 0 o.imm.toNat, resume := next })

/-- R459: a halt of a group, logged as a FAULT event with code 0x0E. -/
def State.haltGroup (s : State) (b : Block) (l : Launch) (grp lane : Nat) (pc : Dword) (detail : Nat) : State :=
  let region := match s.thread? b.id grp lane with | some t => t.region | none => 0
  (s.logRecord evFAULT l (s.record b l grp lane pc region (mkFail cBKPT 0 detail))).updGroup b.id grp fun g =>
    { g with halted := true, stepping := false, stepped := 0, skipBreak := 0 }
/-- R453: a trap of every thread of the set with debug disabled, a halt of the group behind the BKPT with debug enabled (log 50). -/
def execBkpt (s : State) : Host.Outcome State Fault Refusal :=
  runSet .bkpt s fun c =>
    let next := c.issue.pc + BitVec.ofNat 64 (Instr.len .bkpt)
    if (s.part? c.l.part).any Partition.debug then
      (c.advanceAll s .bkpt).haltGroup c.b c.l c.grp (c.lanes.headD 0) c.issue.pc 1
    else c.raise s (c.lanes.map fun l => { lane := l, fail := mkFail cBKPT 0 0, resume := next })
/-- R454; a pending imprecise record is delivered before anything issues (IMPRECISE_FAULT_DELIVERY). -/
def execTret (s : State) : Host.Outcome State Fault Refusal :=
  jumpLane .tret s fun _ _ t =>
    match t.leaveTrap with
    | some t' => .done t'
    | none => .raise (mkFail cILLEGAL 0 (instrWord .tret).toNat)

/-- R455: every thread of the group is killed; a block left with no live thread is killed. -/
def State.killGroup (s : State) (blk grp : Nat) : State :=
  let s := s.leaveLanes blk grp (BitVec.allOnes 64)
  match s.block? blk with
  | some b => if b.allEnded then s.killBlock blk else s
  | none => s
def execKillg (o : OpZ) (s : State) : Host.Outcome State Fault Refusal :=
  runSet (.killg o) s fun c =>
    if (c.guarded (.killg o)).isEmpty then c.advanceAll s (.killg o) else s.killGroup c.blk c.grp
def execKillb (o : OpZ) (s : State) : Host.Outcome State Fault Refusal :=
  runSet (.killb o) s fun c =>
    if (c.guarded (.killb o)).isEmpty then c.advanceAll s (.killb o) else s.killBlock c.blk

/-- R456: half of the last record, 0 where none was delivered. -/
def Thread.lastWords (t : Thread) (hi : Bool) : List Word :=
  (List.range 4).map fun i => match t.last with
    | some r => r.word (if hi then 4 + i else i)
    | none => 0
def execFltrd (o : OpR) (s : State) : Host.Outcome State Fault Refusal :=
  pureLane (.fltrd o) s fun _ _ t => t.setList o.d.toNat (t.lastWords (o.a.getLsbD 0))

/-! ## Imprecise records (R444) -/

/-- Whether a thread is where a record of R444 is delivered: about to issue, or taken out of a sleep or a wait. -/
def Thread.deliverable (t : Thread) : Bool :=
  t.trap.isNone && t.horizon.isNone && (match t.st with
    | .runnable => true
    | .waiting _ => true
    | .sleeping .. => true
    | .yielding .. => true
    | _ => false)
/-- A record's event still waits for room in the log (R434). -/
def State.unsequenced (s : State) (r : FaultRec) : Bool := s.heldEvents.any fun e => nat32 e.seq == r.seql
/-- The oldest record of a thread is delivered; its REGO is that of the thread where it is interrupted (R442) (log 59). -/
def State.deliverImprecise (s : State) (b : Block) (l : Launch) (grp lane : Nat) (t : Thread) : Option State :=
  match t.imprecise with
  | [] => none
  | r :: rest =>
    let s' := if t.st == .waiting .arrive then s.updGroup b.id grp fun g => g.withdraw lane else s
    if s.unsequenced r then none
    else some ((s'.updThread b.id grp lane fun t => { t with imprecise := rest }).deliver b.id grp lane t.pc
      { r with rego := lo32 (t.region - l.lr.code) })
/-- IMPRECISE_FAULT_DELIVERY. -/
def execImpreciseFaultDelivery (s : State) : Host.Outcome State Fault Refusal :=
  runEvent s (match s.subject with
    | .lane blk grp lane =>
      match s.block? blk, s.group? blk grp with
      | some b, some g =>
        match s.launch? b.launch, g.threads[lane]? with
        | some l, some t =>
          if b.st == .resident && (!g.halted || g.stepping) && t.deliverable then s.deliverImprecise b l grp lane t else none
        | _, _ => none
      | _, _ => none
    | _ => none)

/-! ## Address breakpoints (R458, R459) -/

/-- The first breakpoint at a thread's PC. -/
def State.breakAt (s : State) (p : Partition) (t : Thread) : Option Nat :=
  let at_ (x : Option Dword) : Bool := x.any fun a => normEa s.dev a.toNat == normEa s.dev t.pc.toNat
  p.breaks.findIdx? at_
/-- The lowest lane about to issue at a breakpoint, with the breakpoint's index. -/
def State.breakLane (s : State) (p : Partition) (g : Group) : Option (Nat × Nat) :=
  (List.range 64).findSome? fun l =>
    let t := g.thread l
    if t.st == .runnable && t.horizon.isNone && !g.skipBreak.getLsbD l then (s.breakAt p t).map fun i => (l, i) else none
/-- ADDRESS_BREAKPOINT_HALT; a group that steps takes none (R460). -/
def execAddressBreakpointHalt (s : State) : Host.Outcome State Fault Refusal :=
  runEvent s (match s.subject with
    | .group blk grp =>
      match s.block? blk, s.group? blk grp with
      | some b, some g =>
        match s.launch? b.launch with
        | some l => (s.part? l.part).bind fun p =>
          if p.debug && b.st == .resident && !g.halted then
            (s.breakLane p g).map fun x => s.haltGroup b l grp x.1 (g.thread x.1).pc (2 + 256 * x.2)
          else none
        | none => none
      | _, _ => none
    | _ => none)

/-! ## The debug port (R458-R460) -/

/-- An operation's status and results (R436, R458); one that fails changes nothing else (log 56). -/
def State.debugOp (s : State) (run : Except Nat (State × List Nat)) : State :=
  match run with
  | .ok (t, rs) => { t with result := stOK :: rs }
  | .error e => { s with result := [e] }
/-- The port that an operation goes through. -/
def dbgPortOf (x : Subject) : Option DbgPort :=
  match x with
  | .dbgen p _ | .brk p _ _ | .dbg p _ | .resume p _ _ | .dbgRead p _ _ _ | .dbgWrite p _ _ _ _ => some p
  | _ => none
/-- The page of a partition's debug port in the control space (R464). -/
def dbgPage (part : Nat) : Nat := 0x10000 + 0x1000 * part
/-- A debug operation's row: nothing answers it in Off, and in Standby it waits for the wake (R33, R476). A master without the right to write
the port's page cannot use it (R458, R473): the operation answers nothing, and as CXL.mem it logs an event. -/
def runDebug (s : State) (f : DbgPort → Subject → Except Nat (State × List Nat)) : Host.Outcome State Fault Refusal :=
  runEvent s (if s.power != .active then none
    else match dbgPortOf s.subject with
      | none => some (s.debugOp (.error stRANGE))
      | some p =>
        let page := dbgPage p.part
        if s.aclGrants .control p.master .wr page (page + 4095) then some (s.debugOp (f p s.subject))
        else
          let t := if p.master == 0x21 then s.accessDeny 0x21 page else s
          some { t with result := [] })
/-- The partition's live group in a scheduler's slot, resident on the core. -/
def State.named? (s : State) (p : DbgPort) (n : GroupName) : Option (Block × Group) :=
  (s.blocks.filter fun b => b.st == .resident && b.core == n.core && s.launchPart b == some p.part).findSome? fun b =>
    (b.groups.find? fun g => g.sched == n.sched && g.slot == n.slot && !g.ended).map fun g => (b, g)
/-- Halts a group by request, unless it is halted already. -/
def State.requestHalt (s : State) (b : Block) (l : Launch) (g : Group) : State :=
  if g.halted then s else s.haltGroup b l g.idx 0 (g.thread 0).pc 4

def execDbgen (s : State) : Host.Outcome State Fault Refusal :=
  runDebug s fun at_ x => match x with
    | .dbgen _ on =>
      if (s.part? at_.part).isNone then .error stNOENT else .ok (s.updPart at_.part fun p => { p with debug := on }, [])
    | _ => .error stRANGE
/-- BRK: an address breakpoint, or with address 0 none. -/
def execBrk (s : State) : Host.Outcome State Fault Refusal :=
  runDebug s fun at_ x => match x with
    | .brk _ index address =>
      if (s.part? at_.part).isNone then .error stNOENT
      else if 8 ≤ index then .error stRANGE
      else .ok (s.updPart at_.part fun p => { p with breaks := p.breaks.set index (if address == 0 then none else some address) }, [])
    | _ => .error stRANGE
def execHalt (s : State) : Host.Outcome State Fault Refusal :=
  runDebug s fun at_ x => match x with
    | .dbg _ name =>
      match s.named? at_ name with
      | some (b, g) => match s.launch? b.launch with
        | some l => .ok (s.requestHalt b l g, [])
        | none => .error stBUSY
      | none => .error stBUSY
    | _ => .error stRANGE
def execHaltb (s : State) : Host.Outcome State Fault Refusal :=
  runDebug s fun at_ x => match x with
    | .dbg _ name =>
      match s.named? at_ name with
      | some (b, _) => match s.launch? b.launch with
        | some l => .ok ((b.groups.filter fun g => !g.ended).foldl (fun s g => s.requestHalt b l g) s, [])
        | none => .error stBUSY
      | none => .error stBUSY
    | _ => .error stRANGE
/-- The threads that issue next at the PC they have now. -/
def Group.atPc (g : Group) : LaneSet := laneSet ((List.range 64).filter fun l => (g.thread l).st == .runnable && (g.thread l).horizon.isNone)
/-- The halt is cleared; a breakpoint at a thread's PC is not taken for its first instruction. -/
def Group.unhalt (g : Group) : Group := if g.halted then { g with halted := false, stepping := false, stepped := 0, skipBreak := g.atPc } else g
def execResume (s : State) : Host.Outcome State Fault Refusal :=
  runDebug s fun at_ x => match x with
    | .resume _ name block =>
      match s.named? at_ name with
      | some (b, g) =>
        if block then
          if b.groups.any fun g => g.halted then .ok (s.updBlock b.id fun b => { b with groups := b.groups.map Group.unhalt }, [])
          else .error stBUSY
        else if g.halted then .ok (s.updGroup b.id g.idx Group.unhalt, []) else .error stBUSY
      | none => .error stBUSY
    | _ => .error stRANGE
/-- R460: the halted group may take one issue opportunity. -/
def execStep (s : State) : Host.Outcome State Fault Refusal :=
  runDebug s fun at_ x => match x with
    | .dbg _ name =>
      match s.named? at_ name with
      | some (b, g) => if g.halted then .ok (s.updGroup b.id g.idx fun g => { g with stepping := true }, []) else .error stBUSY
      | none => .error stBUSY
    | _ => .error stRANGE

/-- Word i of a record replaced (R440, R456). -/
def FaultRec.setWord (r : FaultRec) (i : Nat) (x : Word) : FaultRec :=
  match i with
  | 0 => { r with grp := x.extractLsb' 14 7, lane := x.extractLsb' 8 6, code := x.extractLsb' 0 8 }
  | 1 => { r with detail := x }
  | 2 => { r with addr := concat (hi32 r.addr) x }
  | 3 => { r with addr := concat x (lo32 r.addr) }
  | 4 => { r with pco := x }
  | 5 => { r with rego := x }
  | 6 => { r with block := x }
  | _ => { r with seql := x }
/-- Whether a group has an item: registers within its allotments, 64 x 64 elements of its accumulator tiles. -/
def Group.hasItem (g : Group) (i : DbgItem) : Bool :=
  match i with
  | .v n => decide (n < g.vallot)
  | .s n => decide (n < g.uallot)
  | .p n => decide (n < 7)
  | .k n => decide (n < 12)
  | .acc t i j => decide (t < g.acc.length) && decide (i < 64) && decide (j < 64)
  | .trapRecord i => decide (i < 8)
  | _ => true
/-- What an item holds; trap state reads 0 outside a handler. -/
def Group.readItem (g : Group) (t : Thread) (i : DbgItem) : Nat :=
  let inTrap (f : Trap → Nat) : Nat := match t.trap with | some k => f k | none => 0
  match i with
  | .v n => (t.vr n).toNat
  | .s n => (g.sr n).toNat
  | .p n => if t.pr n then 1 else 0
  | .k n => (g.kr n).toNat
  | .acc a i j => ((g.tile a).get i j).toNat
  | .pc => t.pc.toNat
  | .region => t.region.toNat
  | .fpenv => t.fpenv.toNat
  | .fpflags => t.fpflags.toNat
  | .trapResume => inTrap fun k => k.resume.toNat
  | .trapRegion => inTrap fun k => k.region.toNat
  | .trapRecord i => inTrap fun k => (k.record.word i).toNat
/-- One element of a tile replaced. -/
def Tile.put (t : Tile) (i j : Nat) (x : Word) : Tile := Tile.ofFn fun a b => if a == i && b == j then x else t.get a b
/-- A write of an item; none for trap state outside a handler. -/
def Group.writeItem (g : Group) (lane : Nat) (i : DbgItem) (x : Dword) : Option Group :=
  let thread (f : Thread → Thread) : Option Group := some (g.updThread lane f)
  let inTrap (f : Trap → Trap) : Option Group :=
    if (g.thread lane).trap.isNone then none else some (g.updThread lane fun t => { t with trap := t.trap.map f })
  match i with
  | .v n => (thread fun t => t.setV n (lo32 x)).map fun g => g.spoil [wv n 1]
  | .s n => some (g.setS n (lo32 x))
  | .p n => thread fun t => t.setP n (x.getLsbD 0)
  | .k n => some (g.setK n x)
  | .acc a i j => some (g.setTile a ((g.tile a).put i j (lo32 x)))
  | .pc => thread fun t => t.jump x
  | .region => thread fun t => t.setRegion x
  | .fpenv => thread fun t => { t with fpenv := writeFpenv t.fpenv (lo32 x) }
  | .fpflags => thread fun t => { t with fpflags := writeFpflags (lo32 x) }
  | .trapResume => inTrap fun k => { k with resume := x }
  | .trapRegion => inTrap fun k => { k with region := x }
  | .trapRecord n => inTrap fun k => { k with record := k.record.setWord n (lo32 x) }

def execDbgRd (s : State) : Host.Outcome State Fault Refusal :=
  runDebug s fun at_ x => match x with
    | .dbgRead _ name lane item =>
      match s.named? at_ name with
      | some (_, g) =>
        if !g.halted then .error stBUSY
        else if 64 ≤ lane || !g.hasItem item then .error stRANGE
        else .ok (s, [g.readItem (g.thread lane) item])
      | none => .error stBUSY
    | _ => .error stRANGE
def execDbgWr (s : State) : Host.Outcome State Fault Refusal :=
  runDebug s fun at_ x => match x with
    | .dbgWrite _ name lane item value =>
      match s.named? at_ name with
      | some (b, g) =>
        if !g.halted then .error stBUSY
        else if 64 ≤ lane || !g.hasItem item then .error stRANGE
        else match g.writeItem lane item value with
          | some g' => .ok (s.updGroup b.id g.idx fun _ => g', [])
          | none => .error stBUSY
      | none => .error stBUSY
    | _ => .error stRANGE

end Sys2Proof.Machine
end

