-- ==== Sys2Proof/Machine/Platform.lean ====
section
/-! DEFINITION. The host port, the control space, the links, firmware identity, power and error reporting (spec 16; 01 R21, R31-R33;
07 R242; 06 R192). -/

namespace Sys2Proof.Machine

open Sys2Proof

/-- A command's row that may change the platform; what the spec lets it keep. -/
def runPlatCommand (code : Nat) (s : State) (f : Subject → Command) : Host.Outcome State Fault Refusal :=
  runPlatform s (some (s.command code (f s.subject)))

/-! ## The control space (R4, R5, R461, R464, R465) -/

/-- A code that R436, R437 and R473 give a command. -/
def commandCode (code : Nat) : Bool := decide (1 ≤ code) && decide (code ≤ 0x1B)
/-- The rows of the commands, with their codes. -/
def commandRows : List (Instr × Nat) :=
  [(.partSet, 0x01), (.partFree, 0x02), (.qCreate, 0x03), (.qConfig, 0x04), (.qEnable, 0x05), (.qHalt, 0x05), (.qDestroy, 0x06),
   (.budgetSet, 0x07), (.budgetRead, 0x07), (.partParam, 0x08), (.preempt, 0x09), (.reopen, 0x0A), (.drain, 0x0B), (.kick, 0x0C),
   (.xlate, 0x0D), (.migrate, 0x0E), (.commCreate, 0x0F), (.commFree, 0x0F), (.gazClear, 0x10), (.evlogSet, 0x11),
   (.replicaSet, 0x12), (.podSet, 0x13), (.aclSet, 0x14), (.pwrState, 0x15), (.pwrCap, 0x15), (.eccRead, 0x16), (.selftest, 0x17),
   (.fwLoad, 0x18), (.attest, 0x19), (.netSet, 0x1A), (.evlogStat, 0x1B)]
/-- A command that exists starts: its row, with the operands that the argument words give it, is what comes in next; words that give none are
an argument out of its range (log 62). -/
def State.startCommand (s : State) (code : Nat) : State :=
  match Config.commandArgs code s.mailbox with
  | some (i, x) =>
    if commandRows.contains (i, code) then { s with inbox := (i, x) :: s.inbox } else (s.logCmd code stRANGE).reply code stRANGE []
  | none => (s.logCmd code stRANGE).reply code stRANGE []
/-- A host write of the control register at a byte offset, one word: CODE of MBCTL, or an argument word of the mailbox; reserved and
read-only fields are discarded. The status of a code without a command is open (log 2). -/
def State.writeRegister (s : State) (offset : Nat) (value : Word) : State :=
  if offset == 0 then
    let code := value.toNat % 256
    if !s.takes code then s
    else if commandCode code then s.startCommand code
    else
      let status := s.choose 256
      (s.tickFree.logCmd code status).reply code status []
  else if 0x100 ≤ offset && offset < 0x400 && offset % 4 == 0 then
    { s with mailbox := assocSet s.mailbox (offset / 4) value }
  else s
/-- What a host read of a word of the control space returns (R461, R464): MBCTL, or a word of the mailbox; it changes nothing. -/
def State.readRegister (s : State) (offset : Nat) : Word :=
  if offset == 0 then nat32 (s.mbBusy.toNat * 2 ^ 31 + s.mbStatus % 256 * 2 ^ 16 + s.mbCode % 256)
  else if 0x100 ≤ offset && offset < 0x400 && offset % 4 == 0 then assocD s.mailbox (offset / 4) 0
  else 0
/-- REGISTER_WRITE: a CXL.io write (master 0x20); without the right it receives Unsupported Request (R473). -/
def execRegisterWrite (s : State) : Host.Outcome State Fault Refusal :=
  runPlatform s (match s.subject with
    | .register offset value =>
      if s.power != .active then none
      else if s.aclGrants .control 0x20 .wr offset (offset + 3) then some (s.writeRegister offset value)
      else some { s with result := [] }
    | _ => none)

/-! ## The pod (R466, R467) -/

/-- A resident block (R437, R473). -/
def State.anyResident (s : State) : Bool := s.blocks.any Block.onCore
def podSet (x : Subject) : Command := fun s =>
  match x with
  | .podSet dev p routes =>
    if s.anyResident then .error stBUSY
    else if p < 1 || 576 < p || p ≤ dev || routes.any fun r => p ≤ r.1 then .error stRANGE
    else .ok ({ s with dev := dev, podSize := p, routes := routes, unreachable := [] }, [])
  | _ => .error stRANGE
def execPodSet (s : State) : Host.Outcome State Fault Refusal := runPlatCommand 0x13 s podSet

/-- LINK_DOWN: the event carries the port (log 13). -/
def execLinkDown (s : State) : Host.Outcome State Fault Refusal :=
  runPlatform s (match s.subject with
    | .port p =>
      if s.power == .off || 36 ≤ p || (assoc s.portsDown p).isSome then none
      else some { (s.log evLINKDOWN 0 0 (nat32 p) 0) with portsDown := s.portsDown ++ [(p, s.gtime)] }
    | _ => none)
/-- The ticks since some port last reached a device: since the last failure among its ports, or since reset where it has none (log 64). -/
def State.unreachedFor (s : State) (dev : Nat) : Nat :=
  let mine := s.portsDown.filter fun p => (assocD s.routes dev (0 : BitVec 36)).getLsbD p.1
  s.gtime - mine.foldl (fun t p => max t p.2) 0
/-- DEVICE_UNREACHABLE: 100 us without a port. -/
def execDeviceUnreachable (s : State) : Host.Outcome State Fault Refusal :=
  runPlatform s (match s.subject with
    | .device d =>
      if d < s.podSize && d != s.dev && (s.livePorts d).isEmpty && !s.unreachable.contains d && 100000 ≤ s.unreachedFor d then
        some { s with unreachable := s.unreachable ++ [d] }
      else none
    | _ => none)
/-- PORT_RETURN. -/
def execPortReturn (s : State) : Host.Outcome State Fault Refusal :=
  runPlatform s (match s.subject with
    | .port p =>
      if (assoc s.portsDown p).isNone then none
      else some { s with portsDown := s.portsDown.filter fun x => x.1 != p
                         unreachable := s.unreachable.filter fun d => !(assocD s.routes d (0 : BitVec 36)).getLsbD p }
    | _ => none)
/-- FLIT_REPLAY: counted for its port, which works. -/
def execFlitReplay (s : State) : Host.Outcome State Fault Refusal :=
  runPlatform s (match s.subject with
    | .port p =>
      if s.power != .active || 36 ≤ p || (assoc s.portsDown p).isSome then none
      else some { s with replays := s.replays.modify p (· + 1) }
    | _ => none)

/-- What a requesting device is answered: 0 and the bytes, 1 and the missing permission of a denial, 2 where nothing is mapped or the
page is FAILED, 3 while the page is not resident (log 63). -/
def State.podReply (s : State) (words : List Nat) : State := { s with result := words }
/-- The old value at a place, and the new one where there is one, as one event at the home. -/
def State.podModify (s : State) (r : Req) (ea n : Nat) (p : Place) (f : Nat → Option Nat) : State :=
  let (s, bs) := s.homeRead r ea p n
  let old := ofBytes bs
  let s := match f old with
    | some x => s.homeWrite r ea (p.line) ((bytesLE n x).zipIdx.map fun (b : Byte × Nat) => (ea % 128 + b.2, b.1))
    | none => s
  s.podReply [0, old]
def State.podPerform (s : State) (r : Req) (ea : Nat) (p : Place) (a : PodAccess) : State :=
  match a with
  | .read len => let (s, bs) := s.homeRead r ea p len; s.podReply (0 :: bs.map BitVec.toNat)
  | .write bytes => (s.homeWrite r ea p.line (bytes.zipIdx.map fun (b : Byte × Nat) => (ea % 128 + b.2, b.1))).podReply [0]
  | .atom op wide x =>
    let n := if wide then 8 else 4
    s.podModify r ea n p fun old => some (atomOp op (8 * n) old (x.toNat % 2 ^ (8 * n)))
  | .cas wide compare new =>
    let n := if wide then 8 else 4
    s.podModify r ea n p fun old => if old == compare.toNat % 2 ^ (8 * n) then some (new.toNat % 2 ^ (8 * n)) else none
def podBytes (a : PodAccess) : Nat :=
  match a with
  | .read len => len
  | .write bytes => bytes.length
  | .atom _ wide _ => if wide then 8 else 4
  | .cas wide _ _ => if wide then 8 else 4
def podRight (a : PodAccess) : Right :=
  match a with
  | .read _ => .rd
  | .write _ => .wr
  | _ => .atomic
/-- POD_REMOTE_ACCESS: a request from another device, within one line of this device's memory, performed at its home (R192, R242). -/
def execPodRemoteAccess (s : State) : Host.Outcome State Fault Refusal :=
  runEvent s (match s.subject with
    | .pod master ctx addr a =>
      let ea := normEa s.dev addr.toNat
      let n := podBytes a
      let r : Req := { part := master % 16, engine := decide (0x10 ≤ master), ctx := ctx, die := homeDie ea }
      if s.power != .active || !isLocal s.dev ea || n == 0 || 128 < ea % 128 + n then none
      else match s.answer r (podRight a) (ea / 128 * 128) 128 with
      | .served p _ _ _ _ => some (s.podPerform r ea (p.add (ea % 128)) a)
      | .direct p _ => some (s.podPerform r ea (p.add (ea % 128)) a)
      | .absent k => some ((s.requestPage k r.part 0).podReply [3])
      | .filling _ => some (s.podReply [3])
      | .denied d => some (s.podReply [1, d])
      | .rejected k => some ((s.tableError k r.part 0).podReply [2])
      | _ => some (s.podReply [2])
    | _ => none)

/-! ## The host (R461-R463) -/

/-- Granules of 1 GiB, in the frames of one die (R461, R462). -/
def HdmDecoder.ok (d : HdmDecoder) : Bool :=
  d.base % 2 ^ 30 == 0 && d.size % 2 ^ 30 == 0 && d.frame % 2 ^ 16 == 0 && decide (d.die < 4) && decide (d.frame + d.size ≤ 2 ^ 38)
/-- The frame that one of the 4 HDM decoders maps a host physical address to. -/
def State.hdmPlace (s : State) (hpa : Nat) : Option Nat :=
  ((s.hdm.take 4).find? fun d => d.ok && decide (d.base ≤ hpa) && decide (hpa < d.base + d.size)).map fun d =>
    d.die * 2 ^ 40 + d.frame + (hpa - d.base)
/-- The frames and the slice of an access grant it to a master (R471, R472). -/
def State.frameGrants (s : State) (master : Nat) (right : Right) (a n : Nat) : Bool :=
  let off := a % 2 ^ 40
  s.aclGrants (.hbm (a / 2 ^ 40)) master right off (off + n - 1) && s.aclGrants (.slices (a / 2 ^ 40)) master right 0 0
/-- The images of the lines that n bytes from a frame address meet are resolved (R400, R462). -/
def State.resolveFrames (s : State) (a n : Nat) : State :=
  (spansOf a n).foldl (fun s line => s.resolveLine none (.hbm (line * 128))) s
/-- The lines are used at their slices, which hold them, or else at their controllers; a host access is charged to no partition (R425). -/
def State.useFrames (s : State) (a n : Nat) (write : Bool) : State :=
  (spansOf a n).foldl (fun s line =>
    if s.l2.any fun x => x.place == .hbm (128 * line) then
      if write then { s with l2 := s.l2.map fun x => if x.place == .hbm (128 * line) then { x with dirty := true } else x } else s
    else s.accessHbm none (128 * line) 2) s
/-- HOST_CXL_MEM_ACCESS: untranslated, at the frames' home slices. -/
def execHostCxlMemAccess (s : State) : Host.Outcome State Fault Refusal :=
  runEvent s (match s.subject with
    | .host hpa access =>
      let n := match access with | .read len => len | .write bytes => bytes.length
      if s.power != .active || n == 0 then none
      else match s.hdmPlace hpa, s.hdmPlace (hpa + n - 1) with
      | some a, some z =>
        if z != a + n - 1 then none
        else
        -- no uncorrectable byte is delivered or written over (R31)
        let broken := (spansOf a n).any fun line => s.spoiled (.hbm (128 * line))
        match access with
        | .read _ =>
          if s.frameGrants 0x21 .rd a n then
            if broken then some { s with result := [] } else
            let s := (s.resolveFrames a n).useFrames a n false
            some { s with result := (s.hbm.readBytes a n).map BitVec.toNat }
          else some { s.accessDeny 0x21 hpa with result := List.replicate n 0 }
        | .write bytes =>
          if s.frameGrants 0x21 .wr a n then
            if broken then some { s with result := [] } else
            let s := (s.resolveFrames a n).useFrames a n true
            some { s with hbm := s.hbm.writeBytes a bytes, result := [] }
          else some { s.accessDeny 0x21 hpa with result := [] }
      | _, _ => none
    | _ => none)
/-- HOST_SNOOP: the answer is a miss (0), since no host line is cached here. -/
def execHostSnoop (s : State) : Host.Outcome State Fault Refusal :=
  runEvent s (match s.subject with
    | .snoop _ => if s.power == .active then some { s with result := [0] } else none
    | _ => none)
/-- The value a PCIe AtomicOp writes over the old one. -/
def hostModify (op : HostAtomic) (w old : Nat) : Nat :=
  match op with
  | .fetchAdd x => (old + x.toNat) % 2 ^ w
  | .swap x => x.toNat % 2 ^ w
  | .cas compare new => if old == compare.toNat % 2 ^ w then new.toNat % 2 ^ w else old
/-- HOST_ATOMICOP: FetchAdd, Swap or CAS on memory that an HDM decoder maps, as CXL.io (master 0x20); Unsupported Request, which answers
nothing, where the tables deny it or the address is not aligned. -/
def execHostAtomicop (s : State) : Host.Outcome State Fault Refusal :=
  runEvent s (match s.subject with
    | .atomicOp hpa wide op =>
      let n := if wide then 8 else 4
      if s.power != .active then none
      else match s.hdmPlace hpa with
      | some a =>
        if a % n == 0 && !s.spoiled (.hbm a) && s.frameGrants 0x20 .atomic a n then
          let s := (s.resolveFrames a n).useFrames a n true
          let old := s.hbm.readNat a n
          some { s with hbm := s.hbm.writeNat a n (hostModify op (8 * n) old), result := [old] }
        else some { s with result := [] }
      | none => none
    | _ => none)

/-! ## Access tables and network addresses (R469, R471-R473) -/

/-- A target that the package has. -/
def targetOk (t : AclTarget) : Bool :=
  match t with
  | .hbm die => decide (die < 4)
  | .slices die => decide (die < 4)
  | .control => true
  | .horaris port => decide (port < 36)
  | .ethernet port => decide (port < 8)
/-- The fields of an entry (R472); reserved bits are discarded (R5). -/
def aclEntryOf (t : AclTarget) (index : Nat) (e : BitVec 128) : AclEntry :=
  { target := t, index := index, last := (e.extractLsb' 84 44).toNat, first := (e.extractLsb' 40 44).toNat,
    master := (e.extractLsb' 4 6).toNat, at_ := e.getLsbD 2, wr := e.getLsbD 1, rd := e.getLsbD 0 }
def aclSet (x : Subject) : Command := fun s =>
  match x with
  | .acl target index entry =>
    if !targetOk target || 64 ≤ index then .error stRANGE
    else
      let rest := s.acl.filter fun e => !(e.target == target && e.index == index)
      .ok ({ s with acl := if entry.getLsbD 16 then rest ++ [aclEntryOf target index entry] else rest }, [])
  | _ => .error stRANGE
def execAclSet (s : State) : Host.Outcome State Fault Refusal := runPlatCommand 0x14 s aclSet
def netSet (x : Subject) : Command := fun s =>
  match x with
  | .net port ip => if 8 ≤ port then .error stRANGE else .ok ({ s with netAddr := s.netAddr.set port ip }, [])
  | _ => .error stRANGE
def execNetSet (s : State) : Host.Outcome State Fault Refusal := runPlatCommand 0x1A s netSet

/-! ## Firmware identity (R474, R475) -/

/-- R474's three conditions. -/
def imageAccepted (bytes : List Byte) : Bool :=
  shake256 (Config.imageKey bytes) == Config.romKeyDigest && Config.signatureOk bytes && decide (Config.fuseCount.val ≤ Config.imageVersion bytes)
/-- FW_LOAD, from the package's HBM (log 22): an image has at least its key and its signature. -/
def fwLoad (x : Subject) : Command := fun s =>
  match x with
  | .image address length =>
    let bytes := s.hbm.readBytes address length
    if length < 64 + 29792 || !frameRange address length then .error stRANGE
    else if imageAccepted bytes then
      .ok ({ s with fwValid := true, fwVersion := Config.imageVersion bytes, fwImage := bytes }, [])
    else .error stAUTH
  | _ => .error stRANGE
def execFwLoad (s : State) : Host.Outcome State Fault Refusal := runPlatCommand 0x18 s fwLoad

/-- A list cut or filled with zeros to n bytes. -/
def fitBytes (n : Nat) (l : List Byte) : List Byte := (List.range n).map fun i => l.getD i 0
/-- The partition, access-table and pod configuration as numbers. -/
def State.configNumbers (s : State) : List Nat :=
  let target (t : AclTarget) : List Nat := match t with
    | .hbm d => [0, d]
    | .slices d => [1, d]
    | .control => [2, 0]
    | .horaris p => [3, p]
    | .ethernet p => [4, p]
  s.partitions.flatMap (fun p => [p.num, p.quads.toNat])
    ++ s.acl.flatMap (fun e => target e.target ++ [e.index, e.first, e.last, e.master, e.at_.toNat, e.wr.toNat, e.rd.toNat])
    ++ [s.dev, s.podSize] ++ s.routes.flatMap fun r => [r.1, r.2.toNat]
/-- The report: nonce, the measurements of the ROM, the firmware image and the configuration, and the device key's signature. -/
def State.report (s : State) (nonce : BitVec 256) : List Byte :=
  let body := bytesLE 32 nonce.toNat ++ fitBytes 64 Config.romMeasurement ++ shake256 s.fwImage
    ++ fitBytes 64 (Config.configMeasurement s.configNumbers)
  body ++ fitBytes 29792 (Config.deviceSignature body)
/-- The buffer is a frame address of the package (log 22). -/
def attest (x : Subject) : Command := fun s =>
  match x with
  | .attest nonce buffer =>
    let r := s.report nonce
    if !frameRange buffer r.length then .error stRANGE
    else .ok ({ s with hbm := s.hbm.writeBytes buffer r }, [])
  | _ => .error stRANGE
def execAttest (s : State) : Host.Outcome State Fault Refusal := runPlatCommand 0x19 s attest

/-! ## Power (R21, R32, R33, R476, R477) -/

/-- Every queue is HALTED or ABSENT and no partition has a block, those not yet dispatched included (R271). -/
def State.quiet (s : State) : Bool :=
  s.queues.all (fun q => q.st != .enabled) && (s.blocks.all fun b => b.st == .ended || b.st == .killed) && !s.launches.any Launch.dispatching
def pwrState (x : Subject) : Command := fun s =>
  match x with
  | .flag true => .ok ({ s with power := .active }, [])
  | .flag false => if s.quiet then .ok ({ s with power := .standby }, []) else .error stBUSY
  | _ => .error stRANGE
def execPwrState (s : State) : Host.Outcome State Fault Refusal := runPlatCommand 0x15 s pwrState
/-- The cap of the package, with a report of each die's rail power (R477, log 66). -/
def pwrCap (x : Subject) : Command := fun s =>
  match x with
  | .watts w =>
    if w < 2000 || 10000 < w || w % 100 != 0 then .error stRANGE
    else .ok ({ s.tickFree with powerCap := w }, (List.range 4).map fun die => Config.railPower die s.freeCount)
  | _ => .error stRANGE
def execPwrCap (s : State) : Host.Outcome State Fault Refusal := runPlatCommand 0x15 s pwrCap
/-- STANDBY_WAKE. -/
def execStandbyWake (s : State) : Host.Outcome State Fault Refusal :=
  runPlatform s (if s.power == .standby then some { s with power := .active } else none)
/-- What is left of the package without power: what stands outside it (the host's and other devices' memory, the pager's store, the
platform's CXL configuration), the inputs under way and the model's own counter of free values (log 68). -/
def State.lost (s : State) : State :=
  { State.reset with host := s.host, remote := s.remote, backing := s.backing, hdm := s.hdm, hostBase := s.hostBase,
                     freeCount := s.freeCount, inbox := s.inbox }
/-- POWER_ON: full reset, with a valid firmware image or (`.flag false`) with none (R474). -/
def execPowerOn (s : State) : Host.Outcome State Fault Refusal :=
  runPlatform s (if s.power == .off then some { s.lost with fwValid := s.subject != .flag false } else none)
/-- POWER_OFF. -/
def execPowerOff (s : State) : Host.Outcome State Fault Refusal :=
  runPlatform s (if s.power == .off then none else some { s.lost with power := .off })
/-- ARITHMETIC_CLOCK_STEP: 0.1 GHz, between 1.2 and 2.7 GHz. -/
def execArithmeticClockStep (s : State) : Host.Outcome State Fault Refusal :=
  runPlatform s (match s.subject with
    | .clockStep die raise =>
      let f := s.freq.getD die 0
      let g := if raise then f + 1 else f - 1
      if s.power == .active && die < 4 && 12 ≤ g && g ≤ 27 then some { s with freq := s.freq.set die g } else none
    | _ => none)

/-! ## Error reporting (R478, R479) -/

/-- Classes: 0 register files, 1 L1, 2 L2, 3 tile store, 4-7 the die's HBM stacks (log 65). -/
def eccRead (x : Subject) : Command := fun s =>
  match x with
  | .ecc cls die clear =>
    if 8 ≤ cls || 4 ≤ die then .error stRANGE
    else
      let mine (c : Nat × Nat × Nat) : Bool := c.1 == cls && c.2.1 == die
      let n := match s.eccCounts.find? mine with | some c => c.2.2 | none => 0
      -- what the replica service compares with starts again from 0 (R479)
      .ok (if clear then { s with eccCounts := s.eccCounts.filter (fun c => !mine c)
                                  pair := s.pair.map fun p => { p with counts := p.counts.filter fun c => !mine c } } else s, [n])
  | _ => .error stRANGE
def execEccRead (s : State) : Host.Outcome State Fault Refusal := runPlatCommand 0x16 s eccRead
/-- The cores that fail are the subject's; they are kept until package reset, and the command returns them (log 66). -/
def selftest (x : Subject) : Command := fun s =>
  match x with
  | .selftest part failures =>
    match s.part? part with
    | none => .error stNOENT
    | some p =>
      if s.blocks.any fun b => s.launchPart b == some part && b.st != .ended && b.st != .killed then .error stBUSY
      else
        let bad := p.cores.filter fun c => failures.contains c
        .ok ({ s with selftestFailed := s.selftestFailed ++ bad.filter fun c => !s.selftestFailed.contains c }, bad)
  | _ => .error stRANGE
def execSelftest (s : State) : Host.Outcome State Fault Refusal := runPlatCommand 0x17 s selftest

end Sys2Proof.Machine
end

