-- ==== Sys2Proof/Machine/Uniform.lean ====
section
/-! DEFINITION. Uniform registers (spec 04 R121, R134, R135, R150, R151) and system registers (R128-R131). -/

namespace Sys2Proof.Machine

open Sys2Proof

/-! ## Uniform arithmetic (R121, R150) -/

/-- sD := f a c, once for the set. -/
def uniformS (i : Instr) (o : OpF8) (s : State) (f : Word → Word → Word) : Host.Outcome State Fault Refusal :=
  onceGroup i s fun _ _ g => g.setS o.d.toNat (f (g.sr o.a.toNat) (uniformC g (modsOf o.m).c))

def execSadd (o : OpF8) (s : State) : Host.Outcome State Fault Refusal := uniformS (.sadd o) o s fun a c => a + c
def execSsub (o : OpF8) (s : State) : Host.Outcome State Fault Refusal := uniformS (.ssub o) o s fun a c => a - c
def execSmul (o : OpF8) (s : State) : Host.Outcome State Fault Refusal := uniformS (.smul o) o s fun a c => a * c
def execSand (o : OpF8) (s : State) : Host.Outcome State Fault Refusal := uniformS (.sand o) o s fun a c => a &&& c
def execSor (o : OpF8) (s : State) : Host.Outcome State Fault Refusal := uniformS (.sor o) o s fun a c => a ||| c
def execSxor (o : OpF8) (s : State) : Host.Outcome State Fault Refusal := uniformS (.sxor o) o s fun a c => a ^^^ c
def execSshl (o : OpF8) (s : State) : Host.Outcome State Fault Refusal := uniformS (.sshl o) o s fun a c => shlBy a c.toNat
def execSshr (o : OpF8) (s : State) : Host.Outcome State Fault Refusal := uniformS (.sshr o) o s fun a c => shrBy a c.toNat
/-- R151. -/
def execSsetp (cmp : BitVec 4) (o : OpF8) (s : State) : Host.Outcome State Fault Refusal :=
  pureLane (.ssetp cmp o) s fun g _ t =>
    t.setP (o.d.toNat % 8) (intCompare cmp.toNat (g.sr o.a.toNat) (uniformC g (modsOf o.m).c))
/-- R135, F 8: a vector operand is that of the lowest guard-true lane. -/
def execSmov (o : OpU) (s : State) : Host.Outcome State Fault Refusal :=
  onceGroup (.smov o) s fun t _ g => g.setS o.d.toNat (operandB g t o.bk o.b)
/-- R134. -/
def execSmovi (o : OpL) (s : State) : Host.Outcome State Fault Refusal :=
  onceGroup (.smovi o) s fun _ _ g => g.setS o.d.toNat o.lit

/-! ## System registers (R128-R130) -/

/-- Word i of TRAPINFO (R447), 0 outside a handler. -/
def Thread.trapInfo (t : Thread) (i : Nat) : Word :=
  match t.trap with
  | none => 0
  | some k =>
    match i with
    | 0 => lo32 k.record.low
    | 1 => k.record.detail
    | 2 => lo32 k.resume
    | _ => hi32 k.resume

/-- A system register as a lane reads it; 32-bit registers in the low half. -/
def State.sysReg (s : State) (c : Sel) (lane : Nat) (t : Thread) (n : Nat) : Dword :=
  let w (x : Nat) : Dword := BitVec.ofNat 64 x
  let lr := c.l.lr
  match n with
  | 0x00 => w lane
  | 0x01 => w c.g.idx
  | 0x02 => w lr.groups
  | 0x03 => w c.b.blkidx
  | 0x04 => w (c.b.blkidx % lr.x)
  | 0x05 => w (c.b.blkidx / lr.x % lr.y)
  | 0x06 => w (c.b.blkidx / (lr.x * lr.y))
  | 0x07 => w (coreInQuad c.b.core)
  | 0x08 => w (quadOf c.b.core)
  | 0x09 => w (dieOf c.b.core)
  | 0x0A => w s.dev
  | 0x10 => w c.b.rung
  | 0x11 => t.region
  | 0x18 => t.fpenv.setWidth 64
  | 0x19 => t.fpflags.setWidth 64
  | 0x1A => c.g.mmaflags.setWidth 64
  | 0x20 => (t.trapInfo 0).setWidth 64
  | 0x21 => (t.trapInfo 1).setWidth 64
  | 0x22 => (t.trapInfo 2).setWidth 64
  | 0x23 => (t.trapInfo 3).setWidth 64
  | 0x28 => w (s.clocks.getD (dieOf c.b.core) 0)
  | 0x29 => w s.gtime
  | 0x30 => w c.g.vallot
  | _ => w c.g.uallot

/-- R129. -/
def execSrd (o : OpR) (s : State) : Host.Outcome State Fault Refusal :=
  let wide := sysRegs64.contains o.a.toNat
  runSet (.srd o) s fun c =>
    if o.bk then
      match c.guarded (.srd o) with
      | [] => c.advanceAll s (.srd o)
      | l :: _ =>
        let x := s.sysReg c l (c.thread l) o.a.toNat
        c.advanceAll (s.updGroup c.blk c.grp fun g =>
          if wide then g.setSPair o.d.toNat x else g.setS o.d.toNat (lo32 x)) (.srd o)
    else c.apply s (c.laneStep (.srd o) fun l t =>
      let x := s.sysReg c l t o.a.toNat
      .done ((if wide then t.setPair o.d.toNat x else t.setV o.d.toNat (lo32 x)).advance (Instr.len (.srd o))))

/-- R130: of the registers only FPENV and FPFLAGS can be named. -/
def execSwr (o : OpR) (s : State) : Host.Outcome State Fault Refusal :=
  pureLane (.swr o) s fun g _ t =>
    let x := operandB g t o.bk o.b
    if o.a.toNat == 0x18 then { t with fpenv := writeFpenv t.fpenv x } else { t with fpflags := writeFpflags x }

end Sys2Proof.Machine
end

