-- ==== Sys2Proof/Machine/Dispatch.lean ====
section
/-! DEFINITION. One arm per row of the opcode table: the meaning of each instruction, event and command. -/

namespace Sys2Proof.Machine

open Sys2Proof

def exec (i : Instr) (s : State) : Host.Outcome State Fault Refusal :=
  match i with
  | .cMov o => Sys2Proof.Machine.execCMov o s
  | .cMovi o => Sys2Proof.Machine.execCMovi o s
  | .cIadd o => Sys2Proof.Machine.execCIadd o s
  | .cIaddImm o => Sys2Proof.Machine.execCIaddImm o s
  | .cIsub o => Sys2Proof.Machine.execCIsub o s
  | .cImul o => Sys2Proof.Machine.execCImul o s
  | .cAnd o => Sys2Proof.Machine.execCAnd o s
  | .cOr o => Sys2Proof.Machine.execCOr o s
  | .cXor o => Sys2Proof.Machine.execCXor o s
  | .cShl o => Sys2Proof.Machine.execCShl o s
  | .cShr o => Sys2Proof.Machine.execCShr o s
  | .cFadd o => Sys2Proof.Machine.execCFadd o s
  | .cFsub o => Sys2Proof.Machine.execCFsub o s
  | .cFmul o => Sys2Proof.Machine.execCFmul o s
  | .cFmax o => Sys2Proof.Machine.execCFmax o s
  | .cBra o => Sys2Proof.Machine.execCBra o s
  | .mov o => Sys2Proof.Machine.execMov o s
  | .not o => Sys2Proof.Machine.execNot o s
  | .popc o => Sys2Proof.Machine.execPopc o s
  | .clz o => Sys2Proof.Machine.execClz o s
  | .ctz o => Sys2Proof.Machine.execCtz o s
  | .brev o => Sys2Proof.Machine.execBrev o s
  | .p2v o => Sys2Proof.Machine.execP2v o s
  | .v2p o => Sys2Proof.Machine.execV2p o s
  | .smov o => Sys2Proof.Machine.execSmov o s
  | .movi o => Sys2Proof.Machine.execMovi o s
  | .smovi o => Sys2Proof.Machine.execSmovi o s
  | .allot o => Sys2Proof.Machine.execAllot o s
  | .srd o => Sys2Proof.Machine.execSrd o s
  | .swr o => Sys2Proof.Machine.execSwr o s
  | .iadd o => Sys2Proof.Machine.execIadd o s
  | .isub o => Sys2Proof.Machine.execIsub o s
  | .iadc o => Sys2Proof.Machine.execIadc o s
  | .isbb o => Sys2Proof.Machine.execIsbb o s
  | .imul o => Sys2Proof.Machine.execImul o s
  | .imulhI32 o => Sys2Proof.Machine.execImulhI32 o s
  | .imulhN32 o => Sys2Proof.Machine.execImulhN32 o s
  | .imad o => Sys2Proof.Machine.execImad o s
  | .imadwI32 o => Sys2Proof.Machine.execImadwI32 o s
  | .imadwN32 o => Sys2Proof.Machine.execImadwN32 o s
  | .idivI32 o => Sys2Proof.Machine.execIdivI32 o s
  | .idivN32 o => Sys2Proof.Machine.execIdivN32 o s
  | .iremI32 o => Sys2Proof.Machine.execIremI32 o s
  | .iremN32 o => Sys2Proof.Machine.execIremN32 o s
  | .iminI32 o => Sys2Proof.Machine.execIminI32 o s
  | .iminN32 o => Sys2Proof.Machine.execIminN32 o s
  | .imaxI32 o => Sys2Proof.Machine.execImaxI32 o s
  | .imaxN32 o => Sys2Proof.Machine.execImaxN32 o s
  | .and o => Sys2Proof.Machine.execAnd o s
  | .or o => Sys2Proof.Machine.execOr o s
  | .xor o => Sys2Proof.Machine.execXor o s
  | .andn o => Sys2Proof.Machine.execAndn o s
  | .shl o => Sys2Proof.Machine.execShl o s
  | .shr o => Sys2Proof.Machine.execShr o s
  | .sar o => Sys2Proof.Machine.execSar o s
  | .rol o => Sys2Proof.Machine.execRol o s
  | .ror o => Sys2Proof.Machine.execRor o s
  | .shlImm o => Sys2Proof.Machine.execShlImm o s
  | .shrImm o => Sys2Proof.Machine.execShrImm o s
  | .sarImm o => Sys2Proof.Machine.execSarImm o s
  | .rolImm o => Sys2Proof.Machine.execRolImm o s
  | .rorImm o => Sys2Proof.Machine.execRorImm o s
  | .fshl o => Sys2Proof.Machine.execFshl o s
  | .bfe o => Sys2Proof.Machine.execBfe o s
  | .bfi o => Sys2Proof.Machine.execBfi o s
  | .byteperm o => Sys2Proof.Machine.execByteperm o s
  | .lea o => Sys2Proof.Machine.execLea o s
  | .iadd64 o => Sys2Proof.Machine.execIadd64 o s
  | .isub64 o => Sys2Proof.Machine.execIsub64 o s
  | .sadd o => Sys2Proof.Machine.execSadd o s
  | .ssub o => Sys2Proof.Machine.execSsub o s
  | .smul o => Sys2Proof.Machine.execSmul o s
  | .sand o => Sys2Proof.Machine.execSand o s
  | .sor o => Sys2Proof.Machine.execSor o s
  | .sxor o => Sys2Proof.Machine.execSxor o s
  | .sshl o => Sys2Proof.Machine.execSshl o s
  | .sshr o => Sys2Proof.Machine.execSshr o s
  | .ssetp cmp o => Sys2Proof.Machine.execSsetp cmp o s
  | .setp o => Sys2Proof.Machine.execSetp o s
  | .sel o => Sys2Proof.Machine.execSel o s
  | .plop o => Sys2Proof.Machine.execPlop o s
  | .idot4I8 o => Sys2Proof.Machine.execIdot4I8 o s
  | .idot4N8 o => Sys2Proof.Machine.execIdot4N8 o s
  | .idot4I4 o => Sys2Proof.Machine.execIdot4I4 o s
  | .idot4N4 o => Sys2Proof.Machine.execIdot4N4 o s
  | .fadd o => Sys2Proof.Machine.execFadd o s
  | .fsub o => Sys2Proof.Machine.execFsub o s
  | .fmul o => Sys2Proof.Machine.execFmul o s
  | .ffma o => Sys2Proof.Machine.execFfma o s
  | .fmin o => Sys2Proof.Machine.execFmin o s
  | .fmax o => Sys2Proof.Machine.execFmax o s
  | .fdiv o => Sys2Proof.Machine.execFdiv o s
  | .fsqrt o => Sys2Proof.Machine.execFsqrt o s
  | .frcp o => Sys2Proof.Machine.execFrcp o s
  | .frsq o => Sys2Proof.Machine.execFrsq o s
  | .fex2 o => Sys2Proof.Machine.execFex2 o s
  | .flg2 o => Sys2Proof.Machine.execFlg2 o s
  | .fsin o => Sys2Proof.Machine.execFsin o s
  | .fcos o => Sys2Proof.Machine.execFcos o s
  | .ftanh o => Sys2Proof.Machine.execFtanh o s
  | .frnd o => Sys2Proof.Machine.execFrnd o s
  | .fclass o => Sys2Proof.Machine.execFclass o s
  | .fsetp o => Sys2Proof.Machine.execFsetp o s
  | .fscale o => Sys2Proof.Machine.execFscale o s
  | .frexp o => Sys2Proof.Machine.execFrexp o s
  | .dadd o => Sys2Proof.Machine.execDadd o s
  | .dsub o => Sys2Proof.Machine.execDsub o s
  | .dmul o => Sys2Proof.Machine.execDmul o s
  | .dfma o => Sys2Proof.Machine.execDfma o s
  | .dmin o => Sys2Proof.Machine.execDmin o s
  | .dmax o => Sys2Proof.Machine.execDmax o s
  | .ddiv o => Sys2Proof.Machine.execDdiv o s
  | .dsqrt o => Sys2Proof.Machine.execDsqrt o s
  | .drcp o => Sys2Proof.Machine.execDrcp o s
  | .drnd o => Sys2Proof.Machine.execDrnd o s
  | .dsetp o => Sys2Proof.Machine.execDsetp o s
  | .pkaddF16 o => Sys2Proof.Machine.execPkaddF16 o s
  | .pkaddBf16 o => Sys2Proof.Machine.execPkaddBf16 o s
  | .pkmulF16 o => Sys2Proof.Machine.execPkmulF16 o s
  | .pkmulBf16 o => Sys2Proof.Machine.execPkmulBf16 o s
  | .pkfmaF16 o => Sys2Proof.Machine.execPkfmaF16 o s
  | .pkfmaBf16 o => Sys2Proof.Machine.execPkfmaBf16 o s
  | .pkminF16 o => Sys2Proof.Machine.execPkminF16 o s
  | .pkminBf16 o => Sys2Proof.Machine.execPkminBf16 o s
  | .pkmaxF16 o => Sys2Proof.Machine.execPkmaxF16 o s
  | .pkmaxBf16 o => Sys2Proof.Machine.execPkmaxBf16 o s
  | .pksetpF16 o => Sys2Proof.Machine.execPksetpF16 o s
  | .pksetpBf16 o => Sys2Proof.Machine.execPksetpBf16 o s
  | .cvt o => Sys2Proof.Machine.execCvt o s
  | .pack o => Sys2Proof.Machine.execPack o s
  | .unpk o => Sys2Proof.Machine.execUnpk o s
  | .mxq o => Sys2Proof.Machine.execMxq o s
  | .mxdq o => Sys2Proof.Machine.execMxdq o s
  | .fenv o => Sys2Proof.Machine.execFenv o s
  | .fflg o => Sys2Proof.Machine.execFflg o s
  | .kmov o => Sys2Proof.Machine.execKmov o s
  | .kop o => Sys2Proof.Machine.execKop o s
  | .kpop o => Sys2Proof.Machine.execKpop o s
  | .join o => Sys2Proof.Machine.execJoin o s
  | .leave o => Sys2Proof.Machine.execLeave o s
  | .waitk o => Sys2Proof.Machine.execWaitk o s
  | .vote o => Sys2Proof.Machine.execVote o s
  | .shfl o => Sys2Proof.Machine.execShfl o s
  | .redux o => Sys2Proof.Machine.execRedux o s
  | .matchLanes o => Sys2Proof.Machine.execMatchLanes o s
  | .scan o => Sys2Proof.Machine.execScan o s
  | .elect o => Sys2Proof.Machine.execElect o s
  | .bra o => Sys2Proof.Machine.execBra o s
  | .brc o => Sys2Proof.Machine.execBrc o s
  | .jmp o => Sys2Proof.Machine.execJmp o s
  | .call o => Sys2Proof.Machine.execCall o s
  | .calli o => Sys2Proof.Machine.execCalli o s
  | .ret o => Sys2Proof.Machine.execRet o s
  | .exit o => Sys2Proof.Machine.execExit o s
  | .region => Sys2Proof.Machine.execRegion s
  | .yield o => Sys2Proof.Machine.execYield o s
  | .nop => Sys2Proof.Machine.execNop s
  | .sleep o => Sys2Proof.Machine.execSleep o s
  | .ldN8 o => Sys2Proof.Machine.execLdN8 o s
  | .ldI8 o => Sys2Proof.Machine.execLdI8 o s
  | .ldN16 o => Sys2Proof.Machine.execLdN16 o s
  | .ldI16 o => Sys2Proof.Machine.execLdI16 o s
  | .ldB32 o => Sys2Proof.Machine.execLdB32 o s
  | .ldB64 o => Sys2Proof.Machine.execLdB64 o s
  | .ldB128 o => Sys2Proof.Machine.execLdB128 o s
  | .stB8 o => Sys2Proof.Machine.execStB8 o s
  | .stB16 o => Sys2Proof.Machine.execStB16 o s
  | .stB32 o => Sys2Proof.Machine.execStB32 o s
  | .stB64 o => Sys2Proof.Machine.execStB64 o s
  | .stB128 o => Sys2Proof.Machine.execStB128 o s
  | .ldp o => Sys2Proof.Machine.execLdp o s
  | .stp o => Sys2Proof.Machine.execStp o s
  | .pref o => Sys2Proof.Machine.execPref o s
  | .cctlIi o => Sys2Proof.Machine.execCctlIi o s
  | .cctlWb o => Sys2Proof.Machine.execCctlWb o s
  | .cctlInv o => Sys2Proof.Machine.execCctlInv o s
  | .cctlWbAll o => Sys2Proof.Machine.execCctlWbAll o s
  | .cctlInvAll o => Sys2Proof.Machine.execCctlInvAll o s
  | .cctlRodrop o => Sys2Proof.Machine.execCctlRodrop o s
  | .fenceAr o => Sys2Proof.Machine.execFenceAr o s
  | .fenceAcq o => Sys2Proof.Machine.execFenceAcq o s
  | .fenceRel o => Sys2Proof.Machine.execFenceRel o s
  | .fenceSc o => Sys2Proof.Machine.execFenceSc o s
  | .atomB32 o => Sys2Proof.Machine.execAtomB32 o s
  | .atomB64 o => Sys2Proof.Machine.execAtomB64 o s
  | .casB32 o => Sys2Proof.Machine.execCasB32 o s
  | .casB64 o => Sys2Proof.Machine.execCasB64 o s
  | .ldacqB32 o => Sys2Proof.Machine.execLdacqB32 o s
  | .ldacqB64 o => Sys2Proof.Machine.execLdacqB64 o s
  | .strelB32 o => Sys2Proof.Machine.execStrelB32 o s
  | .strelB64 o => Sys2Proof.Machine.execStrelB64 o s
  | .drainst o => Sys2Proof.Machine.execDrainst o s
  | .pgreq o => Sys2Proof.Machine.execPgreq o s
  | .pghint o => Sys2Proof.Machine.execPghint o s
  | .ldtB32 o => Sys2Proof.Machine.execLdtB32 o s
  | .ldtB128 o => Sys2Proof.Machine.execLdtB128 o s
  | .sttB32 o => Sys2Proof.Machine.execSttB32 o s
  | .sttB128 o => Sys2Proof.Machine.execSttB128 o s
  | .tzero o => Sys2Proof.Machine.execTzero o s
  | .syncarm o => Sys2Proof.Machine.execSyncarm o s
  | .syncwait o => Sys2Proof.Machine.execSyncwait o s
  | .acopy o => Sys2Proof.Machine.execAcopy o s
  | .acopyQuant o => Sys2Proof.Machine.execAcopyQuant o s
  | .agath o => Sys2Proof.Machine.execAgath o s
  | .ascat o => Sys2Proof.Machine.execAscat o s
  | .acoll o => Sys2Proof.Machine.execAcoll o s
  | .adigest o => Sys2Proof.Machine.execAdigest o s
  | .await o => Sys2Proof.Machine.execAwait o s
  | .acancel o => Sys2Proof.Machine.execAcancel o s
  | .mma o => Sys2Proof.Machine.execMma o s
  | .mmasp o => Sys2Proof.Machine.execMmasp o s
  | .accz o => Sys2Proof.Machine.execAccz o s
  | .accld o => Sys2Proof.Machine.execAccld o s
  | .accst o => Sys2Proof.Machine.execAccst o s
  | .accrd o => Sys2Proof.Machine.execAccrd o s
  | .accwr o => Sys2Proof.Machine.execAccwr o s
  | .mmaflg o => Sys2Proof.Machine.execMmaflg o s
  | .monset o => Sys2Proof.Machine.execMonset o s
  | .trxchk o => Sys2Proof.Machine.execTrxchk o s
  | .trxesc o => Sys2Proof.Machine.execTrxesc o s
  | .trav o => Sys2Proof.Machine.execTrav o s
  | .travst o => Sys2Proof.Machine.execTravst o s
  | .barinit o => Sys2Proof.Machine.execBarinit o s
  | .bararr o => Sys2Proof.Machine.execBararr o s
  | .barwait o => Sys2Proof.Machine.execBarwait o s
  | .bar o => Sys2Proof.Machine.execBar o s
  | .tkwait o => Sys2Proof.Machine.execTkwait o s
  | .tkpass o => Sys2Proof.Machine.execTkpass o s
  | .spawn o => Sys2Proof.Machine.execSpawn o s
  | .wret o => Sys2Proof.Machine.execWret o s
  | .mwait o => Sys2Proof.Machine.execMwait o s
  | .red o => Sys2Proof.Machine.execRed o s
  | .redfl o => Sys2Proof.Machine.execRedfl o s
  | .redarm o => Sys2Proof.Machine.execRedarm o s
  | .ownset o => Sys2Proof.Machine.execOwnset o s
  | .launch o => Sys2Proof.Machine.execLaunch o s
  | .trap o => Sys2Proof.Machine.execTrap o s
  | .bkpt => Sys2Proof.Machine.execBkpt s
  | .tret => Sys2Proof.Machine.execTret s
  | .killg o => Sys2Proof.Machine.execKillg o s
  | .killb o => Sys2Proof.Machine.execKillb o s
  | .fltrd o => Sys2Proof.Machine.execFltrd o s
  | .waitkRelease => Sys2Proof.Machine.execWaitkRelease s
  | .memberWaitComplete => Sys2Proof.Machine.execMemberWaitComplete s
  | .unsatisfiableWait => Sys2Proof.Machine.execUnsatisfiableWait s
  | .sleepEnd => Sys2Proof.Machine.execSleepEnd s
  | .syncwaitComplete => Sys2Proof.Machine.execSyncwaitComplete s
  | .collectiveRound => Sys2Proof.Machine.execCollectiveRound s
  | .awaitComplete => Sys2Proof.Machine.execAwaitComplete s
  | .syncWordArrival => Sys2Proof.Machine.execSyncWordArrival s
  | .engineCompletionUpdate => Sys2Proof.Machine.execEngineCompletionUpdate s
  | .matrixOpComplete => Sys2Proof.Machine.execMatrixOpComplete s
  | .ladderAbort => Sys2Proof.Machine.execLadderAbort s
  | .ladderCommit => Sys2Proof.Machine.execLadderCommit s
  | .shadowStallResolve => Sys2Proof.Machine.execShadowStallResolve s
  | .traverseComplete => Sys2Proof.Machine.execTraverseComplete s
  | .barrierArrive => Sys2Proof.Machine.execBarrierArrive s
  | .barwaitComplete => Sys2Proof.Machine.execBarwaitComplete s
  | .tkwaitComplete => Sys2Proof.Machine.execTkwaitComplete s
  | .mwaitWake => Sys2Proof.Machine.execMwaitWake s
  | .updateLineFire => Sys2Proof.Machine.execUpdateLineFire s
  | .impreciseFaultDelivery => Sys2Proof.Machine.execImpreciseFaultDelivery s
  | .loadResponse => Sys2Proof.Machine.execLoadResponse s
  | .storeCheckResponse => Sys2Proof.Machine.execStoreCheckResponse s
  | .leaseWriteback => Sys2Proof.Machine.execLeaseWriteback s
  | .writebackAccept => Sys2Proof.Machine.execWritebackAccept s
  | .leaseExpiry => Sys2Proof.Machine.execLeaseExpiry s
  | .translationChangeComplete => Sys2Proof.Machine.execTranslationChangeComplete s
  | .pageMoveComplete => Sys2Proof.Machine.execPageMoveComplete s
  | .settledExpiry => Sys2Proof.Machine.execSettledExpiry s
  | .hotInterval => Sys2Proof.Machine.execHotInterval s
  | .scrubUncorrectable => Sys2Proof.Machine.execScrubUncorrectable s
  | .swapTrigger => Sys2Proof.Machine.execSwapTrigger s
  | .swapout => Sys2Proof.Machine.execSwapout s
  | .dispatchDecision => Sys2Proof.Machine.execDispatchDecision s
  | .launchAccept => Sys2Proof.Machine.execLaunchAccept s
  | .launchComplete => Sys2Proof.Machine.execLaunchComplete s
  | .budgetPeriod => Sys2Proof.Machine.execBudgetPeriod s
  | .wdogExpire => Sys2Proof.Machine.execWdogExpire s
  | .preemptDone => Sys2Proof.Machine.execPreemptDone s
  | .logReadIndexWrite => Sys2Proof.Machine.execLogReadIndexWrite s
  | .queueTailWrite => Sys2Proof.Machine.execQueueTailWrite s
  | .registerWrite => Sys2Proof.Machine.execRegisterWrite s
  | .partSet => Sys2Proof.Machine.execPartSet s
  | .partFree => Sys2Proof.Machine.execPartFree s
  | .qCreate => Sys2Proof.Machine.execQCreate s
  | .qConfig => Sys2Proof.Machine.execQConfig s
  | .qEnable => Sys2Proof.Machine.execQEnable s
  | .qHalt => Sys2Proof.Machine.execQHalt s
  | .qDestroy => Sys2Proof.Machine.execQDestroy s
  | .budgetSet => Sys2Proof.Machine.execBudgetSet s
  | .budgetRead => Sys2Proof.Machine.execBudgetRead s
  | .partParam => Sys2Proof.Machine.execPartParam s
  | .preempt => Sys2Proof.Machine.execPreempt s
  | .reopen => Sys2Proof.Machine.execReopen s
  | .drain => Sys2Proof.Machine.execDrain s
  | .kick => Sys2Proof.Machine.execKick s
  | .xlate => Sys2Proof.Machine.execXlate s
  | .migrate => Sys2Proof.Machine.execMigrate s
  | .commCreate => Sys2Proof.Machine.execCommCreate s
  | .commFree => Sys2Proof.Machine.execCommFree s
  | .gazClear => Sys2Proof.Machine.execGazClear s
  | .evlogSet => Sys2Proof.Machine.execEvlogSet s
  | .replicaSet => Sys2Proof.Machine.execReplicaSet s
  | .evlogStat => Sys2Proof.Machine.execEvlogStat s
  | .podSet => Sys2Proof.Machine.execPodSet s
  | .aclSet => Sys2Proof.Machine.execAclSet s
  | .pwrState => Sys2Proof.Machine.execPwrState s
  | .pwrCap => Sys2Proof.Machine.execPwrCap s
  | .eccRead => Sys2Proof.Machine.execEccRead s
  | .selftest => Sys2Proof.Machine.execSelftest s
  | .fwLoad => Sys2Proof.Machine.execFwLoad s
  | .attest => Sys2Proof.Machine.execAttest s
  | .netSet => Sys2Proof.Machine.execNetSet s
  | .replicaCompare => Sys2Proof.Machine.execReplicaCompare s
  | .dbgen => Sys2Proof.Machine.execDbgen s
  | .brk => Sys2Proof.Machine.execBrk s
  | .halt => Sys2Proof.Machine.execHalt s
  | .haltb => Sys2Proof.Machine.execHaltb s
  | .resume => Sys2Proof.Machine.execResume s
  | .step => Sys2Proof.Machine.execStep s
  | .dbgRd => Sys2Proof.Machine.execDbgRd s
  | .dbgWr => Sys2Proof.Machine.execDbgWr s
  | .addressBreakpointHalt => Sys2Proof.Machine.execAddressBreakpointHalt s
  | .hostCxlMemAccess => Sys2Proof.Machine.execHostCxlMemAccess s
  | .hostSnoop => Sys2Proof.Machine.execHostSnoop s
  | .hostAtomicop => Sys2Proof.Machine.execHostAtomicop s
  | .podRemoteAccess => Sys2Proof.Machine.execPodRemoteAccess s
  | .linkDown => Sys2Proof.Machine.execLinkDown s
  | .deviceUnreachable => Sys2Proof.Machine.execDeviceUnreachable s
  | .netAckTimeout => Sys2Proof.Machine.execNetAckTimeout s
  | .standbyWake => Sys2Proof.Machine.execStandbyWake s
  | .powerOn => Sys2Proof.Machine.execPowerOn s
  | .portReturn => Sys2Proof.Machine.execPortReturn s
  | .powerOff => Sys2Proof.Machine.execPowerOff s
  | .arithmeticClockStep => Sys2Proof.Machine.execArithmeticClockStep s
  | .coreReservation => Sys2Proof.Machine.execCoreReservation s
  | .flitReplay => Sys2Proof.Machine.execFlitReplay s

end Sys2Proof.Machine
end

