-- ==== Sys2Proof/Machine/Fetch.lean ====
section
/-! DEFINITION. Fetching an instruction's halfwords through the instruction cache (spec 02 R34-R38, 06 R217, 07 R245), decoding it, and
running it in its issue set. -/

namespace Sys2Proof.Machine

open Sys2Proof

/-- Why a fetch stops (R36). -/
inductive FetchStop where
  | page (key : EntryKey)
  | deny (f : Fail)
  | failed
  /-- the fetch is a request that a throttled partition holds (R426) -/
  | held
  deriving DecidableEq, Repr

/-- A line of the instruction cache that may serve fetches: a lease ends it, as R194 has it. -/
def Core.iline? (c : Core) (k : LineKey) (now : Nat) : Option ILine := c.icache.find? fun x => x.key == k && decide (now < x.lease)
/-- A line is put into the cache of 1,024 lines; the device picks the one that makes room (log 2). -/
def State.fillIcache (s : State) (core : Nat) (x : ILine) : State :=
  let others := (s.core core).icache.filter fun y => y.key != x.key
  if others.length < 1024 then s.updCore core fun c => { c with icache := others ++ [x] }
  else
    let out := s.choose others.length
    s.tickFree.updCore core fun c => { c with icache := others.eraseIdx out ++ [x] }

/-- The line of a fetched halfword at ea: from the cache, or else from its home. -/
def State.fetchLine (s : State) (b : Block) (l : Launch) (ea : Nat) : State × (List Byte ⊕ FetchStop) :=
  let k : LineKey := { ctx := l.ctx, line := ea / 128 }
  let lineEa := ea / 128 * 128
  let r := reqOf l b.core
  match (s.core b.core).iline? k s.gtime with
  | some x => (s, .inl x.data)
  | none =>
    if s.heldRequest r [lineEa] then (s, .inr .held)
    else match s.answer r .rd lineEa 128 with
    | .served p key lease _ _ =>
      let (s, bs) := (s.performFor b.core k false).homeRead r lineEa p 128
      ((s.grantLease key).fillIcache b.core { key := k, data := bs, lease := s.gtime + lease }, .inl bs)
    | .direct p _ => let (s, bs) := s.homeRead r lineEa p 128; (s, .inl bs)
    | .absent key => (s.requestPage key l.part l.queue, .inr (.page key))
    | .filling key => (s, .inr (.page key))
    | .denied d => (s, .inr (.deny (mkFail cPERM ea d)))
    | .rejected key => (s.tableError key l.part l.queue, .inr (.deny (mkFail cADDRSPACE ea 4)))
    | .failed => (s, .inr .failed)
    | _ => (s, .inr (.deny (mkFail cADDRSPACE ea 4)))
/-- n halfwords from a PC on, each looked up by itself: an instruction may lie on two lines, and on two pages. A halfword outside the
space of R36 is not fetched, however the PC came there (log 78). The answer names the address that stopped it. -/
def State.fetchHalves (n : Nat) (s : State) (b : Block) (l : Launch) (pc : Dword) : State × (List Byte ⊕ (Nat × FetchStop)) :=
  match n with
  | 0 => (s, .inl [])
  | n + 1 =>
    if !fetchable s.dev pc then (s, .inr (pc.toNat, .deny (mkFail cADDRSPACE pc.toNat 7)))
    else
      let ea := normEa s.dev pc.toNat
      match s.fetchLine b l ea with
      | (s, .inr stop) => (s, .inr (ea, stop))
      | (s, .inl line) =>
        match State.fetchHalves n s b l (pc + 2) with
        | (s, .inl rest) => (s, .inl ((line.drop (ea % 128)).take 2 ++ rest))
        | (s, .inr stop) => (s, .inr stop)
/-- An instruction is fetched whole (R34, R36): the first halfword gives its length, with the E bit of the base word. -/
def State.fetch (s : State) (b : Block) (l : Launch) (pc : Dword) : State × (List Byte ⊕ (Nat × FetchStop)) :=
  match State.fetchHalves 1 s b l pc with
  | (s, .inr stop) => (s, .inr stop)
  | (s, .inl h) =>
    let first := (h.getD 0 0)
    if !first.getLsbD 0 then (s, .inl h)
    else match State.fetchHalves (if first.getLsbD 1 then 3 else 1) s b l (pc + 2) with
    | (s, .inr stop) => (s, .inr stop)
    | (s, .inl rest) => (s, .inl (h ++ rest))

/-- The 32 bits at the PC, or the halfword of a compact form (R56). -/
def fetchedWord (bs : List Byte) : Nat := if (bs.getD 0 0).getLsbD 0 then ofBytes (bs.take 4) else ofBytes (bs.take 2)
/-- A fetch that did not get its bytes (R36): every thread of the set parks at its PC, or faults there. -/
def Sel.fetchStopped (c : Sel) (s : State) (ea : Nat) (stop : FetchStop) : State :=
  match stop with
  | .deny f => c.raiseEach s c.lanes f
  | .failed => s.mcheck c.blk ea
  | .held => c.full s
  | .page key =>
    if c.l.lr.nopark then c.raiseEach s c.lanes (mkFail cPAGE ea (lo32 c.issue.pc).toNat)
    else c.lanes.foldl (fun s l => s.parkFetch c.blk c.grp l key) s

/-- The instruction at the PC of a set, as the state's caches and memory now give it; none where the fetch or the decoding fails. -/
def State.peek (s : State) (b : Block) (l : Launch) (pc : Dword) : Option Instr :=
  if pc.getLsbD 0 then none
  else match (s.fetch b l pc).2 with
  | .inl bs => match decode bs with
    | .ok (i, _) => some i
    | .error _ => none
  | .inr _ => none

/-- The operand latch as an instruction leaves it that some thread of the set performs. -/
def State.spoilLatch (s : State) (c : Sel) (i : Instr) : State :=
  if (c.guarded i).isEmpty then s else s.updGroup c.blk c.grp fun g => g.spoil (regsOf c.b.rung i)

/-- The issue set named by State.issue fetches, decodes and performs its instruction (R55, R78). A PC that became odd without a transfer
(a debug write, a handler's address) faults when it issues (logs 40 and 78). -/
def State.runIssue (s : State) : Host.Outcome State Fault Refusal :=
  match s.sel with
  | none => .fault .noIssue
  | some c =>
    if c.issue.pc.getLsbD 0 then .next (c.raiseEach s c.lanes (mkFail cMISALIGN c.issue.pc.toNat 0))
    else match s.fetch c.b c.l c.issue.pc with
    | (s, .inr x) => .next (c.fetchStopped s x.1 x.2)
    | (s, .inl bs) =>
      match decode bs with
      | .ok (i, _) => exec i (s.spoilLatch c i)
      | .error _ => .next (c.raiseEach s c.lanes (mkFail cILLEGAL 0 (fetchedWord bs)))

end Sys2Proof.Machine
end

