-- ==== Sys2Proof/Machine/Sched.lean ====
section
/-! DEFINITION. What the machine does next: the events that are due or possible, the choice of a group by its scheduler and of its issue
sets (spec 03 R74-R85), and the passing of time (01 R21, R22). -/

namespace Sys2Proof.Machine

open Sys2Proof

/-! ## Issue sets (R78, R79, R84) -/

/-- A candidate set: its key, whether it is one trapped thread, its lanes. -/
structure Cand where
  pc : Dword
  trapped : Bool
  lanes : LaneSet
  deriving DecidableEq, Repr
/-- A thread that takes part in the vote. -/
def Thread.votes (t : Thread) : Bool := t.st == .runnable && t.horizon.isNone
/-- Lane l joins the candidates: with the untrapped threads at its PC, or alone. -/
def addCand (cs : List Cand) (l : Nat) (t : Thread) : List Cand :=
  if t.trapped then cs ++ [{ pc := t.pc, trapped := true, lanes := laneBit l }]
  else if cs.any fun c => !c.trapped && c.pc == t.pc then
    cs.map fun c => if !c.trapped && c.pc == t.pc then { c with lanes := c.lanes ||| laneBit l } else c
  else cs ++ [{ pc := t.pc, trapped := false, lanes := laneBit l }]
/-- R79: by key, an untrapped set before trapped threads, these by lane. -/
def Cand.before (a b : Cand) : Bool :=
  decide (a.pc.toNat < b.pc.toNat) ||
    (a.pc == b.pc && ((!a.trapped && b.trapped) || (a.trapped == b.trapped && decide (a.lanes.toNat ≤ b.lanes.toNat))))
/-- The candidates among some threads of a group, in their order. -/
def Group.candidates (g : Group) (p : Thread → Bool) : List Cand :=
  sortBy Cand.before ((g.threads.zipIdx.filter fun x => p x.1).foldl (fun cs x => addCand cs x.2 x.1) [])

/-- The registers an instruction reads or writes, its guard, its mask registers and its sync word among them (R58, R83); `.lad` names what
the rung's format has (R316). -/
def usesOf (rung : Nat) (s : Nat → Word) (i : Instr) : List RegUse :=
  let guard := (modsOf (instrMods i)).guard.toNat
  let lad (o : OpR) (regs : Nat → Nat) : List RegUse :=
    if o.d.toNat / 8 == 10 then [rv o.a.toNat (regs (ladFmt rung)), wacc (o.d.toNat % 8) (if ladFmt rung == 9 then 2 else 1)] else []
  (if guard == 7 then [] else [rp guard]) ++ regsOf rung i ++ masksOf i ++ match i with
  | .mma o => lad o mmaRegs
  | .mmasp o => lad o mmaspRegs
  | .syncarm o => [{ file := .sync, first := (s o.a.toNat).toNat, count := 16, write := true }]
  | .syncwait o => [{ file := .sync, first := (s o.a.toNat).toNat, count := 16, write := false }]
  | _ => []
/-- Registers that instructions already issued have yet to write (R83) (log 17): the destinations of loads, of open waits and of
instructions that wait to be performed, and the tiles of matrix operations. -/
def WaitOn.writes (rung : Nat) (s : Nat → Word) (w : WaitOn) : List RegUse :=
  match w with
  | .issued i _ _ => (usesOf rung s i).filter RegUse.write
  | .sync vd _ _ _ => [wv vd 1]
  | .await vd _ _ _ => [wv vd 1]
  | .ticket pd _ _ => [wp pd]
  | .mwait vd _ wide _ _ _ _ => [wv vd (if wide then 2 else 1)]
  | _ => []
def Thread.pendingWrites (rung : Nat) (s : Nat → Word) (t : Thread) : List RegUse :=
  match t.st with
  | .waiting w => w.writes rung s
  | _ => []
def LaneLoad.writes (x : LaneLoad) : List RegUse :=
  let words : Nat := match x.kind with | .b64 => 2 | .b128 => 4 | _ => 1
  wv x.vd words :: (match x.probe with | some p => [wp p] | none => [])
def Group.pending (g : Group) (rung : Nat) : List RegUse :=
  (g.loads.filter fun l => !l.prefetch).flatMap (fun l => (l.lanes.flatMap LaneLoad.writes).eraseDups)
    ++ (g.threads.flatMap (Thread.pendingWrites rung g.sr)).eraseDups ++ g.flights.map MatrixOp.tiles
    ++ (match g.arrival.bind Arrival.sd with | some sd => [ws sd 1] | none => [])
/-- R83, first condition. -/
def Group.scoreboardOk (g : Group) (rung : Nat) (i : Instr) : Bool :=
  let uses := usesOf rung g.sr i
  !(g.pending rung).any fun p => uses.any fun u => u.overlaps p
def Thread.stalled (t : Thread) : Bool := t.st == .waiting .full
/-- R83, second condition: the set, issued now, finds the unit it needs able to accept it. -/
def State.accepts (s : State) (i : Issue) : Bool :=
  match State.runIssue { s with issue := some i } with
  | .next t => match t.group? i.blk i.grp with
    | some g => !(lanesOf i.lanes).any fun l => (g.thread l).stalled
    | none => true
  | _ => true
def Cand.issue (c : Cand) (blk grp : Nat) : Issue := { blk := blk, grp := grp, lanes := c.lanes, pc := c.pc }
/-- A candidate with the class of its instruction, if it is ready (R83): one whose fetch or decoding fails issues its fault. Arithmetic
and control need no unit that can be full. -/
def State.candReady (s : State) (b : Block) (l : Launch) (g : Group) (c : Cand) : Option (Cand × PairClass) :=
  match s.peek b l c.pc with
  | none => if s.accepts (c.issue b.id g.idx) then some (c, .n) else none
  | some i =>
    let cls := pairClass i
    if g.scoreboardOk b.rung i && ((cls != .m && cls != .n) || s.accepts (c.issue b.id g.idx)) then some (c, cls) else none

/-- R84: the set of the thread with the highest starvation count, where some count is 64 or more. -/
def Group.override (g : Group) (cs : List Cand) : Option Cand :=
  let count (c : Cand) : Nat := (lanesOf c.lanes).foldl (fun n l => max n (g.thread l).starve) 0
  let top := cs.foldl (fun n c => max n (count c)) 0
  if 64 ≤ top then cs.find? fun c => count c == top else none
/-- A launch that a replica pair has halted at a boundary (R414, log 55). -/
def State.paused (s : State) (l : Launch) : Bool := s.pair.any fun p => p.phase != .running && decide (l.id < p.since)
/-- The sets that a group issues when its scheduler chooses it; none where it is not ready (R75, R78, R81). -/
def State.groupSets (s : State) (b : Block) (l : Launch) (g : Group) : Option (Cand × Option Cand) :=
  if b.st != .resident || (g.halted && !g.stepping) || s.paused l then none
  else
    let cs := g.candidates Thread.votes
    match g.override cs with
    | some c => (s.candReady b l g c).map fun x => (x.1, none)
    | none =>
      match cs with
      | [] => none
      | c1 :: rest =>
        let r2 := rest.head?.bind fun c => s.candReady b l g c
        match s.candReady b l g c1, r2 with
        | some x, some y => some (x.1, if pairs x.2 y.2 then some y.1 else none)
        | some x, none => some (x.1, none)
        | none, some y => some (y.1, none)
        | none, none => none

/-! ## Schedulers (R75, R76) -/

/-- A ready group with what it would issue. -/
structure Ready where
  blk : Nat
  grp : Nat
  scheduler : Nat
  prio : Nat
  age : Nat
  unchosen : Nat
  first : Cand
  second : Option Cand
  deriving DecidableEq, Repr
/-- The ready groups of the package; scheduler n is scheduler n mod 4 of core n / 4. -/
def State.readyGroups (s : State) : List Ready :=
  s.blocks.flatMap fun b =>
    if b.st != .resident then []
    else match s.launch? b.launch with
    | none => []
    | some l =>
      let prio := match s.queue? l.queue with | some q => q.prio | none => 0
      b.groups.filterMap fun g => (s.groupSets b l g).map fun x =>
        { blk := b.id, grp := g.idx, scheduler := 4 * b.core + g.sched, prio := prio, age := g.age, unchosen := g.unchosen,
          first := x.1, second := x.2 }
/-- R75 and R76: x is chosen before y on their scheduler. -/
def Ready.before (x y : Ready) : Bool :=
  let late (z : Ready) : Bool := decide (256 ≤ z.unchosen)
  if late x != late y then late x
  else if late x then decide (x.age ≤ y.age)
  else decide (y.prio < x.prio) || (x.prio == y.prio && decide (x.age ≤ y.age))
/-- Die d has a cycle now: its fraction has just wrapped (R21, log 5). -/
def State.dieRuns (s : State) (d : Nat) : Bool := decide (s.fracs.getD d 0 < s.freq.getD d 0)
/-- The next scheduler with a ready group among those that have not had their turn in this cycle (log 5). -/
def State.nextScheduler (s : State) (rs : List Ready) : Option Nat :=
  (rs.filter fun r => decide (s.turn ≤ r.scheduler) && s.dieRuns (r.scheduler / 192)).foldl
    (fun m r => some (match m with | some n => min n r.scheduler | none => r.scheduler)) none
/-- The group that issues next, with the ready groups its scheduler passes over. -/
def State.choice (s : State) : Option (Ready × List Ready) :=
  let rs := s.readyGroups
  (s.nextScheduler rs).bind fun n =>
    match sortBy Ready.before (rs.filter fun r => r.scheduler == n) with
    | [] => none
    | r :: rest => some (r, rest)

/-! ## Sets that hold (R94, R231, R360, R434; log 4) -/

/-- A set that has issued its instruction and waits in it; without the instruction where it waits for room in the log to issue it. -/
structure Held where
  issue : Issue
  instr : Option Instr
  deriving DecidableEq, Repr
/-- What an issue leaves its threads waiting in, the instruction kept with those that hold. -/
def Thread.keepIssued (i : Instr) (set : LaneSet) (t : Thread) : Thread :=
  match t.st with
  | .waiting .hold => t.setState (.waiting (.issued i set false))
  | .waiting .shadow => t.setState (.waiting (.issued i set true))
  | _ => t
/-- A set fetches, decodes and performs its instruction, unless an event of it would wait for a full log: then its threads stay where they
are (R434). -/
def State.issueSet (s : State) : Host.Outcome State Fault Refusal :=
  match s.sel, s.runIssue with
  | some c, .next t =>
    if s.heldEvents.length < t.heldEvents.length then .next (c.hold s)
    else match s.peek c.b c.l c.issue.pc with
    | some i => .next (t.updGroup c.blk c.grp fun g => { g with threads := g.threads.map (Thread.keepIssued i c.issue.lanes) })
    | none => .next t
  | _, x => x
/-- The sets of a group that hold; while it is halted, those that have issued (R459). -/
def Group.heldSets (g : Group) (blk : Nat) : List Held :=
  let named : List Held := g.threads.zipIdx.filterMap fun x => match x.1.st with
    | .waiting (.issued i set _) =>
      if x.1.horizon.isSome then none
      else
        let mates := (List.range 64).filter fun l => set.getLsbD l && (g.thread l).st == x.1.st && (g.thread l).pc == x.1.pc
        some { issue := { blk := blk, grp := g.idx, lanes := laneSet mates, pc := x.1.pc }, instr := some i }
    | _ => none
  let waits (t : Thread) : Bool := t.horizon.isNone && (t.st == .waiting .hold || t.st == .waiting .shadow)
  named.eraseDups ++ (if g.halted then [] else (g.candidates waits).map fun c => { issue := c.issue blk g.idx, instr := none })
/-- Some lanes become runnable. -/
def Group.release (g : Group) (m : LaneSet) : Group := g.each fun l t => if m.getLsbD l then t.setState .runnable else t
/-- The state in which a held set performs its instruction, if its wait is over, and no event of it is held; or in which it waits on, with what it
has asked for meanwhile. -/
def State.resume (s : State) (h : Held) : Option State :=
  let x := h.issue
  let t : State := { s.updGroup x.blk x.grp fun g => g.release x.lanes with issue := some x, subject := .none }
  match (match h.instr with | some i => exec i t | none => t.runIssue) with
  | .next u =>
    let threads (v : State) : List Thread := match v.group? x.blk x.grp with
      | some g => (lanesOf x.lanes).map g.thread
      | none => []
    if s.heldEvents.length < u.heldEvents.length then none
    else if !(threads u).any Thread.holds then some u
    -- it stays, but its request has been logged, or its record read (R262, R405)
    else if u.nextSeq != s.nextSeq || (threads u).map Thread.armRecord != (threads s).map Thread.armRecord then
      h.instr.map fun i => u.updGroup x.blk x.grp fun g => { g with threads := g.threads.map (Thread.keepIssued i x.lanes) }
    else none
  | _ => none
/-- The first held set whose wait is over. -/
def State.resumable (s : State) : Option Held :=
  s.blocks.findSome? fun b => if b.st == .resident then b.groups.findSome? fun g => (g.heldSets b.id).find? fun h => (s.resume h).isSome else none

/-! ## Time (R21, R22, R84, R268) -/

/-- The park time as ticks pass from `now` on: it starts, stops, or stands still while the group is halted (R459). -/
def Group.tickPark (g : Group) (now ticks : Nat) : Group :=
  if g.halted then { g with parkedAt := g.parkedAt.map (· + ticks) }
  else if g.parkedNow then { g with parkedAt := some (g.parkedAt.getD now) }
  else { g with parkedAt := none }
/-- The frequency of the fastest die, in tenths of a cycle a tick. -/
def State.topFreq (s : State) : Nat := s.freq.foldl max 1
/-- One cycle of the fastest die passes: the clocks of the dies run on as their frequencies have it, and GTIME by 10 / topFreq ticks
(log 5). -/
def State.passCycle (s : State) : State :=
  let top := s.topFreq
  let sums := s.fracs.zipWith (· + ·) s.freq
  let ticks := (s.phase + 10) / top
  let run := s.power == .active
  let s : State := { s with
    gtime := s.gtime + ticks, phase := (s.phase + 10) % top, turn := 0
    clocks := if run then s.clocks.zipWith (fun c x => c + x / top) sums else s.clocks
    fracs := if run then sums.map (· % top) else s.fracs
    blocks := s.blocks.map fun b => if b.st == .resident then { b with groups := b.groups.map fun g => g.tickPark s.gtime ticks } else b }
  (s.markRaised.placeHeld).ageQueues ticks
/-- What an issue opportunity counts in its group as set 1 issues (R77, R84, R103, R458, R460). -/
def Group.opportunity (g : Group) (lanes : LaneSet) : Group :=
  let count (l : Nat) (t : Thread) : Thread :=
    if lanes.getLsbD l then { t with starve := 0 }
    else if t.votes then { t with starve := min 255 (t.starve + 1) }
    else t
  { g.each count with unchosen := 0, opportunities := g.opportunities + 1, parkedAt := none, skipBreak := g.skipBreak &&& ~~~lanes,
                      stepping := false, stepped := if g.stepping then lanes else 0 }
/-- What set 2 counts as it issues in the same opportunity. -/
def Group.alsoIssues (g : Group) (lanes : LaneSet) : Group :=
  { g.each fun l t => if lanes.getLsbD l then { t with starve := 0 } else t with
    skipBreak := g.skipBreak &&& ~~~lanes, stepped := if g.stepped == 0 then 0 else g.stepped ||| lanes }
/-- Everything an issue changes before its instruction is executed: the counts of the group and of those passed over, the two sets. -/
def State.prepare (s : State) (r : Ready) (passed : List Ready) : State :=
  let s := s.updGroup r.blk r.grp fun g => g.opportunity r.first.lanes
  let s := passed.foldl (fun s x => s.updGroup x.blk x.grp fun g => { g with unchosen := g.unchosen + 1 }) s
  { s with issue := some (r.first.issue r.blk r.grp), second := r.second.map fun c => c.issue r.blk r.grp, turn := r.scheduler + 1,
           subject := .none }

/-! ## Events (log 3) -/

/-- One free value is used up where the device chose. -/
def State.chose (s : State) (free : Bool) : State := if free then s.tickFree else s
/-- The state in which an event happens; `free` where the device chose it. -/
def State.atEvent (s : State) (x : Subject) (free : Bool) : State := { s.chose free with subject := x, issue := none }
/-- An event may happen now, and logs nothing that a full log would hold back (R434). -/
def State.fires (s : State) (free : Bool) (e : Instr × Subject) : Bool :=
  match exec e.1 (s.atEvent e.2 free) with
  | .next t => t.subject != .idle && decide (t.heldEvents.length ≤ s.heldEvents.length)
  | _ => false

/-- What some lanes of a group may have due. -/
def laneEvents (blk grp lane : Nat) (t : Thread) : List (Instr × Subject) :=
  let x : Subject := .lane blk grp lane
  (if t.imprecise.isEmpty then [] else [(.impreciseFaultDelivery, x)])
    ++ (match t.st with
      | .sleeping .. => [(.sleepEnd, x)]
      | .yielding .. => [(.sleepEnd, x)]
      | _ => [])
def laneFree (blk grp lane : Nat) (t : Thread) : List (Instr × Subject) :=
  let x : Subject := .lane blk grp lane
  match t.st with
  | .waiting (.sync ..) => [(.syncwaitComplete, x)]
  | .waiting (.await ..) => [(.awaitComplete, x)]
  | .waiting (.barrier ..) => [(.barwaitComplete, x)]
  | .waiting (.ticket ..) => [(.tkwaitComplete, x)]
  | .waiting (.mwait ..) => [(.mwaitWake, x)]
  | _ => []
def waitkNow (g : Group) : List Nat := (List.range 12).filter fun k => g.threads.any fun t => match t.st with | .waitk n _ => n == k | _ => false
/-- Events of a group that happen at once: deliveries and sleeps, completed waits, WAITK, waits that cannot complete, breakpoints. -/
def groupDue (b : Block) (g : Group) : List (Instr × Subject) :=
  (g.threads.zipIdx.flatMap fun t => laneEvents b.id g.idx t.2 t.1)
    ++ (g.waits.filter MemberWait.complete).map (fun w => (.memberWaitComplete, .wait b.id g.idx w.pc))
    ++ (waitkNow g).map (fun k => (.waitkRelease, .mask b.id g.idx k))
    ++ (if g.threads.any fun t => (match t.st with | .member => true | .waitk .. => true | _ => false)
        then [(.unsatisfiableWait, .group b.id g.idx)] else [])
/-- Those that wait for the device. -/
def groupFree (b : Block) (g : Group) : List (Instr × Subject) :=
  (g.threads.zipIdx.flatMap fun t => laneFree b.id g.idx t.2 t.1)
    ++ g.loads.map (fun l => (.loadResponse, .load b.id g.idx l.id))
    ++ (if !g.flights.isEmpty then [(.matrixOpComplete, .group b.id g.idx)] else [])
    ++ (if g.arrival.isSome && !g.halted then [(.barrierArrive, .group b.id g.idx)] else [])
/-- Those of a block; an abort may be put off for 64 cycles of its core (R352). -/
def blockDue (debug : Bool) (clock : Nat) (b : Block) : List (Instr × Subject) :=
  if b.onCore then
    b.groups.flatMap (fun g => groupDue b g ++ if debug then [(.addressBreakpointHalt, .group b.id g.idx)] else [])
      ++ (if b.doomed.isSome && b.doomedAt + 64 ≤ clock then [(.ladderAbort, .block b.id)] else [])
      ++ (if b.st == .resident then [(.swapTrigger, .block b.id)] else [])
  else []
def blockFree (b : Block) : List (Instr × Subject) :=
  (if b.onCore then b.groups.flatMap (groupFree b) else [])
    ++ (if b.doomed.isSome then [(.ladderAbort, .block b.id)] else [])
    ++ (if b.st == .swapping then [(.swapout, .block b.id)] else [])
    ++ (if b.st == .committing then [(.ladderCommit, .block b.id)] else [])
def coreDue (c : Core) : List (Instr × Subject) :=
  (c.lines.filter fun l => l.dirty != 0).map (fun l => (.leaseWriteback, .line c.num l.key))
    ++ (c.lines.filter fun l => l.dirty == 0).map fun l => (.leaseExpiry, .line c.num l.key)
def coreFree (c : Core) : List (Instr × Subject) :=
  c.stores.map (fun e => (.storeCheckResponse, .store c.num e.id))
    ++ ((c.sent.map Sent.key).eraseDups).map (fun k => (.writebackAccept, .line c.num k))
    ++ c.ops.flatMap (fun o => [(.syncWordArrival, .op c.num o.handle), (.engineCompletionUpdate, .op c.num o.handle),
                               (.traverseComplete, .op c.num o.handle)])
    ++ [(.shadowStallResolve, .core c.num)]
/-- Events that happen as soon as they can. -/
def State.dueEvents (s : State) : List (Instr × Subject) :=
  let debug (b : Block) : Bool := (s.launch? b.launch).any fun l => (s.part? l.part).any Partition.debug
  (s.blocks.flatMap fun b => blockDue (debug b) (s.clockOf b.core) b)
    ++ [(.budgetPeriod, .none), (.hotInterval, .none)]
    ++ s.cores.flatMap coreDue
    ++ s.entries.flatMap (fun e => [(.translationChangeComplete, .entry e.key), (.settledExpiry, .entry e.key)])
    ++ s.queues.map (fun q => (.wdogExpire, .queue q.num))
    ++ ((List.range s.podSize).filter fun d => d != s.dev).map fun d => (.deviceUnreachable, .device d)
/-- Events that the device may let happen now, or later. -/
def State.freeEvents (s : State) : List (Instr × Subject) :=
  s.blocks.flatMap blockFree ++ s.cores.flatMap coreFree
    ++ (s.entries.filter fun e => e.move.isSome).map (fun e => (.pageMoveComplete, .entry e.key))
    ++ s.contributions.map (fun c => (.collectiveRound, .round c.part c.comm c.round []))
    ++ s.armings.flatMap (fun a => (a.counts.map fun c => (.updateLineFire, .arming a.id c.1))
        ++ if a.over then [(.updateLineFire, .arming a.id a.nlines)] else [])
    ++ s.queues.flatMap (fun q => [(.launchAccept, .queue q.num), (.coreReservation, .reservation q.part q.num)])
    ++ s.partitions.flatMap (fun p => [(.dispatchDecision, .part p.num), (.preemptDone, .part p.num)])
    ++ (s.launches.filter fun l => !l.complete).map fun l => (.launchComplete, .launch l.id)

/-! ## The next act -/

/-- What the machine does in one step. -/
inductive Act where
  /-- Off, and nothing from outside (R33) -/
  | off
  /-- Off: nothing answers what comes from outside (R33) -/
  | discard (rest : List (Instr × Subject))
  /-- a command or event from outside: the head of State.inbox -/
  | input (i : Instr) (x : Subject) (rest : List (Instr × Subject))
  /-- a request of the host finds the package in Standby (R476) -/
  | wake
  /-- the second set of the last opportunity (R81) -/
  | second (x : Issue)
  /-- the halt that ends a STEP (R460) -/
  | stepHalt (blk grp : Nat)
  /-- a held set whose wait is over performs its instruction: no issue opportunity (R77) -/
  | resume (h : Held)
  /-- an event; `free` where the device chose it among others -/
  | event (i : Instr) (x : Subject) (free : Bool)
  /-- an issue opportunity; `late` where a cycle passes first, since no scheduler is left that could issue in this one -/
  | issue (r : Ready) (passed : List Ready) (late free : Bool)
  /-- a cycle passes -/
  | idle (free : Bool)
  deriving DecidableEq, Repr

/-- What the host may do without waking the package from Standby: power, links, and what it does not send as CXL.io (R33, R461). -/
def asleep (i : Instr) : Bool :=
  match i with
  | .powerOff | .powerOn | .standbyWake | .linkDown | .portReturn | .flitReplay | .scrubUncorrectable | .netAckTimeout
  | .hostCxlMemAccess | .hostSnoop | .podRemoteAccess | .arithmeticClockStep => true
  | _ => false
/-- The second set, as far as its threads still stand at its instruction and its unit still accepts it. -/
def State.secondSet (s : State) : Option Issue :=
  s.second.bind fun x => match s.block? x.blk, s.group? x.blk x.grp with
    | some b, some g =>
      let stays (l : Nat) : Bool := (g.thread l).votes && (g.thread l).pc == x.pc
      let lanes := laneSet ((lanesOf x.lanes).filter stays)
      if b.st == .resident && lanes != 0 && s.accepts { x with lanes := lanes } then some { x with lanes := lanes } else none
    | _, _ => none
/-- A group whose STEP is over. -/
def State.steppedGroup (s : State) : Option (Nat × Nat) :=
  s.blocks.findSome? fun b => if b.st == .resident then (b.groups.find? fun g => g.stepped != 0).map fun g => (b.id, g.idx) else none
/-- The issue of this cycle or else of the next, or the passing of a cycle. -/
def State.issueAct (s : State) (free : Bool) : Act :=
  match s.choice with
  | some c => .issue c.1 c.2 false free
  | none => match s.passCycle.choice with
    | some c => .issue c.1 c.2 true free
    | none => .idle free
/-- What happens among the free events, an issue and the passing of time: one alternative more than there are events; without any event
nothing is chosen (log 2). -/
def State.pickAct (s : State) : Act :=
  let otherwise (free : Bool) : Act := s.issueAct free
  match s.freeEvents.filter (s.fires true) with
  | [] => otherwise false
  | e :: es =>
    match (e :: es)[s.choose (es.length + 2)]? with
    | some x => .event x.1 x.2 true
    | none => otherwise true
/-- While the package is Active. -/
def State.activeAct (s : State) : Act :=
  match s.secondSet with
  | some x => .second x
  | none =>
    match s.steppedGroup with
    | some g => .stepHalt g.1 g.2
    | none =>
      match s.dueEvents.find? (s.fires false) with
      | some e => .event e.1 e.2 false
      | none => match s.resumable with
        | some h => .resume h
        | none => s.pickAct
/-- What the package does of itself. -/
def State.ownAct (s : State) : Act :=
  match s.power with
  | .off => .off
  | .standby => .idle false
  | .active => s.activeAct
/-- An event of what comes from outside would be held: its source waits (R434). -/
def State.inputHeld (s : State) (e : Instr × Subject) : Bool :=
  match exec e.1 { s with subject := e.2, issue := none } with
  | .next t => decide (s.heldEvents.length < t.heldEvents.length)
  | _ => false
def State.act (s : State) : Act :=
  match s.inbox with
  | (i, x) :: rest =>
    if s.power == .off && i != .powerOn then .discard rest
    else if s.power == .standby && !asleep i then .wake
    else if s.inputHeld (i, x) then
      -- firmware frees entries meanwhile
      match rest.find? fun e => e.1 == .logReadIndexWrite with
      | some e => .input e.1 e.2 ((i, x) :: rest.erase e)
      | none => s.ownAct
    else .input i x rest
  | [] => s.ownAct

/-- The halt of a group whose STEP is over: at the lowest lane that issued, which may stand in a handler (log 60). -/
def State.endStep (s : State) (blk grp : Nat) : State :=
  match s.block? blk, s.group? blk grp with
  | some b, some g =>
    match s.launch? b.launch with
    | some l => let lane := (lanesOf g.stepped).headD 0; s.haltGroup b l grp lane (g.thread lane).pc 3
    | none => s
  | _, _ => s
/-- The free value of a choice is used up, and a cycle passes where it does. -/
def State.turned (s : State) (late free : Bool) : State :=
  let s := s.chose free
  if late then s.passCycle else s
/-- What an act does. -/
def State.perform (s : State) (a : Act) : Host.Outcome State Fault Refusal :=
  match a with
  | .off => .fault .poweredOff
  | .discard rest => .next { s with inbox := rest }
  | .input i x rest => exec i { s with inbox := rest, subject := x, issue := none }
  | .wake => exec .standbyWake { s with issue := none }
  | .second x => State.issueSet { s.updGroup x.blk x.grp fun g => g.alsoIssues x.lanes with issue := some x, second := none, subject := .none }
  | .stepHalt blk grp => .next (s.endStep blk grp)
  | .resume h => .next ((s.resume h).getD s)
  | .event i x free => exec i (s.atEvent x free)
  | .issue r passed late free => ((s.turned late free).prepare r passed).issueSet
  | .idle free => .next { s.turned true free with second := none, issue := none }

end Sys2Proof.Machine
end

