-- ==== Sys2Proof/Machine/Placing.lean ====
section
/-! DEFINITION. A program's next instruction placed where the next step fetches it (log 23): a launch of one block with one group whose
64 threads stand at it, the page and the access-table entries that the fetch asks for, and its bytes in HBM. -/

namespace Sys2Proof.Machine

open Sys2Proof

/-- The offset of the placed instruction, and of a handler that a fault would enter. -/
def placedAt : Nat := 0x10000
def placedHandler : Nat := 0x20000
/-- One 1 GiB page of context 0 at the start of die 0, resident and granting everything. -/
def placedEntry : Entry :=
  { key := { ctx := 0, table := 0, level := 1, index := 0 }, st := .resident, settled := false, zf := false, size := 0, leaseUs := 8,
    pr := true, pw := true, pa := true, nm := false, fdie := 0, addr := 0, granted := 0, changeAt := none, changed := 0, move := none, moves := [],
    settledUntil := 0 }
/-- Threads and engines of partition 0 may use die 0. -/
def placedAcl : List AclEntry :=
  let entry (target : AclTarget) (index last master : Nat) : AclEntry :=
    { target := target, index := index, last := last, first := 0, master := master, at_ := true, wr := true, rd := true }
  [entry (.slices 0) 0 0 0, entry (.hbm 0) 0 0x3FFFF 0, entry (.slices 0) 1 0 0x10, entry (.hbm 0) 1 0x3FFFF 0x10]
/-- A launch of one block, with 128 registers of each kind, 8 tiles, 64 KiB of tile store and 1 KiB of private words a thread. -/
def placedRecord (dev : Nat) : LaunchRec :=
  { LaunchRec.zero with code := BitVec.ofNat 64 (dev * 2 ^ 50 + placedAt), handler := BitVec.ofNat 64 (dev * 2 ^ 50 + placedHandler),
                        weight := 1, blocks := 1, x := 1, y := 1, z := 1, tiles := 0x10000, priv := 256, groups := 1, vregs := 128, uregs := 128,
                        accs := 8 }
def placedLaunch (dev : Nat) : Launch :=
  { id := 0, queue := 0, part := 0, ctx := 0, lr := placedRecord dev, policy := none, params := List.replicate 16 0, serial := 0, root := 0,
    returned := 0, next := 1, status := 0, stopped := false, complete := false, counter := 0, passed := [], ticketKnown := [],
    bars := [] }
def placedBlock (dev : Nat) : Block :=
  { Block.blank 0 (placedLaunch dev) [] none with
    blkidx := 0, st := .resident, rung := 0xFFFFFFFF, weight := 1, bars := newBarriers 1 1
    groups := [Group.start (placedRecord dev) (List.replicate 16 0) 0 0 0 0 0] }
/-- Bytes placed as the next instruction. -/
def State.placeBytes (s : State) (bs : List Byte) : State :=
  { s with power := .active, acl := placedAcl, entries := [placedEntry], hbm := s.hbm.writeBytes placedAt bs, partitions := [Partition.new 0 (BitVec.allOnes 48)],
           queues := [], launches := [placedLaunch s.dev], nextLaunch := 1, blocks := [placedBlock s.dev], nextBlock := 1, nextDispatch := 1,
           cores := [], contributions := [], armings := [], replicas := [], inbox := [], issue := none, second := none, subject := .none,
           turn := 0, fracs := [0, 0, 0, 0], logRing := none, heldEvents := [], nextPeriod := s.gtime + 10000, nextHot := s.gtime + 100000 }

end Sys2Proof.Machine
end

