-- ==== Sys2Proof/Machine/Step.lean ====
section
/-! DEFINITION. One step of the package, and where a program's next instruction is placed. -/

namespace Sys2Proof.Machine

open Sys2Proof

/-- One step: the next act (logs 4 and 5). -/
def step (s : State) : Host.Outcome State Fault Refusal := s.perform s.act

/-- The state with an instruction's bits placed so that the very next step fetches and runs it (log 23); bits above nbits are 0. -/
def State.withFetchWord (s : State) (_nbits w : Nat) : State := s.placeBytes (natBytes 8 w)

end Sys2Proof.Machine
end

