-- ==== Sys2Proof/Safety.lean ====
section
/-! DEFINITION. What counts as a safe run, in the terms the claims use: when a thread's instruction issues, what its lanes and its group
change and what stays as it is, and the invariants. -/

namespace Sys2Proof.Machine

open Sys2Proof

/-! ## Issuing -/

/-- The issue set c stands before the instruction i with every register i names inside its allotments (R57). -/
abbrev Issues (s : State) (c : Sel) (i : Instr) : Prop := s.sel = some c ∧ c.rangeOk i = true

/-- A lane of the set whose guard holds (R58): the ones in which an instruction has its effect. -/
abbrev Sel.acts (c : Sel) (i : Instr) (lane : Nat) (t : Thread) : Bool :=
  c.issue.lanes.getLsbD lane && guardOk (instrMods i) t

/-- What R58 leaves of a thread after an instruction of one set that does `f` in each guard-true lane: the others of the set only move
their PC on, and the rest of the group does nothing. -/
def Sel.after (c : Sel) (i : Instr) (f : Nat → Thread → Thread) (lane : Nat) (t : Thread) : Thread :=
  if c.issue.lanes.getLsbD lane then (if guardOk (instrMods i) t then f lane t else t).advance (Instr.len i) else t

/-- The package after an instruction that acts lane by lane: nothing but the threads of its group has changed. -/
def State.lanesDo (s : State) (c : Sel) (i : Instr) (f : Nat → Thread → Thread) : State :=
  s.updGroup c.blk c.grp fun g => { g with threads := g.threads.mapIdx (c.after i f) }

/-- The package after an instruction that writes its group once where some thread is guard-true (R121). -/
def State.groupDoes (s : State) (c : Sel) (i : Instr) (f : Group → Group) : State :=
  (if c.guarded i = [] then s else s.updGroup c.blk c.grp f).lanesDo c i fun _ t => t

/-! ## What stays as it is -/

/-- Nothing but blocks differs: no memory, no cache, no queue, no platform register. -/
def OnlyBlocks (s t : State) : Prop := t = { s with blocks := t.blocks }

/-- Nothing but one group differs. -/
def OnlyGroup (s t : State) (blk grp : Nat) : Prop :=
  OnlyBlocks s t ∧ (∀ b, b ≠ blk → t.block? b = s.block? b)
    ∧ (t.block? blk).map (fun b => { b with groups := [] }) = (s.block? blk).map (fun b => { b with groups := [] })
    ∧ ∀ g, g ≠ grp → t.group? blk g = s.group? blk g

/-- Nothing but the threads of one group differs. -/
def OnlyThreads (s t : State) (blk grp : Nat) : Prop :=
  OnlyGroup s t blk grp
    ∧ (t.group? blk grp).map (fun g => { g with threads := [] }) = (s.group? blk grp).map (fun g => { g with threads := [] })

/-- The instruction completes with its own effect: where the set issues it, the step goes on to a state in which every guard-true lane of
the set has had `f` done to it and its PC moved on (R58), and nothing but the threads of the group has changed. -/
@[irreducible] def LanesEnd (i : Instr) (s : State) (c : Sel) (f : Nat → Thread → Thread) : Prop :=
  ∃ t, exec i s = .next t ∧ OnlyThreads s t c.blk c.grp
    ∧ ∀ lane th, s.thread? c.blk c.grp lane = some th → t.thread? c.blk c.grp lane = some (c.after i f lane th)

/-- The same for an instruction that writes its group once (R121). -/
@[irreducible] def GroupEnds (i : Instr) (s : State) (c : Sel) (f : Group → Group) : Prop := exec i s = .next (s.groupDoes c i f)

/-- The same for a transfer of control, which sets the PC of the guard-true lanes itself (R98-R100). -/
@[irreducible] def JumpEnds (i : Instr) (s : State) (c : Sel) (f : Nat → Thread → Thread) : Prop :=
  ∃ t, exec i s = .next t ∧ OnlyThreads s t c.blk c.grp
    ∧ ∀ lane th, s.thread? c.blk c.grp lane = some th → t.thread? c.blk c.grp lane =
        some (if c.issue.lanes.getLsbD lane then (if guardOk (instrMods i) th then f lane th else th.advance (Instr.len i)) else th)

/-- The lanes of a set behind a boundary instruction: the guard-true ones with their region entry (R94), the others with their PC (R58). -/
def Group.passedBy (g : Group) (c : Sel) (i : Instr) : Group :=
  { g with threads := g.threads.mapIdx fun l t =>
      if c.issue.lanes.getLsbD l then (if guardOk (instrMods i) t then t.pass (Instr.len i) else t.advance (Instr.len i)) else t }

/-- A boundary instruction completes that changes its group by `f`, once where some lane is guard-true (R94, R105). -/
@[irreducible] def BoundaryEnds (i : Instr) (s : State) (c : Sel) (f : Group → Group) : Prop :=
  ∃ t, exec i s = .next t ∧ OnlyGroup s t c.blk c.grp
    ∧ t.group? c.blk c.grp = some ((if c.guarded i = [] then c.g else f c.g).passedBy c i)

/-- No guard-true lane of the set has an earlier load outstanding (R94). -/
abbrev NoLoads (c : Sel) (i : Instr) : Prop := ∀ l ∈ c.guarded i, c.g.loading l = false

/-- The set is of live lanes and nothing holds it up: no thread of it is in a handler or has a load outstanding, no wait is open, the group
is not halted and the block is resident (R87, R459). -/
structure MemberSet (s : State) (c : Sel) : Prop where
  live : laneSubset c.issue.lanes c.g.liveLanes = true
  some : c.issue.lanes ≠ 0
  untrapped : ∀ l ∈ c.lanes, (c.thread l).trapped = false
  loads : ∀ l ∈ c.lanes, c.g.loading l = false
  waits : c.g.waits = []
  index : c.g.idx = c.grp
  going : c.g.halted = false
  resident : c.b.st = .resident
/-- And it is the whole live group (R90). -/
structure WholeSet (s : State) (c : Sel) : Prop extends MemberSet s c where
  lanes : c.issue.lanes = c.g.liveLanes

/-- The group while the whole set waits at an instruction, which is its region entry (R87, R94). -/
def Sel.waiting (c : Sel) (i : Instr) : Group :=
  { c.g with
    waits := [⟨c.issue.pc, i, c.issue.lanes, c.issue.lanes, laneSet (c.guarded i)⟩]
    threads := c.g.threads.mapIdx fun l t =>
      if c.issue.lanes.getLsbD l then { t with st := .member, region := c.issue.pc } else t }
/-- The members leave: runnable behind the instruction, and so is their region entry (R87, R94). -/
def Group.resumed (g : Group) (lanes : LaneSet) (len : Nat) : Group :=
  { g with waits := [], threads := g.threads.mapIdx fun l t => if lanes.getLsbD l then (t.setState .runnable).pass len else t }

/-- An instruction that the whole set issues completes: its threads become member-waiting, and the completion of the wait, the very next
thing that may happen, does `f` to the group and lets its members go on (R87). -/
@[irreducible] def WaitEnds (i : Instr) (s : State) (c : Sel) (f : Group → Group) : Prop :=
  ∃ t u, exec i s = .next t ∧ OnlyGroup s t c.blk c.grp ∧ t.group? c.blk c.grp = some (c.waiting i)
    ∧ exec .memberWaitComplete { t with subject := .wait c.blk c.grp c.issue.pc } = .next u
    ∧ OnlyGroup { t with subject := .wait c.blk c.grp c.issue.pc } u c.blk c.grp
    ∧ u.group? c.blk c.grp = some ((f (c.waiting i)).resumed c.issue.lanes (Instr.len i))

/-- A run is safe while no step ends in a fault or a refusal: the state goes on. -/
def Goes (o : Host.Outcome State Fault Refusal) : Prop := ∃ t, o = .next t

/-- No lane of the set has a trap enabled in FPENV bits 13:8 (R164), so that no flag raises FPTRAP. -/
abbrev NoTraps (c : Sel) : Prop := ∀ lane ∈ c.lanes, (c.thread lane).fpenv.extractLsb' 8 6 = 0

/-! ## Faults (spec 15) -/

/-- Where the k-th record after the ring's last stands (R433). -/
def LogRing.slot (r : LogRing) (k : Nat) : Nat := r.base + 32 * ((r.writeIdx + k) % r.size)
/-- Memory differs in the log alone: not at all where no ring is placed (R435), else in the 32 bytes of each of the n records that the ring has
taken (R433). -/
def LogMem (s t : State) : Prop :=
  match s.logRing with
  | none => t.logRing = none ∧ t.hbm = s.hbm
  | some r => ∃ n hints, t.logRing = some { r with writeIdx := r.writeIdx + n, hints := hints }
      ∧ (s.hbm.wf = true → t.hbm.wf = true ∧ ∀ a, (∀ k < n, a < r.slot k ∨ r.slot k + 32 ≤ a) → t.hbm.read a = s.hbm.read a)
/-- Nothing but blocks and the Meridian's log differs; the writes to a placed ring count at their controllers (R265), and may raise its vector
(R465). -/
def OnlyLog (s t : State) : Prop :=
  LogMem s t ∧ match s.logRing with
    | none => t = { s with blocks := t.blocks, seq := t.seq, bootRing := t.bootRing, leftOut := t.leftOut, heldEvents := t.heldEvents }
    | some _ => t = { s with blocks := t.blocks, seq := t.seq, heldEvents := t.heldEvents, logRing := t.logRing, hbm := t.hbm, msix := t.msix,
                             sketches := t.sketches, soft := t.soft, eccCounts := t.eccCounts }

/-- The log takes n more records (R434). -/
def LogRoom (s : State) (n : Nat) : Prop := ∀ r, s.logRing = some r → r.used + n ≤ r.size

/-- Some lanes can be delivered a fault: there is a handler (R443), each is runnable and outside a handler (R449), and the log has room for
their records (R434). -/
structure TrapReady (s : State) (c : Sel) (ls : List Nat) : Prop where
  handler : c.l.lr.handler ≠ 0
  runnable : ∀ l ∈ ls, (c.thread l).st = .runnable
  untrapped : ∀ l ∈ ls, (c.thread l).trapped = false
  room : LogRoom s ls.length

/-- The record of the k-th of the lanes that one instruction faults in (R440, R441). -/
def Sel.recordOf (c : Sel) (s : State) (k lane : Nat) (region : Dword) (f : Fail) : FaultRec :=
  { seql := BitVec.ofNat 32 (s.nextSeq + k), block := BitVec.ofNat 32 c.b.blkidx, rego := (region - c.l.lr.code).setWidth 32,
    pco := (c.issue.pc - c.l.lr.code).setWidth 32, addr := f.addr, detail := f.detail, grp := BitVec.ofNat 7 c.grp,
    lane := BitVec.ofNat 6 lane, code := BitVec.ofNat 8 f.code }

/-- The instruction faults in some lanes, each in its region: each logs its record, in ascending lane order, and enters the handler with its
registers kept (R446); the other threads become what `others` says, and nothing else changes but the log and the group's operand latch. -/
@[irreducible] def TrapsFrom (i : Instr) (s : State) (c : Sel) (ls : List Nat) (f : Nat → Fail) (resume : Dword)
    (others : Nat → Thread → Thread) (region : Thread → Dword) : Prop :=
  ∃ t, exec i s = .next t ∧ OnlyLog s t ∧ t.nextSeq = s.nextSeq + ls.length
    ∧ (∀ b, b ≠ c.blk → t.block? b = s.block? b) ∧ (∀ g, g ≠ c.grp → t.group? c.blk g = s.group? c.blk g)
    ∧ (t.group? c.blk c.grp).map (fun g => { g with threads := [], latch := none })
        = (s.group? c.blk c.grp).map (fun g => { g with threads := [], latch := none })
    ∧ ∀ lane th, s.thread? c.blk c.grp lane = some th → t.thread? c.blk c.grp lane = some (
        if lane ∈ ls then
          let r := c.recordOf s (ls.idxOf lane) lane (region th) (f lane)
          { th with trap := some { resume := resume, region := region th, record := r }, last := some r,
                    pc := c.l.lr.handler, region := c.l.lr.handler, armRecord := none }
        else others lane th)
/-- The same fault in each lane, in the region that it stands in; the other lanes of the set move on where `others`. -/
abbrev TrapsEnd (i : Instr) (s : State) (c : Sel) (ls : List Nat) (f : Fail) (resume : Dword) (others : Bool) : Prop :=
  TrapsFrom i s c ls (fun _ => f) resume
    (fun l th => if others && c.issue.lanes.getLsbD l then th.advance (Instr.len i) else th) Thread.region
/-- A boundary instruction faults in every lane of the set, in the region that it opens (R94). -/
abbrev TrapsAt (i : Instr) (s : State) (c : Sel) (f : Fail) : Prop :=
  TrapsFrom i s c c.lanes (fun _ => f) c.issue.pc (fun _ th => th) fun _ => c.issue.pc

/-- An instruction that the whole set issues fails its check as its wait completes: every member enters the handler from it (R88, R322). -/
@[irreducible] def WaitTraps (i : Instr) (s : State) (c : Sel) (f : Fail) : Prop :=
  ∃ t u, exec i s = .next t ∧ OnlyGroup s t c.blk c.grp ∧ t.group? c.blk c.grp = some (c.waiting i)
    ∧ exec .memberWaitComplete { t with subject := .wait c.blk c.grp c.issue.pc } = .next u
    ∧ OnlyLog { s with subject := .wait c.blk c.grp c.issue.pc } u ∧ u.nextSeq = s.nextSeq + c.lanes.length
    ∧ (∀ b, b ≠ c.blk → u.block? b = s.block? b) ∧ (∀ g, g ≠ c.grp → u.group? c.blk g = s.group? c.blk g)
    ∧ (u.group? c.blk c.grp).map (fun g => { g with threads := [], latch := none }) = some { c.g with threads := [], latch := none, waits := [] }
    ∧ ∀ lane th, s.thread? c.blk c.grp lane = some th → u.thread? c.blk c.grp lane = some (
        if lane ∈ c.lanes then
          let r := c.recordOf s (c.lanes.idxOf lane) lane c.issue.pc f
          { th with trap := some { resume := c.issue.pc, region := c.issue.pc, record := r }, last := some r,
                    pc := c.l.lr.handler, region := c.l.lr.handler, armRecord := none }
        else th)

/-- An FP instruction ends as R164 says, where `f` gives the thread with its result written and the flags raised: with no trap enabled every
lane writes and adds its flags; else those whose flags meet an enabled trap take FPTRAP with all of them, and nothing of theirs is
written (R165). -/
def FpEnds (i : Instr) (s : State) (c : Sel) (f : Thread → Thread × Flags) : Prop :=
  let done (_ : Nat) (t : Thread) : Thread := (f t).1.raiseFlags (f t).2
  (NoTraps c → LanesEnd i s c done)
    ∧ ∀ ls, ls = (c.guarded i).filter (fun l => (f (c.thread l)).2 &&& (c.thread l).fpenv.extractLsb' 8 6 != 0) → TrapReady s c ls →
        TrapsFrom i s c ls (fun l => ⟨0x10, 0, (f (c.thread l)).2.setWidth 32⟩) c.issue.pc (c.after i done) Thread.region

/-! ## Memory accesses (spec 06) -/

/-- A launch without DET, a block that is no monitored attempt, and a partition whose memory budgets are not used up: the cases in which R360,
R341 and R426 change nothing. -/
structure Plain (s : State) (c : Sel) : Prop where
  det : c.l.lr.det = false
  monitored : c.b.monitored = false
  hbm : s.throttled c.l.part bHBM = false
  fabric : s.throttled c.l.part bFABRIC = false

/-- An access of n bytes at ea passes the checks of R190, R205 and R210. -/
structure AccessOk (s : State) (c : Sel) (ea n align : Nat) : Prop where
  space : spaceFault s.podSize ea = none
  aligned : ea % align = 0
  priv : eaSpace ea = 2 → eaOff ea + n ≤ 4 * c.l.lr.priv
  tile : eaSpace ea = 3 → eaOff ea + n ≤ c.l.lr.tiles
/-- And the one of R412 for a write of a launch with OWN. -/
def OwnedOk (c : Sel) (ea n : Nat) : Prop := c.l.lr.own = true → eaSpace ea ≤ 1 → c.b.owns ea n = true

/-- The byte that the last of several writes leaves at an address; R202: the lanes come in ascending order. -/
def lastWrite (xs : List (Nat × Byte)) (a : Nat) : Option Byte := (xs.reverse.find? fun x => x.1 == a).map Prod.snd

/-- The bytes of a core's pending and queued stores at an address, the latest first (R196). -/
def Core.storedByte (k : Core) (ctx a : Nat) : Option Byte :=
  (k.stores.reverse.filter fun e => e.ctx == ctx && e.line == a / 128).findSome? fun e =>
    (e.bytes.find? fun b => b.off == a % 128).map StoreByte.val

/-- Nothing but blocks and one core's own state differs. -/
def OnlyCore (s t : State) (core : Nat) : Prop :=
  t = { s with blocks := t.blocks, cores := t.cores } ∧ ∀ n, n ≠ core → t.core n = s.core n

/-- The memory a place lies in, and its address there. -/
def State.memOf (s : State) : Place → Mem
  | .hbm _ => s.hbm
  | .host _ => s.host
  | .remote _ => s.remote
def Place.at_ : Place → Nat
  | .hbm a => a
  | .host a => a
  | .remote a => a
/-- The three memories other than the one a place lies in. -/
def SameElsewhere (s t : State) : Place → Prop
  | .hbm _ => t.host = s.host ∧ t.remote = s.remote ∧ t.backing = s.backing
  | .host _ => t.hbm = s.hbm ∧ t.remote = s.remote ∧ t.backing = s.backing
  | .remote _ => t.hbm = s.hbm ∧ t.host = s.host ∧ t.backing = s.backing
/-- No memory differs. -/
def SameMem (s t : State) : Prop := t.hbm = s.hbm ∧ t.host = s.host ∧ t.remote = s.remote ∧ t.backing = s.backing
/-- No memory differs but in the log. -/
def SameButLog (s t : State) : Prop := LogMem s t ∧ t.host = s.host ∧ t.remote = s.remote ∧ t.backing = s.backing
/-- The eight bytes of HBM that hold an entry of a page table (R256). -/
def EntryBytes (s : State) (k : EntryKey) (a : Nat) : Prop := ∃ p, s.entryPlace k = some p ∧ p ≤ a ∧ a < p + 8
/-- Memory differs in the log and in the bytes of one entry (R261, R433). -/
def EntryMem (s t : State) (k : EntryKey) : Prop :=
  t.host = s.host ∧ t.remote = s.remote ∧ t.backing = s.backing
    ∧ (s.hbm.wf = true → ∃ m, LogMem s { t with hbm := m } ∧ ∀ a, ¬EntryBytes s k a → t.hbm.read a = m.read a)
/-- The core holds no line, no store, no write-back, no buffered sum and no outstanding load, so that every access goes to its home and
nothing waits for it (R193, R195, R196, R209, R402). -/
structure EmptyCore (s : State) (core : Nat) : Prop where
  lines : (s.core core).lines = []
  stores : (s.core core).stores = []
  buffers : (s.core core).buffers = []
  sent : (s.core core).sent = []
  loads : ∀ b ∈ s.blocksOn core, ∀ g ∈ b.groups, g.loads = []
/-- The threads after an instruction that only moves its set on, and nothing but `rest` says. -/
def Moves (i : Instr) (s t : State) (c : Sel) : Prop :=
  ∀ lane th, s.thread? c.blk c.grp lane = some th → t.thread? c.blk c.grp lane = some (if c.issue.lanes.getLsbD lane then th.advance (Instr.len i) else th)
/-- The bytes that a store of n bytes takes from a thread's registers from d on, lowest first (R213). -/
def Thread.stored (t : Thread) (d n : Nat) : List Byte := (List.range n).map fun i => (t.vr (d + i / 4)).extractLsb' (8 * (i % 4)) 8

/-! ## Values that the claims name -/

/-- An exact integer as an entry leaves it in a word: its low 32 bits, or with `.sat` Sat(x, i32) (R10, R136). -/
def exactWord (sat : Bool) (x : Int) : Word := BitVec.ofInt 32 (if sat then max (-2147483648) (min x 2147483647) else x)
/-- The same for the unsigned type of IDOT4 (R146). -/
def exactWordN (sat : Bool) (x : Int) : Word := BitVec.ofInt 32 (if sat then max 0 (min x 4294967295) else x)

/-- The result of R164 in a register or an even pair, and its flags. -/
def Thread.writeFp (t : Thread) (d : RegNum) (r : FpOut) : Thread × Flags := (t.setV d.toNat (BitVec.ofNat 32 r.bits), r.flags)
def Thread.writeFp64 (t : Thread) (d : RegNum) (r : FpOut) : Thread × Flags := (t.setPair d.toNat (BitVec.ofNat 64 r.bits), r.flags)

/-! ## Blocks and launches (spec 11, 13) -/

/-- Where COUNTER stands once tickets have been passed: at the first number, from its old one on, that is not (R390). -/
def CounterAt (passed : List (Nat × Bool)) (old new : Nat) : Prop :=
  old ≤ new ∧ (∀ k, old ≤ k → k < new → k ∈ passed.map Prod.fst) ∧ new ∉ passed.map Prod.fst
/-- A launch after block n has passed its ticket, once (R390, R392). -/
def TicketPassed (l l' : Launch) (n : Nat) : Prop :=
  if n ∈ l.passed.map Prod.fst then l'.passed = l.passed ∧ l'.counter = l.counter
  else l'.passed = l.passed ++ [(n, false)] ∧ CounterAt l'.passed l.counter l'.counter
/-- The Gazetteer's entry of a block after its commit (R357); `find` is what the table then holds at the block's index. -/
def GazRow (k : Lookup) (floor ceil rung : Nat) (unchanged : Prop) (find : Nat → Nat → Prop) : Prop :=
  let st := min (max k.rg floor) ceil
  (k.hit = false → find rung 2)
  ∧ (k.hit = true → 2 ≤ k.cf → k.probe = false → find rung (if rung = st then min (k.cf + 1) 3 else k.cf - 1))
  ∧ (k.hit = true → 2 ≤ k.cf → k.probe = true →
      (rung + 1 = st → find rung 2) ∧ (rung = st → unchanged) ∧ (st < rung → find rung (k.cf - 1)))
  ∧ (k.hit = true → k.cf < 2 → if rung = k.rg then find k.rg (k.cf + 1) else find rung 1)
/-- A barrier of a scope that the block may use (R389); at .core nothing stands in its way. -/
def BarOk (s : State) (c : Sel) (scope : Nat) : Prop :=
  2 ≤ scope → c.b.monitored = false ∧ c.l.lr.det = false ∧ c.l.lr.coop = true ∧ ∀ p, s.part? c.l.part = some p → p.spans scope = false
/-- The XBLOCK cause of R389 that a barrier meets. -/
def BarCause (s : State) (c : Sel) (scope num : Nat) (d : Nat) : Prop :=
  2 ≤ scope ∧ match d with
    | 1 => c.b.monitored = true
    | 2 => c.b.monitored = false ∧ c.l.lr.det = true
    | 3 => c.b.monitored = false ∧ c.l.lr.det = false ∧ c.l.lr.coop = false
    | 4 => c.b.monitored = false ∧ c.l.lr.det = false ∧ c.l.lr.coop = true ∧ ∃ p q r, s.part? c.l.part = some p
        ∧ q < r ∧ r < 48 ∧ p.quads.getLsbD q = true ∧ p.quads.getLsbD r = true ∧ (scope = 2 ∨ (scope = 3 ∧ q / 12 ≠ r / 12))
    | 5 => BarOk s c scope ∧ scope = 5 ∧ (findBar c.l.bars 5 num).bind Barrier.comm = none
    | _ => False

/-! ## Matrix operations (spec 10) -/

/-- The reduction length K of a format of R316, and its element width. -/
def matK (fmt : Nat) : Nat := [64, 64, 64, 32, 32, 32, 32, 16, 16, 8].getD fmt 0
def matBits (fmt : Nat) : Nat := [4, 6, 6, 8, 8, 8, 8, 16, 32, 64].getD fmt 0
/-- An element by its bits and, in an MX format, the E8M0 scale of its block (R317, R320). -/
def matVal (fmt bits scale : Nat) : MatVal := ⟨(matElem fmt).value bits, if fmt ≤ 4 then scale else 127⟩
/-- Element k of the n in a lane's fragment, its scale in byte k div 32 of the register behind them (R317). -/
def fragElem (fmt n : Nat) (regs : List Word) (k : Nat) : MatVal :=
  matVal fmt (wordsNat (regs.take (n * matBits fmt / 32)) / 2 ^ (matBits fmt * k) % 2 ^ matBits fmt)
    ((regs.getD (n * matBits fmt / 32) 0).toNat / 2 ^ (8 * (k / 32)) % 256)
/-- B[k][j] of a dense operand of kb elements a column (R318). -/
def denseElem (fmt kb : Nat) (b : List Byte) (k j : Nat) : MatVal :=
  let cb := kb * matBits fmt / 8
  matVal fmt (ofBytes ((b.drop (j * cb)).take cb) / 2 ^ (matBits fmt * k) % 2 ^ matBits fmt) (b.getD (64 * cb + j * (kb / 32) + k / 32) 0).toNat
/-- Stored value t of group g of column j of a compressed operand, with its logical position (R327). -/
def sparseElem (fmt n : Nat) (b : List Byte) (g t j : Nat) : Nat × MatVal :=
  let w := matBits fmt
  let kl := 2 * matK fmt
  let groups := kl / 64
  let cbs := groups * n * w / 8
  let scales := if fmt ≤ 4 then 2 * kl else 0
  let idx := ofBytes ((b.drop (64 * cbs + scales + (j * groups + g) * (3 * n / 4))).take (3 * n / 4)) / 2 ^ (6 * t) % 64
  let k := 64 * g + idx
  (k, matVal fmt (ofBytes ((b.drop (j * cbs + g * (n * w / 8))).take (n * w / 8)) / 2 ^ (w * t) % 2 ^ w) (b.getD (64 * cbs + j * (kl / 32) + k / 32) 0).toNat)
/-- The pairs whose products element (i, j) sums, chunk by chunk (R319, R320, R327): exited lanes give none in `.tn`. -/
def MatrixOp.sums (m : MatrixOp) (i j : Nat) : List (List (MatVal × MatVal)) :=
  let k := matK m.fmt
  let row := (assoc m.a i).getD []
  if m.sparse then
    (List.range (2 * k / 64)).map fun g => (List.range (if m.n16 then 16 else 32)).map fun t =>
      let x := sparseElem m.fmt (if m.n16 then 16 else 32) m.b g t j
      (fragElem m.fmt (2 * k) row x.1, x.2)
  else
    let l := if m.fmt = 9 then 8 else if m.fmt ≤ 6 ∨ m.tn = true then 32 else 16
    if m.tn then
      (List.range (64 / l)).map fun c => (List.range l).filterMap fun p =>
        (assoc m.a (c * l + p)).map fun regs => (fragElem m.fmt k regs (i - m.q * k), denseElem m.fmt 64 m.b (c * l + p) j)
    else (List.range (k / l)).map fun c => (List.range l).map fun p => (fragElem m.fmt k row (c * l + p), denseElem m.fmt k m.b (c * l + p) j)
/-- The rows of D that change (R319, R322). -/
def MatrixOp.changes (m : MatrixOp) (i : Nat) : Prop :=
  if m.tn then m.q * matK m.fmt ≤ i ∧ i < (m.q + 1) * matK m.fmt else (assoc m.a i).isSome
/-- What R320 makes of an element: its chunks in ascending order, an empty one left out, each summed and added under R321. -/
def chainOf (f : Fmt) (mode : RMode) (chunks : List (List Product)) (start : Nat) : Nat × Flags :=
  chunks.foldl (fun x ps =>
    if ps = [] then x
    else
      let t := chunkSum f mode ps
      let n := accumulate f mode x.1 t.1
      (n.1, x.2 ||| t.2 ||| n.2)) (start, 0)

/-! ## Invariants -/

/-- No two entries of an access table stand at one index (R471). -/
def AclDistinct (acl : List AclEntry) : Prop := acl.Pairwise fun a b => ¬(a.target = b.target ∧ a.index = b.index)

/-- What the platform's registers can hold: four arithmetic clocks of 1.2 to 2.7 GHz (R21), a power cap of 2,000 to 10,000 W in steps of 100
(R477), a pod of 1 to 576 devices with this one among them (R466), 36 replay counters and eight network addresses (R468, R469), failed ports
among the 36, each once, and access-table entries at targets and indices that exist, each index once (R471). -/
structure PlatOk (p : Plat) : Prop where
  dies : p.freq.length = 4
  clocks : ∀ f ∈ p.freq, 12 ≤ f ∧ f ≤ 27
  cap : 2000 ≤ p.powerCap ∧ p.powerCap ≤ 10000 ∧ p.powerCap % 100 = 0
  pod : p.dev < p.podSize ∧ p.podSize ≤ 576
  counters : p.replays.length = 36 ∧ p.netAddr.length = 8
  ports : (∀ d ∈ p.portsDown, d.1 < 36) ∧ (p.portsDown.map Prod.fst).Nodup
  targets : ∀ e ∈ p.acl, targetOk e.target = true ∧ e.index < 64
  indices : AclDistinct p.acl

/-- Every memory of the package is in its canonical form. -/
def MemOk (s : State) : Prop := s.hbm.wf = true ∧ s.host.wf = true ∧ s.remote.wf = true ∧ s.backing.wf = true

end Sys2Proof.Machine
end

