-- ==== Sys2Proof/Certificates/Slice0/Obligations.lean ====
section
/-! DEFINITION. The statements for the provers, one `def Obligations.<Name> : Prop` each; OBLIGATIONS.json lists them with the rules they
formalise. -/

open Sys2Proof Sys2Proof.Machine

/-! ## Integer instructions (spec 04) -/

/-- R134, R135: what the moves and the unary operations write. `Reversed`, `Leading` and the rest say the value by its bits. -/
def Obligations.MovesAndUnaryOperationsWriteTheirValue : Prop :=
  ∀ (s : State) (c : Sel),
    (∀ o, Issues s c (.mov o) → LanesEnd (.mov o) s c fun _ t => t.setV o.d.toNat (operandB c.g t o.bk o.b))
    ∧ (∀ o, Issues s c (.not o) → LanesEnd (.not o) s c fun _ t => t.setV o.d.toNat (~~~operandB c.g t o.bk o.b))
    ∧ (∀ o, Issues s c (.popc o) → LanesEnd (.popc o) s c fun _ t =>
        t.setV o.d.toNat (BitVec.ofNat 32 (((List.range 32).filter fun i => (operandB c.g t o.bk o.b).getLsbD i).length)))
    ∧ (∀ o, Issues s c (.clz o) → ∃ f : Word → Nat,
        (∀ b, f b ≤ 32 ∧ (∀ i < 32, 31 - i < f b → b.getLsbD i = false) ∧ (f b < 32 → b.getLsbD (31 - f b) = true))
        ∧ LanesEnd (.clz o) s c fun _ t => t.setV o.d.toNat (BitVec.ofNat 32 (f (operandB c.g t o.bk o.b))))
    ∧ (∀ o, Issues s c (.ctz o) → ∃ f : Word → Nat,
        (∀ b, f b ≤ 32 ∧ (∀ i < f b, b.getLsbD i = false) ∧ (f b < 32 → b.getLsbD (f b) = true))
        ∧ LanesEnd (.ctz o) s c fun _ t => t.setV o.d.toNat (BitVec.ofNat 32 (f (operandB c.g t o.bk o.b))))
    ∧ (∀ o, Issues s c (.brev o) → ∃ f : Word → Word, (∀ b, ∀ i < 32, (f b).getLsbD i = b.getLsbD (31 - i))
        ∧ LanesEnd (.brev o) s c fun _ t => t.setV o.d.toNat (f (operandB c.g t o.bk o.b)))
    ∧ (∀ o, Issues s c (.p2v o) → LanesEnd (.p2v o) s c fun _ t => t.setV o.d.toNat (t.p.setWidth 32))
    ∧ (∀ o, Issues s c (.v2p o) → ∃ f : BitVec 7 → Word → BitVec 7,
        (∀ p b, ∀ i < 7, (f p b).getLsbD i = if o.d.getLsbD i then b.getLsbD i else p.getLsbD i)
        ∧ LanesEnd (.v2p o) s c fun _ t => { t with p := f t.p (operandB c.g t o.bk o.b) })
    ∧ (∀ o, Issues s c (.movi o) → LanesEnd (.movi o) s c fun _ t => t.setV o.d.toNat o.lit)

/-- R136-R139: sums, differences and products; without `.sat` the low bits of the exact value, with it Sat(x, i32). -/
def Obligations.SumsDifferencesAndProductsAreExactThenNarrowed : Prop :=
  ∀ (s : State) (c : Sel) (o : OpR),
    let sat := (modsOf o.m).sat
    let pc := (modsOf o.m).c.toNat % 8
    let a (t : Thread) : Word := t.vr o.a.toNat
    let b (t : Thread) : Word := operandB c.g t o.bk o.b
    let cc (t : Thread) : Word := operandC c.g t (modsOf o.m).c
    let cp (t : Thread) : Dword := pairC c.g t (modsOf o.m).c
    (Issues s c (.iadd o) → LanesEnd (.iadd o) s c fun _ t => t.setV o.d.toNat (exactWord sat ((a t).toInt + (b t).toInt)))
    ∧ (Issues s c (.isub o) → LanesEnd (.isub o) s c fun _ t => t.setV o.d.toNat (exactWord sat ((a t).toInt - (b t).toInt)))
    ∧ (Issues s c (.imul o) → LanesEnd (.imul o) s c fun _ t => t.setV o.d.toNat (exactWord sat ((a t).toInt * (b t).toInt)))
    ∧ (Issues s c (.imulhI32 o) → LanesEnd (.imulhI32 o) s c fun _ t =>
        t.setV o.d.toNat (BitVec.ofInt 32 ((a t).toInt * (b t).toInt / 4294967296)))
    ∧ (Issues s c (.imulhN32 o) → LanesEnd (.imulhN32 o) s c fun _ t =>
        t.setV o.d.toNat (BitVec.ofNat 32 ((a t).toNat * (b t).toNat / 4294967296)))
    ∧ (Issues s c (.imad o) → LanesEnd (.imad o) s c fun _ t =>
        t.setV o.d.toNat (exactWord sat ((a t).toInt * (b t).toInt + (cc t).toInt)))
    ∧ (Issues s c (.imadwI32 o) → LanesEnd (.imadwI32 o) s c fun _ t =>
        t.setPair o.d.toNat (BitVec.ofInt 64 ((a t).toInt * (b t).toInt + (cp t).toInt)))
    ∧ (Issues s c (.imadwN32 o) → LanesEnd (.imadwN32 o) s c fun _ t =>
        t.setPair o.d.toNat (BitVec.ofNat 64 ((a t).toNat * (b t).toNat + (cp t).toNat)))
    ∧ (Issues s c (.iadc o) → LanesEnd (.iadc o) s c fun _ t =>
        let x := (a t).toNat + (b t).toNat + (t.pr pc).toNat
        (t.setV o.d.toNat (BitVec.ofNat 32 x)).setP pc (x / 4294967296 == 1))
    ∧ (Issues s c (.isbb o) → LanesEnd (.isbb o) s c fun _ t =>
        let y := (b t).toNat + (t.pr pc).toNat
        (t.setV o.d.toNat (BitVec.ofInt 32 ((a t).toNat - y))).setP pc (decide ((a t).toNat < y)))
    ∧ (Issues s c (.iadd64 o) → LanesEnd (.iadd64 o) s c fun _ t =>
        t.setPair o.d.toNat (BitVec.ofNat 64 ((t.vPair o.a.toNat).toNat + (pairB c.g t o.bk o.b).toNat)))
    ∧ (Issues s c (.isub64 o) → LanesEnd (.isub64 o) s c fun _ t =>
        t.setPair o.d.toNat (BitVec.ofInt 64 ((t.vPair o.a.toNat).toNat - (pairB c.g t o.bk o.b).toNat)))

/-- R140, R141: the quotient rounds toward zero and a = q * b + r; a zero divisor and the overflowing quotient have the results of the table;
minimum and maximum by type. -/
def Obligations.DivisionRoundsTowardZeroAndHasItsCorners : Prop :=
  ∀ (s : State) (c : Sel) (o : OpR),
    let sat := (modsOf o.m).sat
    let a (t : Thread) : Word := t.vr o.a.toNat
    let b (t : Thread) : Word := operandB c.g t o.bk o.b
    let set (f : Word → Word → Word) (t : Thread) : Thread := t.setV o.d.toNat (f (a t) (b t))
    (∃ q r : Word → Word → Word,
        (Issues s c (.idivI32 o) → LanesEnd (.idivI32 o) s c fun _ t => set q t)
        ∧ (Issues s c (.iremI32 o) → LanesEnd (.iremI32 o) s c fun _ t => set r t)
        ∧ (∀ x, q x 0 = 0xFFFFFFFF ∧ r x 0 = x)
        ∧ q 0x80000000 0xFFFFFFFF = (if sat then 0x7FFFFFFF else 0x80000000) ∧ r 0x80000000 0xFFFFFFFF = 0
        ∧ ∀ x y, y ≠ 0 → ¬(x = 0x80000000 ∧ y = 0xFFFFFFFF) →
            x.toInt = (q x y).toInt * y.toInt + (r x y).toInt ∧ (r x y).toInt.natAbs < y.toInt.natAbs ∧ 0 ≤ x.toInt * (r x y).toInt)
    ∧ (∃ q r : Word → Word → Word,
        (Issues s c (.idivN32 o) → LanesEnd (.idivN32 o) s c fun _ t => set q t)
        ∧ (Issues s c (.iremN32 o) → LanesEnd (.iremN32 o) s c fun _ t => set r t)
        ∧ (∀ x, q x 0 = 0xFFFFFFFF ∧ r x 0 = x)
        ∧ ∀ x y, y ≠ 0 → x.toNat = (q x y).toNat * y.toNat + (r x y).toNat ∧ (r x y).toNat < y.toNat)
    ∧ (Issues s c (.iminI32 o) → LanesEnd (.iminI32 o) s c fun _ t => t.setV o.d.toNat (BitVec.ofInt 32 (min (a t).toInt (b t).toInt)))
    ∧ (Issues s c (.iminN32 o) → LanesEnd (.iminN32 o) s c fun _ t => t.setV o.d.toNat (BitVec.ofNat 32 (min (a t).toNat (b t).toNat)))
    ∧ (Issues s c (.imaxI32 o) → LanesEnd (.imaxI32 o) s c fun _ t => t.setV o.d.toNat (BitVec.ofInt 32 (max (a t).toInt (b t).toInt)))
    ∧ (Issues s c (.imaxN32 o) → LanesEnd (.imaxN32 o) s c fun _ t => t.setV o.d.toNat (BitVec.ofNat 32 (max (a t).toNat (b t).toNat)))

/-- R141, R142: logic; shifts by n of b or of the immediate, where 32 and more leave zeros, copies of the sign, or turn modulo 32. -/
def Obligations.LogicAndShiftsByAnyAmount : Prop :=
  ∀ (s : State) (c : Sel),
    let shl (a : Word) (n : Nat) : Word := BitVec.ofNat 32 (if 32 ≤ n then 0 else a.toNat * 2 ^ n)
    let shr (a : Word) (n : Nat) : Word := BitVec.ofNat 32 (if 32 ≤ n then 0 else a.toNat / 2 ^ n)
    let sar (a : Word) (n : Nat) : Word := BitVec.ofInt 32 (if 32 ≤ n then (if a.getLsbD 31 then -1 else 0) else a.toInt / 2 ^ n)
    let rol (a : Word) (n : Nat) : Word := a.rotateLeft (n % 32)
    let ror (a : Word) (n : Nat) : Word := a.rotateRight (n % 32)
    let r (k : OpR → Instr) (f : Word → Nat → Word) : Prop := ∀ o, Issues s c (k o) →
      LanesEnd (k o) s c fun _ t => t.setV o.d.toNat (f (t.vr o.a.toNat) (operandB c.g t o.bk o.b).toNat)
    let imm (k : OpSI → Instr) (f : Word → Nat → Word) : Prop := ∀ o, Issues s c (k o) →
      LanesEnd (k o) s c fun _ t => t.setV o.d.toNat (f (t.vr o.a.toNat) o.imm.toNat)
    let logic (k : OpR → Instr) (f : Word → Word → Word) : Prop := ∀ o, Issues s c (k o) →
      LanesEnd (k o) s c fun _ t => t.setV o.d.toNat (f (t.vr o.a.toNat) (operandB c.g t o.bk o.b))
    logic .and (fun a b => a &&& b) ∧ logic .or (fun a b => a ||| b) ∧ logic .xor (fun a b => a ^^^ b)
      ∧ logic .andn (fun a b => a &&& ~~~b)
      ∧ r .shl shl ∧ r .shr shr ∧ r .sar sar ∧ r .rol rol ∧ r .ror ror
      ∧ imm .shlImm shl ∧ imm .shrImm shr ∧ imm .sarImm sar ∧ imm .rolImm rol ∧ imm .rorImm ror

/-- R143-R146: the funnel shift, bit fields, bytes, LEA and the dot products, by the bits and elements the entries name. -/
def Obligations.FieldsBytesAddressesAndDotProducts : Prop :=
  ∀ (s : State) (c : Sel) (o : OpR),
    let cf := (modsOf o.m).c
    let a (t : Thread) : Word := t.vr o.a.toNat
    let b (t : Thread) : Word := operandB c.g t o.bk o.b
    let cc (t : Thread) : Word := operandC c.g t cf
    let elem (isSigned : Bool) (w k : Nat) (x : Word) : Int :=
      let e := x.toNat / 2 ^ (w * k) % 2 ^ w
      if isSigned && 2 ^ (w - 1) ≤ e then (e : Int) - 2 ^ w else e
    let dot (isSigned : Bool) (w : Nat) (x y z : Word) : Int :=
      (if isSigned then z.toInt else (z.toNat : Int)) + ((List.range (32 / w)).map fun k => elem isSigned w k x * elem isSigned w k y).sum
    let sat := (modsOf o.m).sat
    (Issues s c (.fshl o) → LanesEnd (.fshl o) s c fun _ t =>
        t.setV o.d.toNat (BitVec.ofNat 32 (((a t).toNat * 2 ^ 32 + (cc t).toNat) * 2 ^ ((b t).toNat % 64) / 2 ^ 32)))
    ∧ (Issues s c (.bfe o) → ∃ f : Word → Word → Word, LanesEnd (.bfe o) s c (fun _ t => t.setV o.d.toNat (f (a t) (b t)))
        ∧ ∀ x y : Word,
            let pos := y.toNat % 256
            let len := min (y.toNat / 256 % 256) 32
            let bit (i : Nat) : Bool := if i < 32 then x.getLsbD i else cf.getLsbD 0 && x.getLsbD 31
            (len = 0 → f x y = 0)
            ∧ (0 < len → ∀ j < 32, (f x y).getLsbD j = if j < len then bit (pos + j) else cf.getLsbD 0 && bit (pos + len - 1)))
    ∧ (Issues s c (.bfi o) → ∃ f : Word → Word → Word → Word,
        LanesEnd (.bfi o) s c (fun _ t => t.setV o.d.toNat (f (a t) (b t) (cc t)))
        ∧ ∀ x y z : Word,
            let pos := y.toNat % 256
            let len := min (y.toNat / 256 % 256) 32
            ∀ j < 32, (f x y z).getLsbD j = if pos ≤ j ∧ j < pos + len then x.getLsbD (j - pos) else z.getLsbD j)
    ∧ (Issues s c (.byteperm o) → ∃ f : Word → Word → Word → Word,
        LanesEnd (.byteperm o) s c (fun _ t => t.setV o.d.toNat (f (a t) (b t) (cc t)))
        ∧ ∀ x y z : Word, ∀ i < 4,
            let q := y.toNat / 2 ^ (4 * i) % 16
            let e := (z.toNat * 2 ^ 32 + x.toNat) / 2 ^ (8 * (q % 8)) % 256
            (f x y z).toNat / 2 ^ (8 * i) % 256 = if q / 8 = 1 then (if 128 ≤ e then 255 else 0) else e)
    ∧ (Issues s c (.lea o) → LanesEnd (.lea o) s c fun _ t =>
        let e : Int := if cf.getLsbD 3 then ((b t).toNat : Int) else (b t).toInt
        t.setPair o.d.toNat (BitVec.ofInt 64 ((t.vPair o.a.toNat).toNat + e * 2 ^ (cf.toNat % 8))))
    ∧ (Issues s c (.idot4I8 o) → LanesEnd (.idot4I8 o) s c fun _ t => t.setV o.d.toNat (exactWord sat (dot true 8 (a t) (b t) (cc t))))
    ∧ (Issues s c (.idot4N8 o) → LanesEnd (.idot4N8 o) s c fun _ t => t.setV o.d.toNat (exactWordN sat (dot false 8 (a t) (b t) (cc t))))
    ∧ (Issues s c (.idot4I4 o) → LanesEnd (.idot4I4 o) s c fun _ t => t.setV o.d.toNat (exactWord sat (dot true 4 (a t) (b t) (cc t))))
    ∧ (Issues s c (.idot4N4 o) → LanesEnd (.idot4N4 o) s c fun _ t => t.setV o.d.toNat (exactWordN sat (dot false 4 (a t) (b t) (cc t))))

/-- R147-R149, R151: comparison codes 0 to 11, the combine field, selection by a predicate, and the table of PLOP. -/
def Obligations.ComparisonsAndPredicateLogic : Prop :=
  ∀ (s : State) (c : Sel),
    let holds (code : Nat) (a b : Word) : Prop :=
      (code = 0 ∧ a = b) ∨ (code = 1 ∧ a ≠ b) ∨ (code = 2 ∧ a.toInt < b.toInt) ∨ (code = 3 ∧ a.toInt ≤ b.toInt)
        ∨ (code = 4 ∧ b.toInt < a.toInt) ∨ (code = 5 ∧ b.toInt ≤ a.toInt) ∨ (code = 6 ∧ a.toNat < b.toNat)
        ∨ (code = 7 ∧ a.toNat ≤ b.toNat) ∨ (code = 8 ∧ b.toNat < a.toNat) ∨ (code = 9 ∧ b.toNat ≤ a.toNat)
        ∨ (code = 10 ∧ a &&& b ≠ 0) ∨ (code = 11 ∧ a &&& b = 0)
    (∃ cmp : Nat → Word → Word → Bool,
      (∀ code < 12, ∀ a b, cmp code a b = true ↔ holds code a b)
      ∧ (∀ o, Instr.wf (.setp o) = true → Issues s c (.setp o) → LanesEnd (.setp o) s c fun _ t =>
          let f := (modsOf o.m).c
          let x := cmp (o.d.toNat / 8) (t.vr o.a.toNat) (operandB c.g t o.bk o.b)
          let q := t.pr (f.toNat % 8) != f.getLsbD 5
          t.setP (o.d.toNat % 8) (if f.toNat / 8 % 4 = 0 then x else if f.toNat / 8 % 4 = 1 then x && q
            else if f.toNat / 8 % 4 = 2 then x || q else x != q))
      ∧ (∀ code o, Instr.wf (.ssetp code o) = true → Issues s c (.ssetp code o) → LanesEnd (.ssetp code o) s c fun _ t =>
          t.setP (o.d.toNat % 8) (cmp code.toNat (c.g.sr o.a.toNat) (uniformC c.g (modsOf o.m).c))))
    ∧ (∀ o, Issues s c (.sel o) → LanesEnd (.sel o) s c fun _ t =>
        let f := (modsOf o.m).c
        t.setV o.d.toNat (if t.pr (f.toNat % 8) = !f.getLsbD 3 then t.vr o.a.toNat else operandB c.g t o.bk o.b))
    ∧ (∀ o, Issues s c (.plop o) → LanesEnd (.plop o) s c fun _ t =>
        let k := (if t.pr (o.b.toNat % 8) then 2 else 0) + (if t.pr (o.a.toNat % 8) then 1 else 0)
        t.setP (o.d.toNat % 8) (o.d.getLsbD (3 + k)))

/-- R40, R58: a compact form acts in every thread of the set as the base form does that R40 names, with vd as first source. -/
def Obligations.CompactIntegerFormsActAsTheirBaseForms : Prop :=
  ∀ (s : State) (c : Sel) (o : OpC),
    let d := o.d.toNat
    let a (t : Thread) : Word := t.vr o.d.toNat
    let b (t : Thread) : Word := t.vr o.b.toNat
    let imm : Word := BitVec.ofInt 32 o.b.toInt
    (Issues s c (.cMov o) → LanesEnd (.cMov o) s c fun _ t => t.setV d (b t))
    ∧ (Issues s c (.cMovi o) → LanesEnd (.cMovi o) s c fun _ t => t.setV d imm)
    ∧ (Issues s c (.cIadd o) → LanesEnd (.cIadd o) s c fun _ t => t.setV d (exactWord false ((a t).toInt + (b t).toInt)))
    ∧ (Issues s c (.cIaddImm o) → LanesEnd (.cIaddImm o) s c fun _ t => t.setV d (exactWord false ((a t).toInt + imm.toInt)))
    ∧ (Issues s c (.cIsub o) → LanesEnd (.cIsub o) s c fun _ t => t.setV d (exactWord false ((a t).toInt - (b t).toInt)))
    ∧ (Issues s c (.cImul o) → LanesEnd (.cImul o) s c fun _ t => t.setV d (exactWord false ((a t).toInt * (b t).toInt)))
    ∧ (Issues s c (.cAnd o) → LanesEnd (.cAnd o) s c fun _ t => t.setV d (a t &&& b t))
    ∧ (Issues s c (.cOr o) → LanesEnd (.cOr o) s c fun _ t => t.setV d (a t ||| b t))
    ∧ (Issues s c (.cXor o) → LanesEnd (.cXor o) s c fun _ t => t.setV d (a t ^^^ b t))
    ∧ (Issues s c (.cShl o) → LanesEnd (.cShl o) s c fun _ t => t.setV d (BitVec.ofNat 32 ((a t).toNat * 2 ^ o.b.toNat)))
    ∧ (Issues s c (.cShr o) → LanesEnd (.cShr o) s c fun _ t => t.setV d (BitVec.ofNat 32 ((a t).toNat / 2 ^ o.b.toNat)))

/-- R121, R134, R135, R150: an s register is written once, where some thread of the set is guard-true; a vector operand is that of the
lowest of them; no thread changes but in its PC. -/
def Obligations.UniformWritesHappenOnce : Prop :=
  ∀ (s : State) (c : Sel),
    let u (k : OpF8 → Instr) (f : Word → Word → Word) : Prop := ∀ o, Issues s c (k o) →
      GroupEnds (k o) s c fun g => g.setS o.d.toNat (f (g.sr o.a.toNat) (uniformC g (modsOf o.m).c))
    u .sadd (fun a b => BitVec.ofNat 32 (a.toNat + b.toNat)) ∧ u .ssub (fun a b => BitVec.ofInt 32 (a.toNat - b.toNat))
      ∧ u .smul (fun a b => BitVec.ofNat 32 (a.toNat * b.toNat)) ∧ u .sand (fun a b => a &&& b) ∧ u .sor (fun a b => a ||| b)
      ∧ u .sxor (fun a b => a ^^^ b)
      ∧ u .sshl (fun a b => BitVec.ofNat 32 (if 32 ≤ b.toNat then 0 else a.toNat * 2 ^ b.toNat))
      ∧ u .sshr (fun a b => BitVec.ofNat 32 (if 32 ≤ b.toNat then 0 else a.toNat / 2 ^ b.toNat))
      ∧ (∀ o, Issues s c (.smov o) → GroupEnds (.smov o) s c fun g =>
          g.setS o.d.toNat (operandB g (c.thread ((c.guarded (.smov o)).headD 0)) o.bk o.b))
      ∧ ∀ o, Issues s c (.smovi o) → GroupEnds (.smovi o) s c fun g => g.setS o.d.toNat o.lit

/-- R72, R93, R128-R130, R159, R447: SRD gives the register its value in each guard-true thread, or once for an s register; SWR writes each thread's own copy of
FPENV or FPFLAGS, with their reserved bits discarded and RM kept on a reserved value. The value of
each number is the table's; TRAPINFO is the record's first words and the resume PC in a handler, and 0 outside one. -/
def Obligations.SystemRegistersReadAndWrite : Prop :=
  ∀ (s : State) (c : Sel) (o : OpR),
    let wide := o.a.toNat == 0x11 || o.a.toNat == 0x28 || o.a.toNat == 0x29
    (Instr.wf (.srd o) = true → Issues s c (.srd o) → o.bk = false → LanesEnd (.srd o) s c fun lane t =>
        let x := s.sysReg c lane t o.a.toNat
        if wide then t.setPair o.d.toNat x else t.setV o.d.toNat (x.setWidth 32))
    ∧ (Instr.wf (.srd o) = true → Issues s c (.srd o) → o.bk = true → GroupEnds (.srd o) s c fun g =>
        let x := s.sysReg c ((c.guarded (.srd o)).headD 0) (c.thread ((c.guarded (.srd o)).headD 0)) o.a.toNat
        if wide then g.setSPair o.d.toNat x else g.setS o.d.toNat (x.setWidth 32))
    ∧ (Instr.wf (.swr o) = true → Issues s c (.swr o) → LanesEnd (.swr o) s c fun _ t =>
        let x := operandB c.g t o.bk o.b
        if o.a.toNat = 0x18 then
          { t with fpenv := (x &&& 0x0007FF00) ||| (if 1 ≤ x.toNat % 8 ∧ x.toNat % 8 ≤ 5 then x &&& 7 else t.fpenv &&& 7) }
        else { t with fpflags := x &&& 0x3F })
    ∧ ∀ lane t,
        s.sysReg c lane t 0x00 = BitVec.ofNat 64 lane ∧ s.sysReg c lane t 0x01 = BitVec.ofNat 64 c.g.idx
        ∧ s.sysReg c lane t 0x02 = BitVec.ofNat 64 c.l.lr.groups ∧ s.sysReg c lane t 0x03 = BitVec.ofNat 64 c.b.blkidx
        ∧ s.sysReg c lane t 0x0A = BitVec.ofNat 64 s.dev ∧ s.sysReg c lane t 0x10 = BitVec.ofNat 64 c.b.rung
        ∧ s.sysReg c lane t 0x11 = t.region ∧ s.sysReg c lane t 0x18 = t.fpenv.setWidth 64
        ∧ s.sysReg c lane t 0x19 = t.fpflags.setWidth 64 ∧ s.sysReg c lane t 0x29 = BitVec.ofNat 64 s.gtime
        ∧ s.sysReg c lane t 0x04 = BitVec.ofNat 64 (c.b.blkidx % c.l.lr.x)
        ∧ s.sysReg c lane t 0x05 = BitVec.ofNat 64 (c.b.blkidx / c.l.lr.x % c.l.lr.y)
        ∧ s.sysReg c lane t 0x06 = BitVec.ofNat 64 (c.b.blkidx / (c.l.lr.x * c.l.lr.y))
        ∧ s.sysReg c lane t 0x1A = c.g.mmaflags.setWidth 64
        ∧ s.sysReg c lane t 0x28 = BitVec.ofNat 64 (s.clocks.getD (c.b.core / 48) 0)
        ∧ s.sysReg c lane t 0x30 = BitVec.ofNat 64 c.g.vallot ∧ s.sysReg c lane t 0x31 = BitVec.ofNat 64 c.g.uallot
        ∧ (t.trap = none → ∀ n, 0x20 ≤ n → n ≤ 0x23 → s.sysReg c lane t n = 0)
        ∧ (∀ k, t.trap = some k → s.sysReg c lane t 0x20 = (k.record.word 0).setWidth 64 ∧ s.sysReg c lane t 0x21 = k.record.detail.setWidth 64
          ∧ s.sysReg c lane t 0x22 = BitVec.ofNat 64 (k.resume.toNat % 2 ^ 32) ∧ s.sysReg c lane t 0x23 = BitVec.ofNat 64 (k.resume.toNat / 2 ^ 32))
        ∧ (∀ r : FaultRec, (r.word 0).toNat = r.code.toNat + 2 ^ 8 * r.lane.toNat + 2 ^ 14 * r.grp.toNat)
        ∧ s.sysReg c lane t 0x07 = BitVec.ofNat 64 (c.b.core % 4) ∧ s.sysReg c lane t 0x08 = BitVec.ofNat 64 (c.b.core / 4 % 12)
        ∧ s.sysReg c lane t 0x09 = BitVec.ofNat 64 (c.b.core / 48)

/-! ## Floating point (spec 05) -/

/-- R164-R171: an FP32 instruction writes R164's result of its function on its operands, read under the thread's FPENV and its modifiers, and
adds the flags, or takes FPTRAP where one of them is enabled. The function of each entry is named; MinMaxAndComparisons and the statements after it
say what the functions are. -/
def Obligations.Fp32InstructionsWriteResultAndFlags : Prop :=
  ∀ (s : State) (c : Sel),
    let two (k : OpR → Instr) (f : FpEnv → Mods → Nat → Nat → FpOut) : Prop := ∀ o, Issues s c (k o) →
      FpEnds (k o) s c fun t => t.writeFp o.d
        (f (fpEnvOf t.fpenv (modsOf o.m)) (modsOf o.m) (t.vr o.a.toNat).toNat (operandB c.g t o.bk o.b).toNat)
    let one (k : OpU → Instr) (f : FpEnv → Mods → Nat → FpOut) : Prop := ∀ o, Issues s c (k o) →
      FpEnds (k o) s c fun t => t.writeFp o.d
        (f (fpEnvOf t.fpenv (modsOf o.m)) (modsOf o.m) (operandB c.g t o.bk o.b).toNat)
    let compact (k : OpC → Instr) (f : FpEnv → Mods → Nat → Nat → FpOut) : Prop := ∀ o, Issues s c (k o) →
      FpEnds (k o) s c fun t => t.writeFp (BitVec.ofNat 7 o.d.toNat)
        (f (fpEnvOf t.fpenv Mods.default) Mods.default (t.vr o.d.toNat).toNat (t.vr o.b.toNat).toNat)
    two .fadd (fpOut2 fmtF32 fnAdd) ∧ two .fsub (fpOut2 fmtF32 fnSub) ∧ two .fmul (fpOut2 fmtF32 fnMul2)
      ∧ two .fdiv (fpOut2 fmtF32 fnDiv2) ∧ two .fmin (fpOutMinMax false fmtF32) ∧ two .fmax (fpOutMinMax true fmtF32)
      ∧ (∀ o, Issues s c (.ffma o) → FpEnds (.ffma o) s c fun t => t.writeFp o.d
          (fpOut3 fmtF32 (fpEnvOf t.fpenv (modsOf o.m)) (modsOf o.m) (t.vr o.a.toNat).toNat (operandB c.g t o.bk o.b).toNat
            (operandC c.g t (modsOf o.m).c).toNat))
      ∧ one .fsqrt (fpOut1 fmtF32 fnSqrt) ∧ one .frcp (fpOut1 fmtF32 (fnApprox .frcp)) ∧ one .frsq (fpOut1 fmtF32 (fnApprox .frsq))
      ∧ one .fex2 (fpOut1 fmtF32 (fnApprox .fex2)) ∧ one .flg2 (fpOut1 fmtF32 (fnApprox .flg2))
      ∧ one .fsin (fpOut1 fmtF32 (fnApprox .fsin)) ∧ one .fcos (fpOut1 fmtF32 (fnApprox .fcos))
      ∧ one .ftanh (fpOut1 fmtF32 (fnApprox .ftanh)) ∧ one .frnd (fpOutRint fmtF32)
      ∧ compact .cFadd (fpOut2 fmtF32 fnAdd) ∧ compact .cFsub (fpOut2 fmtF32 fnSub) ∧ compact .cFmul (fpOut2 fmtF32 fnMul2)
      ∧ compact .cFmax (fpOutMinMax true fmtF32)

/-- R165, R172-R176, R186, R187: classification takes the raw operand and raises nothing; comparisons write a predicate; scaling, decomposition and
the two instructions on FPENV and FPFLAGS. -/
def Obligations.FpClassesComparisonsAndEnvironment : Prop :=
  ∀ (s : State) (c : Sel) (o : OpR),
    let env (t : Thread) : FpEnv := fpEnvOf t.fpenv (modsOf o.m)
    let a (t : Thread) : Word := t.vr o.a.toNat
    let b (t : Thread) : Word := operandB c.g t o.bk o.b
    let f := (modsOf o.m).c
    let put (t : Thread) (n : Nat) (x : Bool) : Thread := t.setP n (combine f x (t.pr (f.toNat % 8) != f.getLsbD 5))
    (∀ u, Issues s c (.fclass u) → LanesEnd (.fclass u) s c fun _ t =>
        let x := operandB c.g t u.bk u.b
        let e := x.toNat / 2 ^ 23 % 256
        let m := x.toNat % 2 ^ 23
        let neg := x.getLsbD 31
        t.setV u.d.toNat
          (if e = 255 then (if m = 0 then (if neg then 0x004 else 0x200) else if m < 2 ^ 22 then 0x001 else 0x002)
           else if e = 0 then (if m = 0 then (if neg then 0x020 else 0x040) else if neg then 0x010 else 0x080)
           else if neg then 0x008 else 0x100))
    ∧ (Issues s c (.fsetp o) → FpEnds (.fsetp o) s c fun t =>
        let r := fpOutCompare fmtF32 (env t) (modsOf o.m) (o.d.toNat / 8) (a t).toNat (b t).toNat
        (put t (o.d.toNat % 8) r.1, r.2))
    ∧ (Issues s c (.fscale o) → FpEnds (.fscale o) s c fun t =>
        let x := fpRead fmtF32 (env t) (modsOf o.m) 0 (a t).toNat
        t.writeFp o.d (fpFinish fmtF32 (env t) [x.1] x.2 false (fnScale (b t).toInt x.1)))
    ∧ (Issues s c (.frexp o) → FpEnds (.frexp o) s c fun t =>
        let x := fpRead fmtF32 (env t) (modsOf o.m) 0 (a t).toNat
        let r := fpFrexp (env t) x.1 x.2
        ((t.setV o.d.toNat (BitVec.ofNat 32 r.1)).setV (o.d.toNat + 1) (BitVec.ofInt 32 r.2.1), r.2.2))
    ∧ (Issues s c (.fenv o) → LanesEnd (.fenv o) s c fun _ t =>
        let x := (t.fpenv &&& ~~~b t) ||| (a t &&& b t)
        { t.setV o.d.toNat t.fpenv with
          fpenv := (x &&& 0x0007FF00) ||| (if 1 ≤ x.toNat % 8 ∧ x.toNat % 8 ≤ 5 then x &&& 7 else t.fpenv &&& 7) })
    ∧ (Issues s c (.fflg o) → LanesEnd (.fflg o) s c fun _ t =>
        { t.setV o.d.toNat t.fpflags with fpflags := t.fpflags &&& ~~~b t &&& 0x3F })

/-- R165, R177: the FP64 instructions on even pairs. -/
def Obligations.Fp64InstructionsWriteResultAndFlags : Prop :=
  ∀ (s : State) (c : Sel),
    let two (k : OpR → Instr) (f : FpEnv → Mods → Nat → Nat → FpOut) : Prop := ∀ o, Issues s c (k o) →
      FpEnds (k o) s c fun t => t.writeFp64 o.d
        (f (fpEnvOf t.fpenv (modsOf o.m)) (modsOf o.m) (t.vPair o.a.toNat).toNat (pairB c.g t o.bk o.b).toNat)
    let one (k : OpU → Instr) (f : FpEnv → Mods → Nat → FpOut) : Prop := ∀ o, Issues s c (k o) →
      FpEnds (k o) s c fun t => t.writeFp64 o.d
        (f (fpEnvOf t.fpenv (modsOf o.m)) (modsOf o.m) (pairB c.g t o.bk o.b).toNat)
    two .dadd (fpOut2 fmtF64 fnAdd) ∧ two .dsub (fpOut2 fmtF64 fnSub) ∧ two .dmul (fpOut2 fmtF64 fnMul2)
      ∧ two .ddiv (fpOut2 fmtF64 fnDiv2) ∧ two .dmin (fpOutMinMax false fmtF64) ∧ two .dmax (fpOutMinMax true fmtF64)
      ∧ (∀ o, Issues s c (.dfma o) → FpEnds (.dfma o) s c fun t => t.writeFp64 o.d
          (fpOut3 fmtF64 (fpEnvOf t.fpenv (modsOf o.m)) (modsOf o.m) (t.vPair o.a.toNat).toNat (pairB c.g t o.bk o.b).toNat
            (pairC c.g t (modsOf o.m).c).toNat))
      ∧ one .dsqrt (fpOut1 fmtF64 fnSqrt) ∧ one .drcp (fpOut1 fmtF64 fnDrcp) ∧ one .drnd (fpOutRint fmtF64)
      ∧ ∀ o, Issues s c (.dsetp o) → FpEnds (.dsetp o) s c fun t =>
          let f := (modsOf o.m).c
          let r := fpOutCompare fmtF64 (fpEnvOf t.fpenv (modsOf o.m)) (modsOf o.m) (o.d.toNat / 8) (t.vPair o.a.toNat).toNat
            (pairB c.g t o.bk o.b).toNat
          (t.setP (o.d.toNat % 8) (combine f r.1 (t.pr (f.toNat % 8) != f.getLsbD 5)), r.2)

/-- R165, R178: a packed instruction does the same in both halves of its registers and ORs their flags; PKSETP writes two predicates. -/
def Obligations.PackedInstructionsActOnBothHalves : Prop :=
  ∀ (s : State) (c : Sel),
    let half (x : Word) (h : Nat) : Nat := x.toNat / 2 ^ (16 * h) % 2 ^ 16
    let pk (k : OpR → Instr) (f : FpEnv → Mods → Nat → Nat → Nat → FpOut) : Prop := ∀ o, Issues s c (k o) →
      FpEnds (k o) s c fun t =>
        let r (h : Nat) : FpOut := f (fpEnvOf t.fpenv (modsOf o.m)) (modsOf o.m) (half (t.vr o.a.toNat) h)
          (half (operandB c.g t o.bk o.b) h) (half (operandC c.g t (modsOf o.m).c) h)
        t.writeFp o.d ⟨(r 0).bits + 65536 * (r 1).bits, (r 0).flags ||| (r 1).flags⟩
    let setp (k : OpR → Instr) (fmt : Fmt) : Prop := ∀ o, Issues s c (k o) → FpEnds (k o) s c fun t =>
      let f := (modsOf o.m).c
      let q := t.pr (f.toNat % 8) != f.getLsbD 5
      let r (h : Nat) : Bool × Flags := fpOutCompare fmt (fpEnvOf t.fpenv (modsOf o.m)) (modsOf o.m) (o.d.toNat / 8)
        (half (t.vr o.a.toNat) h) (half (operandB c.g t o.bk o.b) h)
      let n := o.d.toNat % 8
      ((t.setP n (combine f (r 0).1 q)).setP (n + 1) (combine f (r 1).1 q), (r 0).2 ||| (r 1).2)
    let ab (f : FpEnv → Mods → Nat → Nat → FpOut) (e : FpEnv) (m : Mods) (x y _ : Nat) : FpOut := f e m x y
    pk .pkaddF16 (ab (fpOut2 fmtF16 fnAdd)) ∧ pk .pkaddBf16 (ab (fpOut2 fmtBf16 fnAdd))
      ∧ pk .pkmulF16 (ab (fpOut2 fmtF16 fnMul2)) ∧ pk .pkmulBf16 (ab (fpOut2 fmtBf16 fnMul2))
      ∧ pk .pkfmaF16 (fpOut3 fmtF16) ∧ pk .pkfmaBf16 (fpOut3 fmtBf16)
      ∧ pk .pkminF16 (ab (fpOutMinMax false fmtF16)) ∧ pk .pkminBf16 (ab (fpOutMinMax false fmtBf16))
      ∧ pk .pkmaxF16 (ab (fpOutMinMax true fmtF16)) ∧ pk .pkmaxBf16 (ab (fpOutMinMax true fmtBf16))
      ∧ setp .pksetpF16 fmtF16 ∧ setp .pksetpBf16 fmtBf16

/-- R165, R179-R185: conversions between types, packing, unpacking, and the MX block instructions where the element code names a format at the
block's rung and the block of elements ends by v127; MXQ's counts go to the range monitor only where they are not zero. -/
def Obligations.ConversionsWriteTheirTypes : Prop :=
  ∀ (s : State) (c : Sel) (o : OpT),
    let env (t : Thread) : FpEnv := fpEnvOf t.fpenv (modsOf o.m)
    let f := (modsOf o.m).c
    let ext (ty : BitVec 4) (x : Nat) : Word :=
      if ty = 0x4 ∧ 2 ^ 7 ≤ x then BitVec.ofNat 32 (x + 2 ^ 32 - 2 ^ 8)
      else if ty = 0x5 ∧ 2 ^ 15 ≤ x then BitVec.ofNat 32 (x + 2 ^ 32 - 2 ^ 16) else BitVec.ofNat 32 x
    (Issues s c (.cvt o) → FpEnds (.cvt o) s c fun t =>
        let r := convert o.dt o.st (env t) (t.typed o.st o.a.toNat)
        (if o.dt = 0x3 ∨ o.dt = 0x7 ∨ o.dt = 0x8 then t.setPair o.d.toNat (BitVec.ofNat 64 r.1)
         else t.setV o.d.toNat (ext o.dt r.1), r.2))
    ∧ (Issues s c (.pack o) → FpEnds (.pack o) s c fun t =>
        let y0 := convert o.dt o.st (env t) (t.typed o.st o.a.toNat)
        let y1 := convert o.dt o.st (env t) (typedC c.g t o.st f)
        (t.setV o.d.toNat (BitVec.ofNat 32 (if typeBits o.dt = 16 then y1.1 * 2 ^ 16 + y0.1
          else (t.vr o.d.toNat).toNat % 2 ^ 16 * 2 ^ 16 + y1.1 * 2 ^ 8 + y0.1)), y0.2 ||| y1.2))
    ∧ (Issues s c (.unpk o) → FpEnds (.unpk o) s c fun t =>
        let w := typeBits o.st
        let e (k : Nat) : Word × Flags :=
          widen o.st (env t) ((t.vr o.a.toNat).toNat / 2 ^ (w * ((if f.getLsbD 0 then 2 else 0) + k)) % 2 ^ w)
        ((t.setV o.d.toNat (e 0).1).setV (o.d.toNat + 1) (e 1).1, (e 0).2 ||| (e 1).2))
    ∧ (∀ el, elemFmt (elemAt c.b.rung o.st) = some el → Issues s c (.mxdq o) → pastEnd c.b.rung (.mxdq o) = false →
        FpEnds (.mxdq o) s c fun t =>
        let wide := wideFmt o.dt
        let w := el.mag + 1
        let rs := (blockElems w (wordsNat (t.vList o.a.toNat w))).map
          (dequantElem el wide (env t) ((operandC c.g t f).toNat % 256))
        (t.setList o.d.toNat (natWords (wide.mag + 1) (elemsNat (wide.mag + 1) (rs.map Prod.fst))),
          rs.foldl (fun x r => x ||| r.2) 0))
    ∧ (∀ el, elemFmt (elemAt c.b.rung o.dt) = some el → Issues s c (.mxq o) → pastEnd c.b.rung (.mxq o) = false →
        let wide := wideFmt o.st
        let w := wide.mag + 1
        let raw (t : Thread) : List Nat := blockElems w (wordsNat (t.vList o.a.toNat w))
        let q (t : Thread) : Quant := quantize el (elemEmax (elemAt c.b.rung o.dt)) (env t).mode ((raw t).map wide.value)
        (∀ lane ∈ c.guarded (.mxq o), (q (c.thread lane)).sat + (q (c.thread lane)).fl = 0) →
        FpEnds (.mxq o) s c fun t =>
          ((t.setList o.d.toNat (natWords (el.mag + 1) (elemsNat (el.mag + 1) (q t).elems))).setV f.toNat
            (BitVec.ofNat 32 (q t).scale),
            if (raw t).any wide.isSubnormal then (q t).flags ||| 0x20 else (q t).flags))

/-- R153, R157: rounding leaves a value of the format as it is, under every mode and with no flag: the bits come back. -/
def Obligations.RoundingKeepsEveryValueOfItsFormat : Prop :=
  ∀ f ∈ [fmtF64, fmtF32, fmtF16, fmtBf16, fmtE4m3, fmtE5m2, fmtE2m1, fmtE2m3, fmtE3m2], ∀ (mode : RMode) (satE : Bool) (x : Nat),
    x < 2 ^ (f.mag + 1) → ∀ neg m e, f.value x = .fin neg m e → roundTo f mode satE ⟨neg, m, e, false⟩ = (x, 0)

/-- R163, R164, R167: a NaN operand makes a NaN, canonical under DNAN and else the first signalling operand or the first NaN, quieted; IV is
raised exactly where one is signalling. The invalid cases of the four operations, with either sign of each infinity and zero, make the canonical
NaN with IV: infinities of opposite sign for FADD and of the same sign for FSUB, a zero times an infinity in either order, 0 / 0 and an infinity
by an infinity; the other pairs of infinities have an infinity. A finite non-zero number divided by zero is an infinity with DZ. -/
def Obligations.SpecialOperandsOfFp32Arithmetic : Prop :=
  ∀ (env : FpEnv) (a b : Nat), env.clamp = false → env.sat = false → env.fz32i = false →
    let nan (x : Nat) : Bool := decide (0x7F800000 < x % 2 ^ 31)
    let quiet (x : Nat) : Bool := decide (0x7FC00000 ≤ x % 2 ^ 31)
    let quieted (x : Nat) : Nat := if quiet x then x else x + 0x400000
    let sub (x : Nat) : Bool := decide (x % 2 ^ 31 < 2 ^ 23) && x % 2 ^ 31 != 0
    let dn : Flags := if sub a || sub b then 0x20 else 0
    let sign (x : Nat) : Bool := x / 2 ^ 31 == 1
    let inf (n : Bool) : Nat := if n then 0xFF800000 else 0x7F800000
    a < 2 ^ 32 → b < 2 ^ 32 →
    (∀ fn ∈ [fnAdd, fnSub, fnMul2, fnDiv2], (nan a || nan b) = true →
        fpOut2 fmtF32 fn env Mods.default a b =
          ⟨if env.dnan then 0x7FC00000
           else if nan a && !quiet a then quieted a else if nan b && !quiet b then quieted b else if nan a then a else b,
           dn ||| if (nan a && !quiet a) || (nan b && !quiet b) then 0x01 else 0⟩)
    ∧ (∀ p q : Bool,
        let op (fn : RMode → FVal → FVal → FpRes) (x y : Nat) : FpOut := fpOut2 fmtF32 fn env Mods.default x y
        let zero (n : Bool) : Nat := if n then 0x80000000 else 0
        let invalid : FpOut := ⟨0x7FC00000, 0x01⟩
        op fnAdd (inf p) (inf q) = (if p = q then ⟨inf p, 0⟩ else invalid) ∧ op fnSub (inf p) (inf q) = (if p = q then invalid else ⟨inf p, 0⟩)
        ∧ op fnMul2 (inf p) (zero q) = invalid ∧ op fnMul2 (zero p) (inf q) = invalid ∧ op fnMul2 (inf p) (inf q) = ⟨inf (p != q), 0⟩
        ∧ op fnDiv2 (zero p) (zero q) = invalid ∧ op fnDiv2 (inf p) (inf q) = invalid)
    ∧ (a % 2 ^ 31 < 0x7F800000 → a % 2 ^ 31 ≠ 0 → ∀ y ∈ [0, 0x80000000],
        fpOut2 fmtF32 fnDiv2 env Mods.default a y = ⟨inf (sign a != sign y), 0x02 ||| if sub a then 0x20 else 0⟩)

/-- R168, R173: of two operands that are not NaN the comparison codes 0, 2 and 4 name exactly one relation, the others follow from it, and
FMIN and FMAX take one of the operands; a NaN makes the pair unordered, and FMIN and FMAX take the number. -/
def Obligations.MinMaxAndComparisonsAgree : Prop :=
  ∀ (env : FpEnv) (a b : Nat), env.fz32i = false → a < 2 ^ 32 → b < 2 ^ 32 →
    let r (code : Nat) : Bool := (fpOutCompare fmtF32 env Mods.default code a b).1
    let nan (x : Nat) : Bool := decide (0x7F800000 < x % 2 ^ 31)
    let mn := (fpOutMinMax false fmtF32 env Mods.default a b).bits
    let mx := (fpOutMinMax true fmtF32 env Mods.default a b).bits
    ((nan a || nan b) = false →
        ((r 0 && !r 2 && !r 4) || (!r 0 && r 2 && !r 4) || (!r 0 && !r 2 && r 4)) = true
        ∧ r 10 = true ∧ (mn = a ∧ mx = b ∨ mn = b ∧ mx = a) ∧ (r 2 = true → mn = a ∧ mx = b) ∧ (r 4 = true → mn = b ∧ mx = a))
    ∧ ((nan a || nan b) = true → (∀ code ∈ [0, 2, 3, 4, 5, 10], r code = false) ∧ ∀ code ∈ [1, 6, 7, 8, 9, 11], r code = true)
    ∧ (nan a = true → nan b = false → mn = b ∧ mx = b) ∧ (nan a = false → nan b = true → mn = a ∧ mx = a)
    ∧ r 1 = !r 0 ∧ r 3 = (r 2 || r 0) ∧ r 5 = (r 4 || r 0) ∧ r 11 = !r 10
    ∧ r 6 = (r 11 || r 2) ∧ r 7 = (r 11 || r 3) ∧ r 8 = (r 11 || r 4) ∧ r 9 = (r 11 || r 5)

/-! ## Masks, cross-lane instructions and control flow (spec 03) -/

/-- R94, R106-R109: a mask instruction is a boundary instruction that writes its group once where some lane of the set is guard-true; E is the
set of these lanes. -/
def Obligations.MaskInstructionsWriteTheirMask : Prop :=
  ∀ (s : State) (c : Sel) (o : OpR),
    let e (i : Instr) : LaneSet := laneSet (c.guarded i)
    let d := o.d.toNat
    let op := (modsOf o.m).c.toNat % 8
    (Issues s c (.kmov o) → NoLoads c (.kmov o) → Instr.wf (.kmov o) = true → BoundaryEnds (.kmov o) s c fun g =>
        if o.b = 0 then g.setK d (g.kr o.a.toNat)
        else if o.b = 1 then g.setK d (g.sr (o.a.toNat + 1) ++ g.sr o.a.toNat)
        else (g.setS d ((g.kr o.a.toNat).setWidth 32)).setS (d + 1) ((g.kr o.a.toNat >>> 32).setWidth 32))
    ∧ (Issues s c (.kop o) → NoLoads c (.kop o) → Instr.wf (.kop o) = true → BoundaryEnds (.kop o) s c fun g =>
        let a := g.kr o.a.toNat
        let b := g.kr o.b.toNat
        g.setK d (if op = 0 then a &&& b else if op = 1 then a ||| b else if op = 2 then a ^^^ b else if op = 3 then a &&& ~~~b
          else if op = 4 then ~~~a
          else if op = 5 then laneSet ((List.range 64).filter fun l => (g.threads[l]?).any fun t => t.st != .exited)
          else e (.kop o)))
    ∧ (Issues s c (.kpop o) → NoLoads c (.kpop o) → BoundaryEnds (.kpop o) s c fun g =>
        let k := g.kr o.a.toNat
        g.setS d (if o.b = 0 then BitVec.ofNat 32 ((List.range 64).filter fun l => k.getLsbD l).length
          else BitVec.ofNat 32 (((List.range 64).find? fun l => k.getLsbD l).getD 64)))
    ∧ (Issues s c (.join o) → NoLoads c (.join o) → BoundaryEnds (.join o) s c fun g => g.setK d (g.kr d ||| e (.join o)))
    ∧ (Issues s c (.leave o) → NoLoads c (.leave o) → BoundaryEnds (.leave o) s c fun g => g.setK d (g.kr d &&& ~~~e (.leave o)))

/-- R94, R110, R459: WAITK makes its threads member-waiting; when every lane set in k waits at a WAITK on k, none of them in a handler, the
release lets every waiter of k go on behind its WAITK, and nobody else, unless the group is halted; where one of them does not, the event happens
nowhere. -/
def Obligations.WaitkWaitsForEveryLaneOfItsMask : Prop :=
  (∀ (s : State) (c : Sel) (o : OpR), Issues s c (.waitk o) → NoLoads c (.waitk o) → c.g.idx = c.grp →
    ∃ t, exec (.waitk o) s = .next t ∧ OnlyThreads s t c.blk c.grp
      ∧ ∀ lane th, s.thread? c.blk c.grp lane = some th → ∃ th', t.thread? c.blk c.grp lane = some th'
          ∧ (c.issue.lanes.getLsbD lane = true → th'.st = .waitk o.d.toNat (Instr.len (.waitk o)) ∧ th'.pc = th.pc)
          ∧ (c.issue.lanes.getLsbD lane = false → th' = th))
  ∧ ∀ (s : State) (blk grp k : Nat) (g : Group), s.subject = .mask blk grp k → s.group? blk grp = some g →
    let waits (t : Thread) : Bool := match t.st with | .waitk n _ => n == k | _ => false
    (g.halted = false → g.threads.any waits = true →
      (∀ l < 64, (g.kr k).getLsbD l = true → (g.threads[l]?).any (fun t => waits t && t.trap.isNone) = true) →
      ∃ t, exec .waitkRelease s = .next t ∧ OnlyThreads s t blk grp
        ∧ ∀ lane th, s.thread? blk grp lane = some th → t.thread? blk grp lane = some
            (match th.st with
             | .waitk n len => if n = k then
                 { th with st := .runnable, pc := th.pc + BitVec.ofNat 64 len, region := th.pc + BitVec.ofNat 64 len } else th
             | _ => th))
    ∧ ((∃ l < 64, (g.kr k).getLsbD l = true ∧ (g.threads[l]?).all (fun t => !waits t || t.trap.isSome) = true) →
      exec .waitkRelease s = .next s.idle)

/-- R87, R92, R111-R115: when the lanes of the implied mask, or those that a mask register names, issue a cross-lane instruction together, they
wait and then complete in one go: only the contributors, the guard-true members, give and receive. An FP operation of REDUX and SCAN is one tree under the
environment of the lowest contributor with the instruction's RND, and each contributor gets the flags that formed its result. -/
def Obligations.CrossLaneInstructionsCombineTheContributors : Prop :=
  ∀ (s : State) (c : Sel) (o : OpR),
    let m := modsOf o.m
    let mode := m.c.toNat / 32
    let d := o.d.toNat
    let ready (i : Instr) : Prop := Issues s c i ∧ MemberSet s c ∧ (if m.c.getLsbD 4 then c.g.kr (m.c.toNat % 16) else c.g.liveLanes) = c.issue.lanes
    let fpTree (g : Group) (ls from_ : List Nat) : Word × Flags :=
      let env := fpEnvOf (g.thread (ls.headD 0)).fpenv { Mods.default with rnd := m.rnd }
      treeFold (fun x y =>
          let r := if o.b = 8 then fpOut2 fmtF32 fnAdd env Mods.default x.1.toNat y.1.toNat
            else fpOutMinMax (o.b == 10) fmtF32 env Mods.default x.1.toNat y.1.toNat
          (BitVec.ofNat 32 r.bits, x.2 ||| y.2 ||| r.flags))
        (if o.b = 8 then 0x80000000 else if o.b = 9 then 0x7F800000 else 0xFF800000, 0)
        (from_.map fun l => ((g.thread l).vr o.a.toNat, 0))
    let write (g : Group) (ls : List Nat) (f : Nat → Thread → Thread) : Group :=
      { g with threads := g.threads.mapIdx fun l t => if (laneSet ls).getLsbD l then f l t else t }
    (ready (.vote o) → WaitEnds (.vote o) s c fun g =>
        let ls := lanesOf (laneSet (c.guarded (.vote o)))
        let yes (l : Nat) : Bool := (g.thread l).pr (o.a.toNat % 8) != o.a.getLsbD 3
        if mode = 0 then write g ls fun _ t => t.setP (d % 8) (ls.any yes)
        else if mode = 1 then write g ls fun _ t => t.setP (d % 8) (ls.all yes)
        else if mode = 2 then write g ls fun _ t => t.setP (d % 8) (ls.all yes || ls.all fun l => !yes l)
        else if ls = [] then g else g.setSPair d (laneSet (ls.filter yes)))
    ∧ (ready (.shfl o) → WaitEnds (.shfl o) s c fun g =>
        let con := laneSet (c.guarded (.shfl o))
        { g with threads := g.threads.mapIdx fun l t =>
            if con.getLsbD l then
              let b := (operandB g t o.bk o.b).toNat
              let src : Int := if mode = 0 then b else if mode = 1 then (l : Int) - b else if mode = 2 then (l : Int) + b else (l ^^^ b : Nat)
              t.setV d ((g.thread (if 0 ≤ src ∧ src ≤ 63 ∧ con.getLsbD src.toNat = true then src.toNat else l)).vr o.a.toNat)
            else t })
    ∧ (ready (.matchLanes o) → WaitEnds (.matchLanes o) s c fun g =>
        let ls := lanesOf (laneSet (c.guarded (.matchLanes o)))
        let same (t u : Thread) : Bool :=
          t.vr o.a.toNat == u.vr o.a.toNat && (mode != 1 || t.vr (o.a.toNat + 1) == u.vr (o.a.toNat + 1))
        write g ls fun _ t => t.setPair d (laneSet (ls.filter fun l => same (g.thread l) t)))
    ∧ (ready (.elect o) → WaitEnds (.elect o) s c fun g =>
        let ls := lanesOf (laneSet (c.guarded (.elect o)))
        write g ls fun l t => t.setP (d % 8) (ls.head? == some l))
    ∧ (ready (.redux o) → o.b.toNat < 8 → WaitEnds (.redux o) s c fun g =>
        let ls := lanesOf (laneSet (c.guarded (.redux o)))
        write g ls fun _ t => (t.setV d (treeFold (fun x y => (reduxOp o.b.toNat ⟨.rne, false, false, false, false, false, 0, false, false, 0⟩
          (x, 0) (y, 0)).1) (reduxId o.b.toNat) (ls.map fun l => (g.thread l).vr o.a.toNat))))
    ∧ (ready (.scan o) → o.b.toNat < 8 → WaitEnds (.scan o) s c fun g =>
        let ls := lanesOf (laneSet (c.guarded (.scan o)))
        write g ls fun j t => (t.setV d (treeFold (fun x y => (reduxOp o.b.toNat ⟨.rne, false, false, false, false, false, 0, false, false, 0⟩
          (x, 0) (y, 0)).1) (reduxId o.b.toNat)
          ((ls.filter fun l => l < j || (l == j && mode != 1)).map fun l => (g.thread l).vr o.a.toNat))))
    ∧ (ready (.redux o) → o.b = 8 ∨ o.b = 9 ∨ o.b = 10 → NoTraps c → WaitEnds (.redux o) s c fun g =>
        let ls := lanesOf (laneSet (c.guarded (.redux o)))
        write g ls fun _ t => (t.setV d (fpTree g ls ls).1).raiseFlags (fpTree g ls ls).2)
    ∧ (ready (.scan o) → o.b = 8 ∨ o.b = 9 ∨ o.b = 10 → NoTraps c → WaitEnds (.scan o) s c fun g =>
        let ls := lanesOf (laneSet (c.guarded (.scan o)))
        write g ls fun j t =>
          let r := fpTree g ls (ls.filter fun l => l < j || (l == j && mode != 1))
          (t.setV d r.1).raiseFlags r.2)

/-- R35, R36, R41, R97-R100: transfers of control. A target must be even and a fetch address of this device, else the lane faults with its target
and nothing of the instruction is done in it; the whole set of a BRC goes one way, and where it is not taken no target is checked; calls leave
the address behind themselves in their link pair. That an odd target outside the fetch addresses is MISALIGN is the model's choice (log 78). -/
def Obligations.TransfersOfControlSetThePc : Prop :=
  ∀ (s : State) (c : Sel),
    let jump (t : Thread) (pc : Dword) : Thread := { t with pc := pc }
    let rel (t : Thread) (off : BitVec 22) : Dword := t.pc + BitVec.ofInt 64 (2 * off.toInt)
    let ends (i : Instr) (target : Thread → Option Dword) (f : Thread → Thread) : Prop :=
      let bad (t : Thread) : Bool := (target t).any fun x => x.getLsbD 0 || !fetchable s.dev x
      let fail (x : Dword) : Fail := if x.getLsbD 0 then ⟨0x04, x, 0⟩ else ⟨0x05, x, 7⟩
      ((∀ l ∈ c.guarded i, bad (c.thread l) = false) → JumpEnds i s c fun _ t => f t)
      ∧ ∀ ls, ls = (c.guarded i).filter (fun l => bad (c.thread l)) → TrapReady s c ls →
          TrapsFrom i s c ls (fun l => fail ((target (c.thread l)).getD 0)) c.issue.pc (fun l t =>
            if c.issue.lanes.getLsbD l then (if guardOk (instrMods i) t then f t else t.advance (Instr.len i)) else t) Thread.region
    (∀ o, Issues s c (.bra o) → ends (.bra o) (fun t => some (rel t o.off)) fun t => jump t (rel t o.off))
    ∧ (∀ o, Issues s c (.cBra o) → let to_ (t : Thread) : Dword := t.pc + BitVec.ofInt 64 (2 * o.off.toInt)
        ends (.cBra o) (fun t => some (to_ t)) fun t => jump t (to_ t))
    ∧ (∀ o, Instr.wf (.brc o) = true → Issues s c (.brc o) →
        let f := (modsOf o.m).c
        let yes (l : Nat) : Bool := (c.thread l).pr (f.toNat % 8) != f.getLsbD 3
        let taken := if f.getLsbD 4 then c.lanes.all yes else c.lanes.any yes
        ends (.brc o) (fun t => if taken then some (rel t o.off) else none) fun t => jump t (if taken then rel t o.off else t.pc + 8))
    ∧ (∀ o, Issues s c (.jmp o) → ends (.jmp o) (fun t => some (t.vPair o.a.toNat)) fun t => jump t (t.vPair o.a.toNat))
    ∧ (∀ o, Issues s c (.call o) → ends (.call o) (fun t => some (rel t o.off)) fun t =>
        jump (t.setPair (modsOf o.m).c.toNat (t.pc + BitVec.ofNat 64 (Instr.len (.call o)))) (rel t o.off))
    ∧ (∀ o, Issues s c (.calli o) → ends (.calli o) (fun t => some (t.vPair o.a.toNat)) fun t =>
        jump (t.setPair o.d.toNat (t.pc + BitVec.ofNat 64 (Instr.len (.calli o)))) (t.vPair o.a.toNat))
    ∧ (∀ o, Issues s c (.ret o) → ends (.ret o) (fun t => some (t.vPair (modsOf o.m).c.toNat)) fun t =>
        jump t (t.vPair (modsOf o.m).c.toNat))

/-- R86, R101-R104, R390, R394: EXIT makes its guard-true lanes exited and takes them out of every mask register; where they are the last of the group,
of an attempt that is not monitored on a core with nothing pending, the group has ended, and where it is the block's last group the block is ended,
its ticket passed and its weight returned to the root. REGION sets the region-entry PC, NOP changes nothing but the PC, YIELD and SLEEP put the
guard-true threads to sleep, and the end of the sleep lets them go on. That the PC moves past YIELD and SLEEP only when the sleep ends is the
model's choice (log 58). -/
def Obligations.RegionNopYieldSleepAndExit : Prop :=
  (∀ (s : State) (c : Sel) (o : OpZ), Issues s c (.exit o) → NoLoads c (.exit o) → c.b.monitored = false →
    (∀ l ∈ c.guarded (.exit o), (s.core c.b.core).unchecked c.blk c.grp l = false) →
    (∃ l th, s.thread? c.blk c.grp l = some th ∧ th.st ≠ .exited ∧ l ∉ c.guarded (.exit o)) →
    ∃ t, exec (.exit o) s = .next t ∧ OnlyGroup s t c.blk c.grp
      ∧ (∀ lane th, s.thread? c.blk c.grp lane = some th → ∃ th', t.thread? c.blk c.grp lane = some th' ∧ th'.v = th.v ∧ th'.p = th.p
          ∧ (lane ∈ c.guarded (.exit o) → th'.st = .exited)
          ∧ (lane ∉ c.guarded (.exit o) → th' = if c.issue.lanes.getLsbD lane then th.advance (Instr.len (.exit o)) else th))
      ∧ ∀ g, t.group? c.blk c.grp = some g → g.k = c.g.k.map fun x => x &&& ~~~laneSet (c.guarded (.exit o)))
  ∧ (∀ (s : State) (c : Sel) (o : OpZ), Issues s c (.exit o) → NoLoads c (.exit o) → c.b.monitored = false → c.l.bars = [] →
    EmptyCore s c.b.core → c.guarded (.exit o) ≠ [] →
    (∀ l th, s.thread? c.blk c.grp l = some th → th.st ≠ .exited → l ∈ c.guarded (.exit o)) →
    ∃ t b g, exec (.exit o) s = .next t ∧ t.block? c.blk = some b ∧ b.groups[c.grp]? = some g ∧ g.arrival = none
      ∧ (∀ th ∈ g.threads, th.st = .exited)
      ∧ ((∃ x ∈ c.b.groups.zipIdx, x.2 ≠ c.grp ∧ x.1.ended = false) → b.st = c.b.st ∧ b.weight = c.b.weight)
      ∧ ((∀ x ∈ c.b.groups.zipIdx, x.2 ≠ c.grp → x.1.ended = true) → b.st = .ended ∧ b.weight = 0
          ∧ (∃ l, t.launch? c.b.launch = some l ∧ c.b.blkidx ∈ l.passed.map Prod.fst)
          ∧ ∀ r, s.launch? c.l.root = some r → ∃ r', t.launch? c.l.root = some r' ∧ r'.returned = r.returned + c.b.weight))
  ∧ (∀ (s : State) (c : Sel),
    (Issues s c .region → LanesEnd .region s c fun _ t => { t with region := t.pc })
    ∧ (Issues s c .nop → LanesEnd .nop s c fun _ t => t)
    ∧ (∀ o, Issues s c (.yield o) → c.guarded (.yield o) ≠ [] →
        ∃ t, exec (.yield o) s = .next t ∧ OnlyGroup s t c.blk c.grp
          ∧ (∀ b ∈ s.blocks, ∀ g ∈ b.groups, ∀ g', t.group? c.blk c.grp = some g' → g.age < g'.age)
          ∧ ∀ lane th, s.thread? c.blk c.grp lane = some th → t.thread? c.blk c.grp lane = some
              (if c.issue.lanes.getLsbD lane then
                if guardOk (instrMods (.yield o)) th then
                  { th with st := .yielding c.g.opportunities (s.clocks.getD (c.b.core / 48) 0 + 16) (Instr.len (.yield o)) }
                else th.advance (Instr.len (.yield o))
              else th))
    ∧ (∀ o, Issues s c (.sleep o) → JumpEnds (.sleep o) s c fun _ t =>
        if o.imm = 0 then t.advance (Instr.len (.sleep o))
        else { t with st := .sleeping (s.gtime + 16 * o.imm.toNat) (Instr.len (.sleep o)) }))
  ∧ ∀ (s : State) (blk grp lane : Nat) (b : Block) (th : Thread), s.subject = .lane blk grp lane → s.block? blk = some b →
      b.onCore = true → s.thread? blk grp lane = some th → th.horizon = none →
      (∀ d len, th.st = .sleeping d len → d ≤ s.gtime → ∃ t, exec .sleepEnd s = .next t ∧ OnlyThreads s t blk grp
        ∧ t.thread? blk grp lane = some { th with st := .runnable, pc := th.pc + BitVec.ofNat 64 len })
      ∧ (∀ k cycle len g, th.st = .yielding k cycle len → s.group? blk grp = some g →
          (k < g.opportunities ∨ cycle < s.clocks.getD (b.core / 48) 0) → ∃ t, exec .sleepEnd s = .next t ∧ OnlyThreads s t blk grp
        ∧ t.thread? blk grp lane = some { th with st := .runnable, pc := th.pc + BitVec.ofNat 64 len })
      ∧ (∀ d len, th.st = .sleeping d len → s.gtime < d → exec .sleepEnd s = .next s.idle)
/-! ## Allotments and the matrix unit (spec 04, 10) -/

/-- R122-R127, R324: ALLOT of the whole live group succeeds or fails as a whole: on success the file of every thread, or of the group, has n
registers, kept or zero, and the predicate is true; otherwise only the predicate is written, false. A release succeeds; a growth succeeds where
the registers that the groups of its scheduler hold leave room, and in a launch with DET, whose groups give none back, where the launch record
bounds it. The operand latch is empty after it. -/
def Obligations.AllotResizesOneFileOrReportsFailure : Prop :=
  ∀ (s : State) (c : Sel) (o : OpR), Issues s c (.allot o) → WholeSet s c →
    let n := o.a.toNat + 1
    let uniform := o.d.getLsbD 3
    let cur := if uniform then c.g.uallot else c.g.vallot
    let limit := if uniform then c.l.lr.uregs else c.l.lr.vregs
    let sized (l : List Word) : List Word := l.take n ++ List.replicate (n - l.length) 0
    let pred (ok : Bool) (t : Thread) : Thread := t.setP (o.d.toNat % 8) ok
    let held : Nat := ((s.blocksOn c.b.core).map fun b =>
      ((b.groups.filter fun g => g.sched == c.g.sched).map fun g => ((s.launch? b.launch).map fun l =>
        let x := if uniform then g.uallot else g.vallot
        if l.lr.det then max x (if uniform then l.lr.uregs else l.lr.vregs) else x).getD 0).sum).sum
    let room : Bool := decide ((held + (n - cur)) * (if uniform then 1 else 64) ≤ if uniform then 4096 else 98304)
    ∃ ok : Bool, (n ≤ cur → ok = true) ∧ (cur < n → ok = if c.l.lr.det then decide (n ≤ limit) else room)
      ∧ WaitEnds (.allot o) s c fun g =>
        if ok = false then { g with latch := none, threads := g.threads.map (pred false) }
        else if uniform then { g with latch := none, uallot := n, s := sized g.s, threads := g.threads.map (pred true) }
        else { g with latch := none, vallot := n, threads := g.threads.map fun t => pred true { t with v := sized t.v } }

/-- R314, R315, R329, R330, R332, R333: the accumulator instructions of the whole live group: ACCZ clears a tile, ACCLD reads 64 rows from the tile
store, or faults in every member where its offset or stride is misaligned or its rows pass the block's tile store, ACCRD and ACCWR move a column block between the tile and the live lanes' registers; MMAFLG gives the
flags to its lanes and clears those it names. -/
def Obligations.AccumulatorInstructionsMoveTiles : Prop :=
  ∀ (s : State) (c : Sel) (o : OpR),
    let tileOf (g : Group) (n : Nat) : Tile := g.acc.getD n []
    let put (g : Group) (n : Nat) (f : Nat → Nat → Word) : Group := { g with acc := g.acc.set n (Tile.ofFn f) }
    (Issues s c (.accz o) → WholeSet s c → WaitEnds (.accz o) s c fun g => { g with acc := g.acc.set (o.d.toNat % 8) [] })
    ∧ (Issues s c (.accld o) → WholeSet s c → c.l.lr.det = false →
        let off := (c.g.sr o.a.toNat).toNat
        let st := (c.g.sr o.b.toNat).toNat
        let es := if o.d.getLsbD 3 then 8 else 4
        off % 16 = 0 → st % 16 = 0 → off + 63 * st + 64 * es ≤ c.l.lr.tiles →
        WaitEnds (.accld o) s c fun g =>
          let n := o.d.toNat % 8
          let at_ (i j k : Nat) : Word := BitVec.ofNat 32 (ofBytes (c.b.tileBytes (off + i * st + j * es) es) / 2 ^ (32 * k))
          let lo := put g n fun i j => at_ i j 0
          if o.d.getLsbD 3 then put lo (n + 1) fun i j => at_ i j 1 else lo)
    ∧ (Issues s c (.accrd o) → WholeSet s c → o.a.getLsbD 3 = false → WaitEnds (.accrd o) s c fun g =>
        { g with threads := g.threads.mapIdx fun l t =>
            if t.st = .exited then t
            else t.setList o.d.toNat ((List.range 16).map fun e => (tileOf g (o.a.toNat % 8)).get l (16 * o.b.toNat + e)) })
    ∧ (Issues s c (.accrd o) → WholeSet s c → o.a.getLsbD 3 = true → WaitEnds (.accrd o) s c fun g =>
        { g with threads := g.threads.mapIdx fun l t =>
            if t.st = .exited then t
            else t.setList o.d.toNat ((List.range 8).flatMap fun e =>
              [(tileOf g (o.a.toNat % 8)).get l (8 * o.b.toNat + e), (tileOf g (o.a.toNat % 8 + 1)).get l (8 * o.b.toNat + e)]) })
    ∧ (Issues s c (.accwr o) → WholeSet s c → o.d.getLsbD 3 = false → WaitEnds (.accwr o) s c fun g =>
        put g (o.d.toNat % 8) fun i j =>
          if (g.thread i).st ≠ .exited ∧ j / 16 = o.b.toNat then (g.thread i).vr (o.a.toNat + j % 16)
          else (tileOf g (o.d.toNat % 8)).get i j)
    ∧ (Issues s c (.accwr o) → WholeSet s c → o.d.getLsbD 3 = true → WaitEnds (.accwr o) s c fun g =>
        let d := o.d.toNat % 8
        let part (k : Nat) (i j : Nat) : Word :=
          if (g.thread i).st ≠ .exited ∧ j / 8 = o.b.toNat then (g.thread i).vr (o.a.toNat + 2 * (j % 8) + k) else (tileOf g (d + k)).get i j
        put (put g d (part 0)) (d + 1) (part 1))
    ∧ (Issues s c (.accld o) → WholeSet s c → TrapReady s c c.lanes →
        let off := (c.g.sr o.a.toNat).toNat
        let st := (c.g.sr o.b.toNat).toNat
        let ea := BitVec.ofNat 64 (0x3FFF * 2 ^ 48 + off)
        (off % 16 ≠ 0 ∨ st % 16 ≠ 0 → WaitTraps (.accld o) s c ⟨0x04, ea, 0⟩)
        ∧ (off % 16 = 0 → st % 16 = 0 → c.l.lr.tiles < off + 63 * st + 64 * (if o.d.getLsbD 3 then 8 else 4) →
            WaitTraps (.accld o) s c ⟨0x09, ea, 0⟩))
    ∧ (Issues s c (.mmaflg o) → GroupEnds (.mmaflg o) s c fun g =>
        let b := operandB c.g (c.thread ((c.guarded (.mmaflg o)).headD 0)) o.bk o.b
        { g with
          mmaflags := g.mmaflags &&& ~~~b.setWidth 5
          threads := g.threads.mapIdx fun l t =>
            if l ∈ c.guarded (.mmaflg o) then t.setV o.d.toNat (c.g.mmaflags.setWidth 32) else t })

/-- R316-R324, R326, R327: MMA and MMASP of the whole live group, of a fixed format or of the rung's, with their checks passed start one operation: the
A fragments of the live lanes and the bytes of B are read, the operand latch is set by `.reuse` and emptied without it, and the operation is in
flight behind those already there; a check that fails faults in every member. The completion of a group's oldest operation, of an attempt that is
not monitored, makes every element of the rows that change what its chain of chunks makes of it, adds the flags of all of them to MMAFLAGS, and
changes nothing else: no register, no other tile, no other row. The products, the sum of a chunk and its addition are those of R320 and R321. -/
def Obligations.MatrixInstructionsStartOneOperation : Prop :=
  (∀ (s : State) (c : Sel) (o : OpR) (sparse : Bool), WholeSet s c →
    let i : Instr := if sparse then .mmasp o else .mma o
    let cf := (modsOf o.m).c
    let code := o.d.toNat / 8
    let tn : Bool := !sparse && cf.getLsbD 0
    let n16 : Bool := sparse && cf.getLsbD 2
    let q : Nat := if sparse then 0 else cf.toNat / 4 % 8
    let off := (c.g.sr o.b.toNat).toNat
    let ea := BitVec.ofNat 64 (0x3FFF * 2 ^ 48 + off)
    let regs (fmt : Nat) : Nat := if sparse then mmaspRegs fmt else mmaRegs fmt
    let bytes (fmt : Nat) : Nat := if sparse then sparseBytes fmt n16 else denseBytes fmt tn
    let lad (fmt : Nat) : Prop := c.l.lr.ladder = true ∧ (sparse = true → c.b.rung ≤ 1) ∧ [0, 3, 7, 8, 9][c.b.rung]? = some fmt
      ∧ (tn = true → q < 64 / matK fmt) ∧ (fmt = 9 → o.d.toNat % 2 = 0 ∧ o.d.toNat % 8 + 1 < c.l.lr.accs)
      ∧ o.a.toNat + regs fmt ≤ 128 ∧ o.a.toNat + regs fmt ≤ c.g.vallot
    Issues s c i →
    (∀ fmt, (code ≤ 9 ∧ fmt = code) ∨ (code = 10 ∧ lad fmt) →
      (c.l.lr.det = false → off % 16 = 0 → off + bytes fmt ≤ c.l.lr.tiles → WaitEnds i s c fun g => { g with
          latch := if cf.getLsbD 1 then some (o.a.toNat, fmt, regs fmt) else none
          flights := g.flights ++ [
            { sparse := sparse, fmt := fmt, tn := tn, q := q, n16 := n16, rnd := (modsOf o.m).rnd, tile := o.d.toNat % 8,
              a := (lanesOf g.liveLanes).map fun l => (l, (List.range (regs fmt)).map fun k => (g.thread l).vr (o.a.toNat + k)),
              b := c.b.tileBytes off (bytes fmt) }] })
      ∧ (TrapReady s c c.lanes → off % 16 ≠ 0 → WaitTraps i s c ⟨0x04, ea, 0⟩)
      ∧ (TrapReady s c c.lanes → off % 16 = 0 → c.l.lr.tiles < off + bytes fmt → WaitTraps i s c ⟨0x09, ea, 0⟩))
    ∧ (TrapReady s c c.lanes → code = 10 → c.l.lr.ladder = false ∨ (sparse = true ∧ 1 < c.b.rung) → WaitTraps i s c ⟨0x12, 0, 1⟩))
  ∧ (∀ (s : State) (b : Block) (l : Launch) (g : Group) (m : MatrixOp), s.subject = .group b.id g.idx → s.block? b.id = some b →
      s.group? b.id g.idx = some g → s.launch? b.launch = some l → b.onCore = true → g.flights.head? = some m → b.monitored = false →
      m.fmt ≤ 9 → (m.sparse = true → m.fmt ≤ 6 ∧ m.tn = false) → (m.tn = true → m.q < 64 / matK m.fmt) →
      (m.a.map Prod.fst).Pairwise (· < ·) → (∀ x ∈ m.a, x.1 < 64) → m.tile + 1 < g.acc.length + (if m.fmt = 9 then 0 else 1) →
      let wide := m.fmt == 9
      let f := if wide then fmtF64 else fmtF32
      let mode := if m.rnd = 0 then .rne else RMode.ofCode m.rnd.toNat
      let elem (g : Group) (i j : Nat) : Nat :=
        ((g.acc.getD m.tile []).get i j).toNat + (if wide then ((g.acc.getD (m.tile + 1) []).get i j).toNat * 2 ^ 32 else 0)
      let chain (i j : Nat) : Nat × Flags := chainOf f mode ((m.sums i j).map fun c => c.map fun p => product m.fmt id p.1 p.2) (elem g i j)
      ∃ t g', exec .matrixOpComplete s = .next t ∧ OnlyGroup { s with freeCount := t.freeCount } t b.id g.idx ∧ t.group? b.id g.idx = some g'
        ∧ g' = { g with acc := g'.acc, flights := g.flights.drop 1, mmaflags := g'.mmaflags } ∧ g'.acc.length = g.acc.length
        ∧ (∀ n, n ≠ m.tile → (wide = true → n ≠ m.tile + 1) → g'.acc.getD n [] = g.acc.getD n [])
        ∧ (∀ i < 64, ∀ j < 64, (m.changes i → elem g' i j = (chain i j).1) ∧ (¬m.changes i → elem g' i j = elem g i j))
        ∧ ∀ k < 5, g'.mmaflags.getLsbD k = true ↔
            g.mmaflags.getLsbD k = true ∨ ∃ i < 64, ∃ j < 64, m.changes i ∧ (chain i j).2.getLsbD k = true)
  ∧ (∀ fmt ≤ 9, ∀ a b : MatVal,
      let p := product fmt id a b
      let scaled := a.scale ≠ 0xFF ∧ b.scale ≠ 0xFF
      (a.scale = 0xFF ∨ b.scale = 0xFF ∨ a.v.isNaN = true ∨ b.v.isNaN = true →
          p.v.isNaN = true ∧ p.iv = (decide (7 ≤ fmt) && (a.v.isSignalling || b.v.isSignalling)))
      ∧ (scaled → ∀ n n' k e,
          let of_ (x y : FVal) : Product := product fmt id ⟨x, a.scale⟩ ⟨y, b.scale⟩
          (∀ x ∈ [of_ (.inf n) (.fin n' 0 e), of_ (.fin n 0 e) (.inf n')], x.v.isNaN = true ∧ x.iv = true)
          ∧ ∀ x ∈ [of_ (.inf n) (.fin n' (k + 1) e), of_ (.fin n (k + 1) e) (.inf n'), of_ (.inf n) (.inf n')], x.v = .inf (n != n'))
      ∧ (scaled → fmt ≠ 8 → ∀ n k e n' k' e', a.v = .fin n k e → b.v = .fin n' k' e' →
          p.v = .fin (n != n') (k * k') (e + e' + ((a.scale : Int) - 127) + ((b.scale : Int) - 127)) ∧ p.iv = false))
  ∧ ∀ f ∈ [fmtF32, fmtF64], ∀ (mode : RMode) (ps : List Product), ps ≠ [] →
      let pinf := ps.any fun p => p.v.isInf && !p.v.neg
      let ninf := ps.any fun p => p.v.isInf && p.v.neg
      let nan := ps.any fun p => p.v.isNaN
      let t := chunkSum f mode ps
      (nan = true ∨ (pinf = true ∧ ninf = true) → t = (f.canonical, if (ps.any Product.iv) = true ∨ (pinf = true ∧ ninf = true) then 0x01 else 0))
      ∧ (nan = false → pinf = true → ninf = false → t = (f.infMag, 0)) ∧ (nan = false → pinf = false → ninf = true → t = (f.infMag + 2 ^ f.mag, 0))
      ∧ (nan = false → pinf = false → ninf = false → t = roundSum f mode (ps.map Product.v))
      ∧ ∀ x y, let r := fpOut2 f fnAdd { faddEnv with mode := mode } Mods.default x y
          accumulate f mode x y = (r.bits, r.flags &&& 0x1F)
/-! ## Traps, breakpoints and kills (spec 15) -/

/-- R57, R87, R88, R90, R441-R443, R446, R449, R452, R453: TRAP, BKPT with debug disabled, and any instruction that names a register outside an
allotment enter the handler in the lanes of the rule (R183, R184: an MX block of the rung's element that passes v127 is ILLEGAL before that); BKPT
with debug enabled halts the group behind it. A set that arrives at a cross-lane instruction takes MASKFLT where its mask register names a lane
that is not live (1), does not name one of the set (2), or differs from the open wait's snapshot (4); a thread in a handler that issues an instruction of the whole
group has MASKFLT 5 logged, and ends its block. -/
def Obligations.TrapsEnterTheHandler : Prop :=
  ∀ (s : State) (c : Sel),
    (∀ o, Issues s c (.trap o) → TrapReady s c (c.guarded (.trap o)) →
      TrapsEnd (.trap o) s c (c.guarded (.trap o)) ⟨0x0F, 0, o.imm.setWidth 32⟩ (c.issue.pc + BitVec.ofNat 64 (Instr.len (.trap o))) true)
    ∧ (Issues s c .bkpt → (s.part? c.l.part).any Partition.debug = false → TrapReady s c c.lanes →
      TrapsEnd .bkpt s c c.lanes ⟨0x0E, 0, 0⟩ (c.issue.pc + BitVec.ofNat 64 (Instr.len .bkpt)) false)
    ∧ (Issues s c .bkpt → (s.part? c.l.part).any Partition.debug = true → LogRoom s 1 →
      ∃ t, exec .bkpt s = .next t ∧ OnlyLog s t ∧ t.nextSeq = s.nextSeq + 1
        ∧ (∀ g, t.group? c.blk c.grp = some g → g.halted = true)
        ∧ ∀ lane th, s.thread? c.blk c.grp lane = some th → t.thread? c.blk c.grp lane =
            some (if c.issue.lanes.getLsbD lane then th.advance (Instr.len .bkpt) else th))
    ∧ (∀ i, Instr.wf i = true → (encode i).isSome = true → s.sel = some c → pastEnd c.b.rung i = false → c.rangeOk i = false →
        TrapReady s c c.lanes → TrapsEnd i s c c.lanes ⟨0x02, 0, instrWord i⟩ c.issue.pc false)
    ∧ (∀ o, ∀ i ∈ [Instr.vote o, .shfl o, .redux o, .matchLanes o, .scan o, .elect o], Issues s c i → TrapReady s c c.lanes →
        (∀ l ∈ c.lanes, c.g.loading l = false) → (modsOf o.m).c.getLsbD 4 = true →
        let k := c.g.kr ((modsOf o.m).c.toNat % 16)
        let set_ := c.issue.lanes
        (c.g.openWait c.issue.pc true = none → k &&& ~~~c.g.liveLanes ≠ 0 → TrapsAt i s c ⟨0x03, 0, 1⟩)
        ∧ (c.g.openWait c.issue.pc true = none → k &&& ~~~c.g.liveLanes = 0 → set_ &&& ~~~k ≠ 0 → TrapsAt i s c ⟨0x03, 0, 2⟩)
        ∧ ∀ w, c.g.openWait c.issue.pc true = some w →
            (k ≠ w.snapshot → TrapsAt i s c ⟨0x03, 0, 4⟩) ∧ (k = w.snapshot → set_ &&& ~~~k ≠ 0 → TrapsAt i s c ⟨0x03, 0, 2⟩))
    ∧ (∀ o l, ∀ i ∈ [Instr.mma o, .mmasp o, .accz o, .accld o, .accst o, .accrd o, .accwr o, .allot o, .bararr o, .bar o], Issues s c i →
        c.lanes = [l] → (c.thread l).trapped = true → c.g.loading l = false → LogRoom s 1 → c.b.st = .resident → c.b.doomed = none →
        ∃ t b, exec i s = .next t ∧ s.nextSeq < t.nextSeq ∧ t.block? c.blk = some b ∧ b.st = .killed ∧ b.weight = 0)
    ∧ ∀ o, s.sel = some c → TrapReady s c c.lanes →
        (128 < o.d.toNat + elemRegs (elemAt c.b.rung o.dt) → TrapsEnd (.mxq o) s c c.lanes ⟨0x01, 0, instrWord (.mxq o)⟩ c.issue.pc false)
        ∧ (128 < o.a.toNat + elemRegs (elemAt c.b.rung o.st) → TrapsEnd (.mxdq o) s c c.lanes ⟨0x01, 0, instrWord (.mxdq o)⟩ c.issue.pc false)

/-- R353, R454-R456: TRET resumes where the fault stopped the thread, FLTRD reads the last record, KILLG and KILLB end their threads; the block of a
KILLB is killed, unless its attempt has tripped already, whose abort goes on. -/
def Obligations.TretFltrdAndKills : Prop :=
  ∀ (s : State) (c : Sel),
    (Issues s c .tret → (∀ l ∈ c.guarded .tret, (c.thread l).trapped = true) → JumpEnds .tret s c fun _ t =>
      match t.trap with
      | some k => { t with trap := none, pc := k.resume, region := k.region, st := .runnable }
      | none => t)
    ∧ (Issues s c .tret → (∀ l ∈ c.guarded .tret, (c.thread l).trapped = false) → TrapReady s c (c.guarded .tret) →
      TrapsEnd .tret s c (c.guarded .tret) ⟨0x01, 0, instrWord .tret⟩ c.issue.pc true)
    ∧ (∀ o, Issues s c (.fltrd o) → LanesEnd (.fltrd o) s c fun _ t => t.setList o.d.toNat (
        match t.last with
        | none => [0, 0, 0, 0]
        | some r =>
          if o.a.getLsbD 0 then [r.pco, r.rego, r.block, r.seql]
          else [BitVec.ofNat 32 (r.grp.toNat * 2 ^ 14 + r.lane.toNat * 2 ^ 8 + r.code.toNat), r.detail, r.addr.setWidth 32,
                (r.addr >>> 32).setWidth 32]))
    ∧ (∀ o, Issues s c (.killg o) → c.guarded (.killg o) ≠ [] → ∃ t, exec (.killg o) s = .next t
        ∧ (∀ lane < 64, ∀ th, s.thread? c.blk c.grp lane = some th → ∃ th', t.thread? c.blk c.grp lane = some th' ∧ th'.st = .exited ∧ th'.v = th.v)
        ∧ ((∃ g ∈ c.b.groups.zipIdx, g.2 ≠ c.grp ∧ g.1.ended = false) → ∀ g, g ≠ c.grp → t.group? c.blk g = s.group? c.blk g))
    ∧ ∀ o, Issues s c (.killb o) → c.guarded (.killb o) ≠ [] → c.b.st = .resident → ∃ t b l, exec (.killb o) s = .next t
        ∧ t.block? c.blk = some b ∧ t.launch? c.b.launch = some l ∧ (∀ g ∈ b.groups, ∀ th ∈ g.threads.take 64, th.st = .exited)
        ∧ (c.b.doomed = none → b.st = .killed ∧ b.weight = 0 ∧ l.status = max c.l.status 7 ∧ c.b.blkidx ∈ l.passed.map Prod.fst)
        ∧ (c.b.doomed ≠ none → b.st = .resident ∧ b.weight = c.b.weight ∧ l.status = c.l.status)

/-! ## Loads and stores (spec 06, 09) -/

/-- R202, R205, R207, R209-R212, R214, R301: a load of lanes that pass their checks moves the set on; a lane that reads the tile store, or whose
own pending stores hold every byte (under a probe: of a resident page), has its registers (and its probe predicate) written at once; a lane none
of whose bytes its core holds has its request outstanding, without the hints where it reads private memory (R208). Beside the group only the
core's request number changes. A misaligned LD traps. -/
def Obligations.LoadsWriteTheirRegistersOrRequestTheirBytes : Prop :=
  ∀ (s : State) (c : Sel) (o : OpI), Plain s c →
    let cf := (modsOf o.m).c
    let ld (i : Instr) (k : LoadKind) (probe : Option Nat) (byp : Bool) (ea : Nat → Nat) (ok : Nat → Prop) : Prop :=
      Issues s c i → (∀ l ∈ c.guarded i, ok l) → ∃ t, exec i s = .next t ∧ OnlyGroup { s with cores := t.cores } t c.blk c.grp
        ∧ OnlyCore { s with blocks := t.blocks } t c.b.core
        ∧ (∃ n, t.core c.b.core = { s.core c.b.core with nextReq := n })
        ∧ ∀ lane th, s.thread? c.blk c.grp lane = some th → ∃ th', t.thread? c.blk c.grp lane = some th'
          ∧ (lane ∉ c.guarded i → th' = if c.issue.lanes.getLsbD lane then th.advance (Instr.len i) else th)
          ∧ (lane ∈ c.guarded i →
              let bytes := s.bytesAt c lane (ea lane) k.size
              let own (a : Nat) : Option Byte := (s.core c.b.core).ownByte c.blk c.grp lane (s.core c.b.core).nextReq a
              let past := byp && eaSpace (ea lane) != 2
              let got (bs : List Byte) : Thread :=
                let t := (th.advance (Instr.len i)).setList o.d.toNat (k.result bs)
                match probe with
                | some p => t.setP p true
                | none => t
              (eaSpace (ea lane) = 3 → th' = got (c.b.tileBytes (eaOff (ea lane)) k.size))
              ∧ (eaSpace (ea lane) ≠ 3 → (∀ a ∈ bytes, (own a).isSome = true) →
                  (probe = none ∨ ∀ a ∈ bytes, ∃ place key lease pr pw, s.answer c.req .rd (128 * (a / 128)) 128 = .served place key lease pr pw) →
                  th' = got (bytes.map fun a => (own a).getD 0))
              ∧ (eaSpace (ea lane) ≠ 3 → (∀ a ∈ bytes, own a = none) →
                  (past = true ∨ ∀ a ∈ bytes, ∀ ln ∈ (s.core c.b.core).lines, ln.key.line ≠ a / 128) →
                  th' = th.advance (Instr.len i) ∧ ∃ g q x, t.group? c.blk c.grp = some g ∧ q ∈ g.loads ∧ c.g.nextLoad ≤ q.id ∧ q.byp = byp
                    ∧ (eaSpace (ea lane) ≠ 2 → ∀ a ∈ bytes, a / 128 ∉ q.plain)
                    ∧ (eaSpace (ea lane) = 2 → ∀ a ∈ bytes, (∀ l ∈ c.guarded i, eaSpace (ea l) ≠ 2 →
                        ∀ b ∈ s.bytesAt c l (ea l) k.size, b / 128 ≠ a / 128) → a / 128 ∈ q.plain)
                    ∧ x ∈ q.lanes ∧ x.lane = lane ∧ x.vd = o.d.toNat ∧ x.kind = k ∧ x.ea = BitVec.ofNat 64 (ea lane) ∧ x.probe = probe
                    ∧ x.bytes = bytes.map fun a => (a, none)))
    let probe := if cf.getLsbD 2 then some (cf.toNat / 16 % 8) else none
    let mem (n l : Nat) : Nat := normEa s.dev (baseReg c.g (c.thread l) cf o.a + o.imm.signExtend 64 * BitVec.ofNat 64 n).toNat
    let plain (i : Instr) (k : LoadKind) : Prop :=
      ld i k probe (cf.toNat % 4 == 3) (mem k.size) (fun l => AccessOk s c (mem k.size l) k.size k.size)
      ∧ (Issues s c i → TrapReady s c (c.guarded i) →
          (∀ l ∈ c.guarded i, spaceFault s.podSize (mem k.size l) = none ∧ mem k.size l % k.size ≠ 0) →
          ∀ l, c.guarded i = [l] → TrapsEnd i s c [l] ⟨0x04, BitVec.ofNat 64 (mem k.size l), 0⟩ c.issue.pc true)
    let word (l : Nat) : Int := (if cf.getLsbD 3 then c.g.sr o.a.toNat else (c.thread l).vr o.a.toNat).toNat
    let widths : Nat → LoadKind := fun n => if n = 0 then .b32 else if n = 1 then .b64 else .b128
    let tile (i : Instr) (k : LoadKind) : Prop :=
      let off (l : Nat) : Int := word l + o.imm.toInt * k.size
      ld i k none false (fun l => 0x3FFF * 2 ^ 48 + (off l % 2 ^ 48).toNat) fun l =>
        0 ≤ off l ∧ off l % k.size = 0 ∧ off l + k.size ≤ c.l.lr.tiles ∧ off l < 2 ^ 48
    plain (.ldN8 o) .n8 ∧ plain (.ldI8 o) .i8 ∧ plain (.ldN16 o) .n16 ∧ plain (.ldI16 o) .i16
    ∧ plain (.ldB32 o) .b32 ∧ plain (.ldB64 o) .b64 ∧ plain (.ldB128 o) .b128
    ∧ tile (.ldtB32 o) .b32 ∧ tile (.ldtB128 o) .b128
    ∧ (let k := widths (cf.toNat % 4)
       let w (l : Nat) : Int := word l + o.imm.toInt * (k.size / 4 : Nat)
       ld (.ldp o) k none false (fun l => 0x2FFF * 2 ^ 48 + (4 * w l % 2 ^ 48).toNat) fun l => 0 ≤ w l ∧ w l + (k.size / 4 : Nat) ≤ c.l.lr.priv)

/-- R195, R196, R202, R205, R213, R214, R301, R302: a store whose lanes pass their checks moves the set on; where several lanes store to one byte
the highest stays. In the tile store the bytes are written; in a line the core may write they enter it, dirty; else they are pending in the core's
buffer. Every other byte stays, in the tile store, in the L1, in the buffer and in memory. -/
def Obligations.StoresReachTheTileStoreTheL1OrTheBuffer : Prop :=
  ∀ (s : State) (c : Sel), Plain s c →
    let core := s.core c.b.core
    let st (i : Instr) (d n : Nat) (byp : Bool) (ea : Nat → Nat) (ok : Nat → Prop) : Prop :=
      Issues s c i → (∀ l ∈ c.guarded i, ok l) →
        let inTile := (c.guarded i).flatMap fun l => ((c.thread l).stored d n).zipIdx.map fun x => (eaOff (ea l) + x.2, x.1)
        let pairs := (c.guarded i).flatMap fun l => (s.bytesAt c l (ea l) n).zip ((c.thread l).stored d n)
        ((∀ l ∈ c.guarded i, eaSpace (ea l) = 3) → c.b.tile.wf = true → core.stores.length ≤ 128 → ∃ t, exec i s = .next t ∧ OnlyBlocks s t ∧ Moves i s t c
          ∧ (∀ b, b ≠ c.blk → t.block? b = s.block? b)
          ∧ ∀ b, t.block? c.blk = some b → ∀ a, b.tile.read a = (lastWrite inTile a).getD (c.b.tile.read a))
        ∧ ((∀ l ∈ c.guarded i, eaSpace (ea l) ≠ 3) → core.stores = [] →
            ((byp = true ∧ ∀ l ∈ c.guarded i, eaSpace (ea l) ≠ 2) ∨ ∀ x ∈ pairs, ∀ ln ∈ core.lines, ln.key.line ≠ x.1 / 128) →
            ∃ t, exec i s = .next t ∧ OnlyCore s t c.b.core ∧ Moves i s t c ∧ (t.core c.b.core).lines = core.lines
              ∧ (∀ b, t.block? c.blk = some b → b.tile = c.b.tile)
              ∧ ∀ a, (t.core c.b.core).storedByte c.l.ctx a = lastWrite pairs a)
        ∧ ((∀ l ∈ c.guarded i, eaSpace (ea l) ≠ 3) → core.stores = [] → NoLoads c i → byp = false →
            (∀ x ∈ pairs, ∃ ln, core.hot ⟨c.l.ctx, x.1 / 128⟩ s.gtime = some ln ∧ ln.pw = true) → (∀ ln ∈ core.lines, ln.data.length = 128) →
            ∃ t, exec i s = .next t ∧ OnlyCore s t c.b.core ∧ Moves i s t c ∧ (t.core c.b.core).stores = []
              ∧ (∀ b, t.block? c.blk = some b → b.tile = c.b.tile)
              ∧ ∀ a ln, core.hot ⟨c.l.ctx, a / 128⟩ s.gtime = some ln → ∃ ln', (t.core c.b.core).hot ⟨c.l.ctx, a / 128⟩ s.gtime = some ln'
                ∧ ln'.byte (a % 128) = (lastWrite pairs a).getD (ln.byte (a % 128))
                ∧ ln'.dirty.getLsbD (a % 128) = ((lastWrite pairs a).isSome || ln.dirty.getLsbD (a % 128)))
    (∀ o : OpI,
      let cf := (modsOf o.m).c
      let mem (n l : Nat) : Nat := normEa s.dev (baseReg c.g (c.thread l) cf o.a + o.imm.signExtend 64 * BitVec.ofNat 64 n).toNat
      let plain (i : Instr) (n : Nat) : Prop :=
        st i o.d.toNat n (cf.toNat % 4 == 3) (mem n) fun l => AccessOk s c (mem n l) n n ∧ OwnedOk c (mem n l) n
      let word (l : Nat) : Int := (if cf.getLsbD 3 then c.g.sr o.a.toNat else (c.thread l).vr o.a.toNat).toNat
      let tile (i : Instr) (n : Nat) : Prop :=
        let off (l : Nat) : Int := word l + o.imm.toInt * n
        st i o.d.toNat n false (fun l => 0x3FFF * 2 ^ 48 + (off l % 2 ^ 48).toNat) fun l =>
          0 ≤ off l ∧ off l % n = 0 ∧ off l + n ≤ c.l.lr.tiles ∧ off l < 2 ^ 48
      plain (.stB8 o) 1 ∧ plain (.stB16 o) 2 ∧ plain (.stB32 o) 4 ∧ plain (.stB64 o) 8 ∧ plain (.stB128 o) 16
      ∧ tile (.sttB32 o) 4 ∧ tile (.sttB128 o) 16
      ∧ (let k := if cf.toNat % 4 = 0 then 1 else if cf.toNat % 4 = 1 then 2 else 4
         let w (l : Nat) : Int := word l + o.imm.toInt * (k : Nat)
         st (.stp o) o.d.toNat (4 * k) false (fun l => 0x2FFF * 2 ^ 48 + (4 * w l % 2 ^ 48).toNat) fun l => 0 ≤ w l ∧ w l + (k : Nat) ≤ c.l.lr.priv))
    ∧ ∀ o : OpR, Issues s c (.tzero o) →
        let first (l : Nat) : Nat := ((c.thread l).vr o.a.toNat).toNat
        let count (l : Nat) : Nat := (operandB c.g (c.thread l) o.bk o.b).toNat
        (∀ l ∈ c.guarded (.tzero o), first l % 16 = 0 ∧ count l % 16 = 0 ∧ first l + count l ≤ c.l.lr.tiles) → c.b.tile.wf = true →
        ∃ t, exec (.tzero o) s = .next t ∧ OnlyBlocks s t ∧ Moves (.tzero o) s t c
          ∧ ∀ b, t.block? c.blk = some b → ∀ a,
            b.tile.read a = if (c.guarded (.tzero o)).any (fun l => decide (first l ≤ a ∧ a < first l + count l)) then 0 else c.b.tile.read a

/-- R194-R197, R208, R209, R211, R235, R260: the memory system's answers. A response fills the line and writes the registers of the load that
waits for it, the thread's own pending bytes before the line's; a checked store enters its line, or with `.byp` goes to its home; dirty bytes are
sent before their lease ends and performed at their home in the order sent, none before what was sent before an earlier release; a line whose lease
is over, with no byte dirty or under way, leaves the L1. -/
def Obligations.MemoryAnswersLoadsStoresAndWriteBacks : Prop :=
  (∀ (s : State) (b : Block) (l : Launch) (g : Group) (ld : Load) (x : LaneLoad) (th : Thread) (grp line : Nat) (place : Place) (key : EntryKey)
      (lease : Nat) (pr pw : Bool),
      s.subject = .load b.id grp ld.id → s.block? b.id = some b → s.group? b.id grp = some g → s.launch? b.launch = some l → b.onCore = true →
      g.loads = [ld] → ld.lanes = [x] → ld.prefetch = false → ld.lines = [line] → (∀ y ∈ x.bytes, y.2 = none) → x.bytes.length = x.kind.size →
      s.thread? b.id grp x.lane = some th → (∀ u ∈ g.threads, u.horizon = none) →
      s.answer (reqOf l b.core) .rd (128 * line) 128 = .served place key lease pr pw → s.images = [] → s.errors = [] →
      (s.core b.core).line? ⟨l.ctx, line⟩ = none → ((s.core b.core).lines.length < 16) → (s.core b.core).sent = [] → ld.ro = false →
      s.answered b.core l.ctx line b.id grp ld.id = [(b.id, grp, ld)] →
      ∃ t, exec .loadResponse s = .next t ∧ SameMem s t
        ∧ t.thread? b.id grp x.lane = some (
            let th' := th.setList x.vd (x.kind.result (x.bytes.map fun y =>
              ((s.core b.core).ownByte b.id grp x.lane ld.seq y.1).getD ((s.memOf place).read (place.at_ + y.1 % 128))))
            match x.probe with
            | some p => th'.setP p true
            | none => th')
        ∧ (∀ g', t.group? b.id grp = some g' → g'.loads = [])
        ∧ (ld.byp = false → ∃ ln, (t.core b.core).line? ⟨l.ctx, line⟩ = some ln ∧ ln.lease = s.gtime + lease ∧ ln.dirty = 0 ∧ ln.pr = pr ∧ ln.pw = pw
            ∧ ∀ i < 128, ln.valid.getLsbD i = true ∧ ln.byte i = (s.memOf place).read (place.at_ + i)))
  ∧ (∀ (s : State) (core : Nat) (e : Store) (b : Block) (l : Launch) (place : Place) (key : EntryKey) (lease : Nat) (pr pw : Bool),
      s.subject = .store core e.id → (s.core core).stores = [e] → e.blk = b.id → s.block? b.id = some b → s.launch? b.launch = some l →
      s.answer ⟨l.part, false, e.ctx, dieOf core⟩ .wr (128 * e.line) 128 = .served place key lease pr pw → s.images = [] → s.errors = [] →
      (∀ g, s.group? e.blk e.grp = some g → g.loads = []) → (s.core core).lines.length < 16 → (s.core core).sent = [] → (e.bytes.map StoreByte.off).Nodup →
      (∀ y ∈ e.bytes, y.off < 128) → (s.core core).line? ⟨e.ctx, e.line⟩ = none →
      ∃ t, exec .storeCheckResponse s = .next t ∧ (t.core core).stores = []
        ∧ (e.byp = true → SameElsewhere s t place ∧
            t.memOf place = e.bytes.foldl (fun m y => m.write (place.at_ + y.off) y.val) (s.memOf place))
        ∧ (e.byp = false → SameMem s t ∧ ∃ ln, (t.core core).line? ⟨e.ctx, e.line⟩ = some ln ∧ ln.lease = s.gtime + lease
            ∧ ∀ i < 128, ln.dirty.getLsbD i = (e.bytes.any fun y => y.off == i)
              ∧ ∀ y ∈ e.bytes, y.off = i → ln.valid.getLsbD i = true ∧ ln.byte i = y.val))
  ∧ (∀ (s : State) (core : Nat) (k : LineKey) (ln : Line), s.subject = .line core k → (s.core core).line? k = some ln → ln.dirty ≠ 0 →
      ln.lease ≤ s.gtime + 256 → ∃ t x, exec .leaseWriteback s = .next t ∧ OnlyCore s t core ∧ t.blocks = s.blocks
        ∧ (t.core core).sent = (s.core core).sent ++ [x] ∧ x.key = k ∧ x.place = ln.place
        ∧ x.bytes = (List.range 128).filterMap (fun i => if ln.dirty.getLsbD i then some (i, ln.byte i) else none)
        ∧ (t.core core).line? k = some { ln with dirty := 0 })
  ∧ (∀ (s : State) (core : Nat) (k : LineKey) (x : Sent), s.subject = .line core k → (s.core core).sent.find? (fun y => y.key == k) = some x →
      ((∀ y ∈ (s.core core).sent, x.epoch ≤ y.epoch) → s.images = [] → s.errors = [] →
        ∃ t, exec .writebackAccept s = .next t ∧ SameElsewhere s t x.place ∧ t.blocks = s.blocks
          ∧ t.memOf x.place = x.bytes.foldl (fun m y => m.write (x.place.at_ + y.1) y.2) (s.memOf x.place)
          ∧ (t.core core).sent = (s.core core).sent.erase x ∧ (t.core core).lines = (s.core core).lines)
      ∧ ((∃ y ∈ (s.core core).sent, y.epoch < x.epoch) → exec .writebackAccept s = .next s.idle))
  ∧ ∀ (s : State) (core : Nat) (k : LineKey) (ln : Line), s.subject = .line core k → (s.core core).line? k = some ln →
      (ln.lease ≤ s.gtime → ln.dirty = 0 → (∀ x ∈ (s.core core).sent, x.key ≠ k) → ∃ t, exec .leaseExpiry s = .next t ∧ OnlyCore s t core ∧ t.blocks = s.blocks
        ∧ (t.core core).line? k = none)
      ∧ (s.gtime < ln.lease ∨ (∃ x ∈ (s.core core).sent, x.key = k) → exec .leaseExpiry s = .next s.idle)

/-- R222, R245-R247, R250-R253: an ordered or atomic access that its home serves while the core holds nothing of its own. At .quad and wider,
ATOM and CAS of lanes in one line act at the home one lane after another, in ascending order, in the step in which they issue (log 25): each reads what the one before it left, and memory
changes in nothing else. STREL sends its bytes to the home, behind what its release sends (R231, R235), LDACQ reads them there. At .core an atomic acts in the line of the L1, as does a
store. All but LDACQ leave their region entry behind them (R94). -/
def Obligations.AtomicsReleasesAndAcquiresActAtTheHome : Prop :=
  ∀ (s : State) (c : Sel) (place : Place) (key : EntryKey) (lease : Nat) (pr pw : Bool) (line : Nat),
    Plain s c → EmptyCore s c.b.core → s.images = [] → s.errors = [] →
    let at_ (ea : Nat) : Nat := place.at_ + ea % 128
    let ok (i : Instr) (ea : Nat → Nat) (n scope : Nat) (atomic owned : Bool) : Prop :=
      Issues s c i ∧ NoLoads c i ∧ c.b.onCore = true
      ∧ ∀ l ∈ c.guarded i, ea l / 128 = line ∧ spaceFault s.podSize (ea l) = none ∧ scopeSuits s.dev (ea l) scope atomic = true ∧ eaSpace (ea l) ≠ 3
          ∧ ea l % n = 0 ∧ (owned = true → OwnedOk c (ea l) n)
    let served (right : Right) : Prop := s.answer c.req right (128 * line) 128 = .served place key lease pr pw
    -- what ATOM or CAS of n bytes does: `f` the value a lane writes, if any, and `g` its registers, by the old value
    let rmw (i : Instr) (o : OpR) (n : Nat) (f : Thread → Nat → Option Nat) (g : Thread → Nat → Thread) : Prop :=
      let ea (l : Nat) : Nat := normEa s.dev ((c.thread l).vPair o.a.toNat).toNat
      let scope := (modsOf o.m).c.toNat % 8
      ok i ea n scope true true → served .atomic →
      let run := (c.guarded i).foldl (fun (r : Mem × List (Nat × Nat)) l =>
        let old := r.1.readNat (at_ (ea l)) n
        ((match f (c.thread l) old with
          | some x => r.1.writeNat (at_ (ea l)) n x
          | none => r.1), r.2 ++ [(l, old)])) (s.memOf place, [])
      (2 ≤ scope → ∃ t, exec i s = .next t ∧ t.memOf place = run.1 ∧ SameElsewhere s t place
        ∧ ∀ lane th, s.thread? c.blk c.grp lane = some th → t.thread? c.blk c.grp lane = some (
            match run.2.find? fun x => x.1 == lane with
            | some x => (g th x.2).pass (Instr.len i)
            | none => if c.issue.lanes.getLsbD lane then th.advance (Instr.len i) else th))
      ∧ (scope < 2 → ∀ l, c.guarded i = [l] → ∃ t ln, exec i s = .next t ∧ SameMem s t
        ∧ (t.core c.b.core).line? ⟨c.l.ctx, line⟩ = some ln
        ∧ (∀ x, f (c.thread l) ((s.memOf place).readNat (at_ (ea l)) n) = some x →
            ∀ k < n, ln.byte (ea l % 128 + k) = (bytesLE n x).getD k 0 ∧ ln.dirty.getLsbD (ea l % 128 + k) = true)
        ∧ ∀ lane th, s.thread? c.blk c.grp lane = some th → t.thread? c.blk c.grp lane = some (
            if lane = l then (g th ((s.memOf place).readNat (at_ (ea l)) n)).pass (Instr.len i)
            else if c.issue.lanes.getLsbD lane then th.advance (Instr.len i) else th))
    (∀ o : OpR,
      let op := (modsOf o.m).c.toNat / 16
      let b (n : Nat) (t : Thread) : Nat := if n = 8 then (pairB c.g t o.bk o.b).toNat else (operandB c.g t o.bk o.b).toNat
      let put (n : Nat) (t : Thread) (x : Nat) : Thread := if n = 8 then t.setPair o.d.toNat (BitVec.ofNat 64 x) else t.setV o.d.toNat (BitVec.ofNat 32 x)
      let cmp (n : Nat) (t : Thread) : Nat := if n = 8 then (t.vPair o.d.toNat).toNat else (t.vr o.d.toNat).toNat
      let pd := (modsOf o.m).c.toNat / 16 % 8
      rmw (.atomB32 o) o 4 (fun t x => some (atomOp op 32 x (b 4 t))) (put 4)
      ∧ rmw (.atomB64 o) o 8 (fun t x => some (atomOp op 64 x (b 8 t))) (put 8)
      ∧ rmw (.casB32 o) o 4 (fun t x => if x = cmp 4 t then some (b 4 t) else none) (fun t x => (put 4 t x).setP pd (x == cmp 4 t))
      ∧ rmw (.casB64 o) o 8 (fun t x => if x = cmp 8 t then some (b 8 t) else none) (fun t x => (put 8 t x).setP pd (x == cmp 8 t)))
    ∧ ∀ o : OpI,
      let scope := (modsOf o.m).c.toNat % 8
      let ea (n l : Nat) : Nat := normEa s.dev (baseReg c.g (c.thread l) (modsOf o.m).c o.a + o.imm.signExtend 64 * BitVec.ofNat 64 n).toNat
      let acq (i : Instr) (n : Nat) : Prop := ok i (ea n) n scope false false → served .rd → c.guarded i ≠ [] →
        ∃ t, exec i s = .next t ∧ SameMem s t ∧ (2 ≤ scope → (t.core c.b.core).lines = [])
          ∧ ∀ lane th, s.thread? c.blk c.grp lane = some th → t.thread? c.blk c.grp lane = some (
              let x := (s.memOf place).readNat (at_ (ea n lane)) n
              if lane ∈ c.guarded i then
                (if n = 8 then th.setPair o.d.toNat (BitVec.ofNat 64 x) else th.setV o.d.toNat (BitVec.ofNat 32 x)).advance (Instr.len i)
              else if c.issue.lanes.getLsbD lane then th.advance (Instr.len i) else th)
      let rel (i : Instr) (n : Nat) : Prop := ok i (ea n) n scope false true → served .wr →
        let passed (t : State) : Prop := ∀ lane th, s.thread? c.blk c.grp lane = some th → t.thread? c.blk c.grp lane = some (
          if lane ∈ c.guarded i then th.pass (Instr.len i) else if c.issue.lanes.getLsbD lane then th.advance (Instr.len i) else th)
        let pairs := (c.guarded i).flatMap fun l => (s.bytesAt c l (ea n l) n).zip ((c.thread l).stored o.d.toNat n)
        let sent (l : Nat) : Sent :=
          { key := ⟨c.l.ctx, line⟩, part := c.l.part, place := place, epoch := (s.core c.b.core).epoch + 1, since := s.gtime
            bytes := ((s.bytesAt c l (ea n l) n).zip ((c.thread l).stored o.d.toNat n)).map fun x => (x.1 % 128, x.2) }
        (2 ≤ scope → ∃ t, exec i s = .next t ∧ SameMem s t ∧ passed t ∧ (t.core c.b.core).sent = (c.guarded i).map sent)
        ∧ (scope < 2 → ∃ t, exec i s = .next t ∧ SameMem s t ∧ passed t ∧ ∀ x ∈ pairs, ∃ ln,
            (t.core c.b.core).line? ⟨c.l.ctx, line⟩ = some ln ∧ ln.dirty.getLsbD (x.1 % 128) = true ∧ some (ln.byte (x.1 % 128)) = lastWrite pairs x.1)
      acq (.ldacqB32 o) 4 ∧ acq (.ldacqB64 o) 8 ∧ rel (.strelB32 o) 4 ∧ rel (.strelB64 o) 8

/-- R208, R215-R217, R231, R248, R249, R254, R402: a fence, DRAINST, PREF and CCTL complete and move their set on. A release sends every dirty
byte of the context in the L1, which with `.sc` is performed at its home, as with `.pod` a byte of another device is and with `.host` a byte of
space 0x1; an acquire empties the L1 of the context; a release at .quad or wider in a
monitored attempt traps; `.wb` and `.inv` perform the dirty bytes of their ranges or of the whole L1, `.rodrop` ends the launch's replicas, `.ii`
drops code; a prefetch changes no register. -/
def Obligations.FencesAndCacheControlsOrderTheL1 : Prop :=
  ∀ (s : State) (c : Sel) (o : OpR),
    let before := s.core c.b.core
    let settled (i : Instr) : Prop := Issues s c i ∧ NoLoads c i ∧ before.stores = [] ∧ before.buffers = [] ∧ s.images = []
      ∧ before.sent = [] ∧ s.errors = []
    let clean (t : State) (p : LineKey → Bool) : Prop := ∀ ln ∈ (t.core c.b.core).lines, p ln.key = true → ln.dirty = 0
    let own (k : LineKey) : Bool := k.ctx == c.l.ctx
    let one (k : LineKey) : Prop := before.lines = [] ∨ ∃ ln, before.lines = [ln] ∧ ln.key = k
    -- every dirty byte of the one line that the L1 holds is at its home
    let performed (t : State) : Prop := ∀ ln, before.lines = [ln] →
      t.memOf ln.place = (List.range 128).foldl (fun m i => if ln.dirty.getLsbD i then m.write (ln.place.at_ + i) (ln.byte i) else m) (s.memOf ln.place)
      ∧ SameElsewhere s t ln.place
    -- or on its way there
    let under (t : State) : Prop := ∀ ln, before.lines = [ln] → SameMem s t ∧ (ln.dirty ≠ 0 → ∃ x ∈ (t.core c.b.core).sent, x.key = ln.key
      ∧ x.place = ln.place ∧ x.bytes = (List.range 128).filterMap fun i => if ln.dirty.getLsbD i then some (i, ln.byte i) else none)
    let fence (i : Instr) (rel acq sc : Bool) : Prop := settled i → c.guarded i ≠ [] → (∀ l ∈ c.lanes, (c.thread l).codeRanges = []) →
      let wide := 2 ≤ o.d.toNat % 8
      let there (k : LineKey) : Prop := sc = true
        ∨ (rel = true ∧ (o.d.toNat % 8 = 5 ∧ isRemote s.dev (128 * k.line) = true ∨ o.d.toNat % 8 = 6 ∧ eaSpace (128 * k.line) = 1))
      (rel = true ∧ wide → c.b.monitored = false) →
      ∃ t, exec i s = .next t ∧ Moves i s t c
        ∧ (¬wide → SameMem s t ∧ (t.core c.b.core).lines = before.lines)
        ∧ (wide → (rel = true → clean t own) ∧ (acq = true → ∀ ln ∈ (t.core c.b.core).lines, own ln.key = false)
            ∧ ∀ k, own k = true → one k → (there k → performed t) ∧ (¬there k → under t))
    (fence (.fenceAr o) true true false ∧ fence (.fenceAcq o) false true false ∧ fence (.fenceRel o) true false false
      ∧ fence (.fenceSc o) true true true)
    ∧ (∀ i ∈ [Instr.fenceAr o, .fenceRel o, .fenceSc o], Issues s c i → c.b.monitored = true → 2 ≤ o.d.toNat % 8 → TrapReady s c (c.guarded i) →
        c.guarded i ≠ [] → TrapsEnd i s c (c.guarded i) ⟨0x0C, 0, 1⟩ c.issue.pc true)
    ∧ (∀ z : OpZ, Issues s c (.drainst z) →
        (∀ l ∈ c.guarded (.drainst z), before.unchecked c.blk c.grp l = false) → LanesEnd (.drainst z) s c fun _ t => t)
    ∧ (∀ p : OpI, Plain s c → Issues s c (.pref p) → ∃ t, exec (.pref p) s = .next t ∧ Moves (.pref p) s t c ∧ (t.core c.b.core).lines = before.lines
        ∧ (s.errors = [] → (∀ e ∈ s.entries, e.st ≠ .rejected) → (p.d = 1 → SameMem s t ∧ t.cores = s.cores ∧ t.replicas = s.replicas) ∧ (p.d = 0 → OnlyCore s t c.b.core)))
    ∧ (let range (l : Nat) : Except Fail (List (Nat × Nat)) :=
        s.cctlRange c l ((c.thread l).vPair o.a.toNat) (operandB c.g (c.thread l) o.bk o.b).toNat
       let inRange (i : Instr) (n : Nat) : Bool := (c.guarded i).any fun l => match range l with
         | .ok rs => rs.any fun r => decide (r.1 ≤ n ∧ n ≤ r.2)
         | .error _ => false
       let sound (i : Instr) : Prop := settled i ∧ ∀ l ∈ c.guarded i, ∃ rs, range l = .ok rs
       let mine (i : Instr) (k : LineKey) : Bool := own k && inRange i k.line
       (sound (.cctlWb o) → ∃ t, exec (.cctlWb o) s = .next t ∧ Moves (.cctlWb o) s t c ∧ clean t (mine (.cctlWb o))
          ∧ ∀ k, mine (.cctlWb o) k = true → one k → performed t)
       ∧ (sound (.cctlInv o) → ∃ t, exec (.cctlInv o) s = .next t ∧ Moves (.cctlInv o) s t c
          ∧ (∀ ln ∈ (t.core c.b.core).lines, mine (.cctlInv o) ln.key = false) ∧ ∀ k, mine (.cctlInv o) k = true → one k → performed t)
       ∧ (sound (.cctlIi o) → ∃ t, exec (.cctlIi o) s = .next t ∧ clean t (mine (.cctlIi o))
          ∧ (∀ x ∈ (t.core c.b.core).icache, mine (.cctlIi o) x.key = false)
          ∧ ∀ lane th, s.thread? c.blk c.grp lane = some th → ∃ th', t.thread? c.blk c.grp lane = some th' ∧ th'.v = th.v ∧ th'.p = th.p
            ∧ th'.pc = (if c.issue.lanes.getLsbD lane then th.pc + BitVec.ofNat 64 (Instr.len (.cctlIi o)) else th.pc))
       ∧ (sound (.cctlRodrop o) → ∃ t, exec (.cctlRodrop o) s = .next t ∧ Moves (.cctlRodrop o) s t c ∧ SameMem s t
          ∧ ∀ r, r ∈ t.replicas ↔ r ∈ s.replicas ∧ ¬(r.launch = c.l.id ∧ mine (.cctlRodrop o) r.key = true)))
    ∧ (settled (.cctlWbAll o) → c.guarded (.cctlWbAll o) ≠ [] → ∃ t, exec (.cctlWbAll o) s = .next t ∧ Moves (.cctlWbAll o) s t c
        ∧ clean t (fun _ => true) ∧ performed t)
    ∧ (settled (.cctlInvAll o) → c.guarded (.cctlInvAll o) ≠ [] → ∃ t, exec (.cctlInvAll o) s = .next t ∧ Moves (.cctlInvAll o) s t c
        ∧ (t.core c.b.core).lines = [] ∧ performed t)

/-- R289-R291, R303, R304, R312, R445: arming and waiting at a sync word, waiting at a completion object. SYNCARM replaces TARGET, clears the flags
and EHANDLE, and advances the generation by the whole targets counted; a wait ends once its generation or count is reached, with the word's flags
in the register and an acquire at .pkg, or in the handler with the record of the operation that failed. -/
def Obligations.SyncWordsAndCompletionObjectsReleaseTheirWaiters : Prop :=
  (∀ (s : State) (c : Sel) (o : OpR),
    let off := (c.g.sr o.a.toNat).toNat
    (Issues s c (.syncarm o) → NoLoads c (.syncarm o) → c.guarded (.syncarm o) ≠ [] → c.b.monitored = false → c.l.lr.det = false →
      c.b.tile.wf = true → off % 16 = 0 → off + 16 ≤ c.l.lr.tiles →
      let w := c.b.tileNat off 16
      let target := (operandB c.g (c.thread ((c.guarded (.syncarm o)).headD 0)) o.bk o.b).toNat
      let count := w / 2 ^ 32 % 2 ^ 32
      let gen := w / 2 ^ 64 % 2 ^ 16
      let w' := target + (if target = 0 then count else count % target) * 2 ^ 32
        + (if target = 0 then gen else (gen + count / target) % 2 ^ 16) * 2 ^ 64 + w / 2 ^ 83 % 2 ^ 13 * 2 ^ 83
      ∃ t b, exec (.syncarm o) s = .next t ∧ OnlyBlocks s t ∧ t.block? c.blk = some b
        ∧ (c.b.shadow = [] → b.tileNat off 16 = w') ∧ (∀ a, ¬(off ≤ a ∧ a < off + 16) → b.tile.read a = c.b.tile.read a)
        ∧ ∀ lane th, s.thread? c.blk c.grp lane = some th → t.thread? c.blk c.grp lane = some (
            if lane ∈ c.guarded (.syncarm o) then th.pass (Instr.len (.syncarm o))
            else if c.issue.lanes.getLsbD lane then th.advance (Instr.len (.syncarm o)) else th))
    ∧ (Issues s c (.syncwait o) → off % 16 = 0 → off + 16 ≤ c.l.lr.tiles → JumpEnds (.syncwait o) s c fun _ t =>
        { t with st := .waiting (.sync o.d.toNat off ((operandB c.g t o.bk o.b).setWidth 16) (Instr.len (.syncwait o))) })
    ∧ (Issues s c (.await o) →
        let ea (t : Thread) : Nat := normEa s.dev (t.vPair o.a.toNat).toNat
        (∀ l ∈ c.guarded (.await o), spaceFault s.podSize (ea (c.thread l)) = none ∧ eaSpace (ea (c.thread l)) = 0 ∧ ea (c.thread l) % 16 = 0) →
        JumpEnds (.await o) s c fun _ t =>
          { t with st := .waiting (.await o.d.toNat (BitVec.ofNat 64 (ea t)) (operandB c.g t o.bk o.b) (Instr.len (.await o))) }))
  ∧ ∀ (s : State) (b : Block) (l : Launch) (th : Thread) (grp lane : Nat), s.subject = .lane b.id grp lane → s.block? b.id = some b →
      s.thread? b.id grp lane = some th → s.launch? b.launch = some l → b.st = .resident → th.horizon = none →
      let ended (i : Instr) (vd len : Nat) (x : Word) : Prop := ∃ t, exec i s = .next t
        ∧ t.thread? b.id grp lane = some { (th.setV vd x) with st := .runnable, pc := th.pc + BitVec.ofNat 64 len }
        ∧ ∀ ln ∈ (t.core b.core).lines, ln.key.ctx ≠ l.ctx
      let trapped (i : Instr) (len handle : Nat) : Prop := ∀ r, assoc b.records handle = some r → l.lr.handler ≠ 0 → th.trap = none → 64 ≤ handle →
        ∃ t, exec i s = .next t ∧ t.nextSeq = s.nextSeq ∧ t.thread? b.id grp lane = some { th with
          st := .runnable, trap := some { resume := th.pc + BitVec.ofNat 64 len, region := th.region, record := r }, last := some r,
          pc := l.lr.handler, region := l.lr.handler, armRecord := none }
      (∀ vd off gen len, th.st = .waiting (.sync vd off gen len) →
        let w := b.tileNat off 16
        let reached : Prop := (BitVec.ofNat 16 (w / 2 ^ 64) - gen).toNat < 2 ^ 15
        (reached → w.testBit 80 = false → ended .syncwaitComplete vd len (BitVec.ofNat 32 (w / 2 ^ 64 % 2 ^ 19)))
        ∧ (reached → w.testBit 80 = true → trapped .syncwaitComplete len (w / 2 ^ 96 % 2 ^ 32))
        ∧ (¬reached → exec .syncwaitComplete s = .next s.idle))
      ∧ ∀ vd (a : Dword) g len (place : Place) key lease pr pw, th.st = .waiting (.await vd a g len) → s.images = [] → s.errors = [] →
          s.throttled l.part bHBM = false → s.throttled l.part bFABRIC = false → s.armRecords = [] →
          s.answer (reqOf l b.core) .rd (a.toNat / 128 * 128) 128 = .served place key lease pr pw →
          let w := (s.memOf place).readNat (place.at_ + a.toNat % 128) 16
          let reached : Prop := (BitVec.ofNat 32 w - g).toNat < 2 ^ 31
          (reached → w.testBit 64 = false → ended .awaitComplete vd len (BitVec.ofNat 32 w))
          ∧ (reached → w.testBit 64 = true → trapped .awaitComplete len (w / 2 ^ 96 % 2 ^ 32))
          ∧ (¬reached → exec .awaitComplete s = .next s.idle)

/-! ## Pages (spec 07, 08) -/

/-- R31, R244, R259, R261, R262, R264-R266, R282-R285: PGREQ asks for each page of a thread's range that is not there, PGHINT tells the pager of
a range, and the pager's events: a change ends with CHANGE-DONE, a move carries the frame's bytes and its entry, which the table's bytes in HBM
follow, SETTLED ends, each interval logs 16 candidate lists, and an uncorrectable error marks the page FAILED. -/
def Obligations.PagesAreRequestedMovedAndChanged : Prop :=
  (∀ (s : State) (c : Sel) (o : OpR) (lane ea n : Nat),
    ea = normEa s.dev ((c.thread lane).vPair o.a.toNat).toNat → n = min (operandB c.g (c.thread lane) o.bk o.b).toNat 0x01000000 →
    spaceFault s.podSize ea = none → eaOff ea + n ≤ 2 ^ 48 → isRemote s.dev ea = false →
    (∀ e, Issues s c (.pgreq o) → c.guarded (.pgreq o) = [lane] → eaSpace ea ≤ 1 → (ea + (n - 1)) / 2 ^ 16 = ea / 2 ^ 16 →
      s.walk c.l.ctx (ea / 2 ^ 16 * 2 ^ 16) = some e → s.entry? e.key = some e → (e.pr || e.pw) = true →
      (e.st = .absent → ∃ t e', exec (.pgreq o) s = .next t ∧ Moves (.pgreq o) s t c ∧ t.nextSeq = s.nextSeq + 1
        ∧ t.entry? e.key = some e' ∧ e' = { e with st := .filling })
      ∧ (e.st = .host → e.settled = false → ∃ t, exec (.pgreq o) s = .next t ∧ Moves (.pgreq o) s t c ∧ t.nextSeq = s.nextSeq + 1 ∧ t.entries = s.entries)
      ∧ (e.st = .resident ∨ e.st = .filling ∨ (e.st = .host ∧ e.settled = true) → LanesEnd (.pgreq o) s c fun _ t => t))
    ∧ (Issues s c (.pghint o) → c.guarded (.pghint o) = [lane] → eaSpace ea ≠ 2 →
      (eaSpace ea = 3 → LanesEnd (.pghint o) s c fun _ t => t)
      ∧ (eaSpace ea ≠ 3 → (∀ r, s.logRing = some r → r.used < r.size ∧ r.hints.length < 256) →
          ∃ t, exec (.pghint o) s = .next t ∧ OnlyLog s t ∧ Moves (.pghint o) s t c ∧ t.nextSeq = s.nextSeq + 1)
      ∧ (eaSpace ea ≠ 3 → (∃ r, s.logRing = some r ∧ (r.size ≤ r.used ∨ 256 ≤ r.hints.length)) →
          ∃ t, exec (.pghint o) s = .next t ∧ t = { s with blocks := t.blocks, hintsDropped := (s.hintsDropped + 1) % 2 ^ 64 }
            ∧ Moves (.pghint o) s t c)))
  ∧ (∀ (s : State) (e : Entry), s.subject = .entry e.key → s.entry? e.key = some e →
      (∀ w, e.changeAt = some w → w ≤ s.gtime → s.oldUses e = false → (s.entries.map Entry.key).Nodup →
          ∃ t, exec .translationChangeComplete s = .next t ∧ OnlyLog { s with entries := t.entries } t
        ∧ t.nextSeq = s.nextSeq + 1 ∧ (e.st ≠ .unmapped → t.entry? e.key = some { e with changeAt := none }) ∧ (e.st = .unmapped → t.entry? e.key = none))
      ∧ (∀ fdie addr, e.move = some (.frame fdie addr) → e.st = .moving → e.changeAt = none → s.hbm.wf = true → s.images = [] → s.errors = [] →
          (∀ k ∈ s.cores, ∀ x ∈ k.stores, x.queued = false) → frameOk e.key fdie addr = true →
          ∃ t e', exec .pageMoveComplete s = .next t ∧ t.entry? e.key = some e' ∧ e'.st = .resident ∧ e'.fdie = fdie ∧ e'.addr = addr ∧ e'.move = none
            ∧ s.nextSeq + 1 ≤ t.nextSeq
            ∧ ∃ m, LogMem { s with hbm := m } t
              ∧ (∀ x < keySize e.key, ¬EntryBytes s e.key (fdie * 2 ^ 40 + addr + x) →
                  m.read (fdie * 2 ^ 40 + addr + x) = s.hbm.read (e.fdie * 2 ^ 40 + e.addr + x))
              ∧ (∀ a, ¬EntryBytes s e.key a → ¬(fdie * 2 ^ 40 + addr ≤ a ∧ a < fdie * 2 ^ 40 + addr + keySize e.key) → m.read a = s.hbm.read a)
              ∧ ∀ p, s.entryPlace e.key = some p → let x := m.readNat p 8
                  x / 2 ^ 60 % 8 = 1 ∧ x / 2 ^ 44 % 4 = fdie ∧ x / 2 ^ 8 % 2 ^ 32 = addr / 2 ^ 8)
      ∧ (e.settled = true → e.settledUntil ≤ s.gtime → ∃ t, exec .settledExpiry s = .next t
          ∧ t.entry? e.key = some { e with settled := false, moves := [] } ∧ EntryMem s t e.key)
      ∧ (e.st ∈ [PageState.absent, .resident, .host, .filling, .moving, .failed] → ∃ t, exec .scrubUncorrectable s = .next t
          ∧ EntryMem s t e.key ∧ t.blocks = s.blocks ∧ t.cores = s.cores ∧ t.nextSeq = s.nextSeq + 1
          ∧ t.entry? e.key = some { e with st := .failed, move := none }))
  ∧ ∀ s : State, s.subject = .none → s.nextHot ≤ s.gtime → ∃ t, exec .hotInterval s = .next t ∧ t.nextSeq = s.nextSeq + 16
      ∧ t.sketches = [] ∧ t.hotLists.length = 16 ∧ t.nextHot = s.nextHot + 100000 ∧ t.blocks = s.blocks

/-! ## Engines (spec 09) -/

/-- R292, R293, R295, R296, R305-R308, R310, R311: an engine instruction whose descriptor passes its checks, with a slot free and the budget not used
up, issues one operation for its set: the slot's next handle in sD, the operation among those of the core with all its work ahead of it, and the
guard-true lanes behind the instruction with their region entry. Only an operation that has no work and signals at a sync word leaves nothing. -/
def Obligations.EngineInstructionsIssueOneOperation : Prop :=
  ∀ (s : State) (c : Sel) (o : OpR) (slot : Nat), c.b.monitored = false → c.l.lr.own = false → (s.core c.b.core).stores = [] →
    (s.core c.b.core).buffers = [] → s.throttled c.l.part bENGINE = false → (s.core c.b.core).freeSlot = some slot →
    let a := o.a.toNat
    let pair (n : Nat) : Nat := normEa s.dev (c.g.sPair n).toNat
    let src := pair a
    let dst := pair (a + 2)
    let len := (c.g.sr (a + 4)).toNat
    let param := (c.g.sr (a + 5)).toNat
    let done := pair (a + 6)
    let tile (ea n : Nat) : Prop := isTile ea = true → n ≠ 0 → eaOff ea + n ≤ c.l.lr.tiles
    let memory (ea : Nat) : Bool := isGlobal ea || isHostSpace ea
    let old := (s.core c.b.core).serial
    let serial := if old + 1 < 2 ^ 26 then old + 1 else 1
    let h := serial * 64 + slot
    let off := (c.g.sr o.b.toNat).toNat
    let issues (i : Instr) (units total : Nat) (kind : EngKind → Prop) : Prop := Issues s c i → NoLoads c i → c.guarded i ≠ [] →
      (isTile done || isLocal s.dev done) = true → done % 16 = 0 → tile done 16 →
      ∃ t g, exec i s = .next t ∧ t.group? c.blk c.grp = some g ∧ g.s = c.g.s.set o.d.toNat (BitVec.ofNat 32 h) ∧ (t.core c.b.core).serial = serial
        ∧ (∀ lane th, s.thread? c.blk c.grp lane = some th → t.thread? c.blk c.grp lane = some (
            if lane ∈ c.guarded i then th.pass (Instr.len i) else if c.issue.lanes.getLsbD lane then th.advance (Instr.len i) else th))
        ∧ (if units = 0 ∧ isTile done = true then (t.core c.b.core).ops = (s.core c.b.core).ops
           else ∃ op, (t.core c.b.core).ops = (s.core c.b.core).ops ++ [op] ∧ op.handle = h ∧ kind op.kind ∧ op.blk = c.blk ∧ op.grp = c.grp
             ∧ some op.lane = (c.guarded i).head? ∧ op.pc = c.issue.pc ∧ op.ctx = c.l.ctx ∧ op.src = BitVec.ofNat 64 src ∧ op.dst = BitVec.ofNat 64 dst
             ∧ op.len = len ∧ op.done = BitVec.ofNat 64 done ∧ op.remaining.length = units ∧ op.total = total ∧ op.err = false ∧ op.canc = false
             ∧ op.counted = 0 ∧ (op.finished = true ↔ units = 0))
    (copySpaces src dst = true → param = 0 → src % 16 = 0 → dst % 16 = 0 → len % 16 = 0 → tile src len → tile dst len →
      issues (.acopy o) (len / 16) len fun k => k = .copy)
    ∧ (∀ elem n, elem = elemAt c.b.rung ((modsOf o.m).c.extractLsb' 4 4) → (elemFmt elem).isSome = true →
        n = 32 * (if (modsOf o.m).c.getLsbD 3 then 2 else 4) → (memory src || isTile src) = true → isTile dst = true → param = 0 →
        src % 16 = 0 → dst % 16 = 0 → len % n = 0 → tile src len → tile dst (len / n * quantBytes elem.toNat) →
        tile (0x3FFF * 2 ^ 48 + off) (len / n) →
        issues (.acopyQuant o) (len / n) (len / n * (quantBytes elem.toNat + 1)) fun k => ∃ m, k = .quant elem.toNat ((modsOf o.m).c.getLsbD 3) m off)
    ∧ (memory src = true → isTile dst = true → param % 4 = 0 → 4 ≤ param → param ≤ 4096 → src % 4 = 0 → dst % 16 = 0 → off % 4 = 0 →
        tile dst (len * param) → tile (0x3FFF * 2 ^ 48 + off) (4 * len) → issues (.agath o) (len * (param / 4)) (len * param) fun k => k = .gather param off)
    ∧ (memory dst = true → isTile src = true → param % 4 = 0 → 4 ≤ param → param ≤ 4096 → dst % 4 = 0 → src % 16 = 0 → off % 4 = 0 →
        tile src (len * param) → tile (0x3FFF * 2 ^ 48 + off) (4 * len) → issues (.ascat o) (len * (param / 4)) (len * param) fun k => k = .scatter param off)
    ∧ ((isLocal s.dev src || isHostSpace src || isTile src) = true → (isLocal s.dev dst || isTile dst) = true → param = 0 → dst % 16 = 0 →
        tile src len → tile dst 64 → issues (.adigest o) 1 64 fun k => k = .digest)
    ∧ (let cf := (modsOf o.m).c.toNat
       let kind := cf / 8 % 4
       ∀ k r, s.comm? c.l.part (param % 2 ^ 16) = some k → k.rank? s.dev c.l.id c.b.blkidx = some r → k.scope.toNat = cf % 8 →
        collType (param / 2 ^ 16 % 16) = true → (if kind = 3 then param / 2 ^ 20 < k.members.length else param / 2 ^ 20 = 0) →
        (cf / 32 = 0 ∨ (kind ≠ 1 ∧ kind ≠ 3)) → c.l.lr.det = false → (cf % 8 = 3 ∨ cf % 8 = 4 → c.l.lr.coop = true) →
        (isLocal s.dev src || isTile src) = true → isLocal s.dev dst = true → isLocal s.dev done = true → len % 16 = 0 →
        (kind = 2 → len % (16 * k.members.length) = 0) → tile src len →
        issues (.acoll o) 1 0 fun x => x = .coll kind (cf / 32) (param / 2 ^ 16 % 16) (param % 2 ^ 16) (param / 2 ^ 20))

/-- R236-R238, R290, R294, R297, R305, R310, R311, R313, R470: the engine's work. A unit of a copy moves 16 bytes, that of a digest writes SHAKE256 of its
source, and each counts its bytes at the sync word; a line of a source in memory is read as one event before a unit uses it; a finished operation
adds one to its completion object and leaves the core; a round of a communicator with one member gives it back its own bytes; a .net round makes its
members' operations fail when its time is over, not before; ACANCEL of an operation with no unit performed takes it away and says so, and of a handle
that names none says false. -/
def Obligations.EngineOperationsDoTheirUnitsAndComplete : Prop :=
  (∀ (s : State) (b : Block) (l : Launch) (e : EngOp) (u : Nat), s.subject = .op b.core e.handle → (s.core b.core).ops = [e] → e.blk = b.id →
    s.block? b.id = some b → s.launch? e.launch = some l → l.lr.det = false → b.monitored = false → b.shadow = [] → b.tile.wf = true →
    e.finished = false → e.silent = false → e.err = false → e.canc = false → e.remaining = [u] → e.snapshot = none →
    isTile e.src.toNat = true → isTile e.dst.toNat = true → isTile e.done.toNat = true → eaOff e.done.toNat % 16 = 0 →
    let word := eaOff e.done.toNat
    let moves (to_ : Nat) (bs : List Byte) : Prop := (word + 16 ≤ to_ ∨ to_ + bs.length ≤ word) → ∃ t b', exec .syncWordArrival s = .next t
      ∧ t.block? b.id = some b' ∧ (t.core b.core).ops = [] ∧ SameMem s t
      ∧ (∀ i < bs.length, b'.tile.read (to_ + i) = bs.getD i 0)
      ∧ b'.tileNat word 16 = syncArrive bs.length false false 0 (b.tileNat word 16)
      ∧ ∀ a, ¬(to_ ≤ a ∧ a < to_ + bs.length) → ¬(word ≤ a ∧ a < word + 16) → b'.tile.read a = b.tile.read a
    (e.kind = .copy → eaOff e.src.toNat + 16 * u + 16 ≤ 2 ^ 48 → eaOff e.dst.toNat + 16 * u + 16 ≤ 2 ^ 48 →
      moves (eaOff e.dst.toNat + 16 * u) (b.tileBytes (eaOff e.src.toNat + 16 * u) 16))
    ∧ (e.kind = .digest → moves (eaOff e.dst.toNat) (shake256 (b.tileBytes (eaOff e.src.toNat) e.len))))
  ∧ (∀ (s : State) (b : Block) (l : Launch) (e : EngOp) (u : Nat) (place : Place) (key : EntryKey) (lease : Nat) (pr pw : Bool),
    s.subject = .op b.core e.handle → (s.core b.core).ops = [e] → e.blk = b.id → s.block? b.id = some b → s.launch? e.launch = some l →
    b.monitored = false → e.finished = false → e.kind = .copy → e.remaining = [u] → e.buf = [] → e.lost = [] →
    (s.core b.core).lines = [] → (s.core b.core).sent = [] → s.images = [] → s.errors = [] → s.throttled l.part bHBM = false →
    s.throttled l.part bFABRIC = false → let ea := e.src.toNat + 16 * u
    isLocal s.dev ea = true → ea < 2 ^ 64 → ea % 16 = 0 → spaceFault s.podSize ea = none →
    s.answer (e.req l b.core) .rd (128 * (ea / 128)) 128 = .served place key lease pr pw →
    ∃ t op, exec .syncWordArrival s = .next t ∧ SameMem s t ∧ t.blocks = s.blocks ∧ (t.core b.core).ops = [op]
      ∧ op = { e with buf := [(ea / 128, (List.range 128).map fun i => some ((s.memOf place).read (place.at_ + i)))] })
  ∧ (∀ (s : State) (core : Nat) (e : EngOp) (l : Launch) (place : Place) (key : EntryKey) (lease : Nat) (pr pw : Bool), s.subject = .op core e.handle →
    (s.core core).ops = [e] → e.finished = true → isTile e.done.toNat = false → eaSpace e.done.toNat = 0 → e.done.toNat % 16 = 0 → e.err = false → e.canc = false → e.fail = none →
    s.launch? e.launch = some l → l.lr.det = false → (s.core core).lines = [] → (s.core core).sent = [] → s.images = [] → s.errors = [] →
    s.answer (e.req l core) .wr (e.done.toNat / 128 * 128) 128 = .served place key lease pr pw →
    let ea := place.at_ + e.done.toNat % 128
    let x := (s.memOf place).readNat ea 16
    ∃ t, exec .engineCompletionUpdate s = .next t ∧ (t.core core).ops = [] ∧ SameElsewhere s t place
      ∧ t.memOf place = (s.memOf place).writeNat ea 16 (x / 2 ^ 64 * 2 ^ 64 + (x + 1) % 2 ^ 64))
  ∧ (∀ (s : State) (x : Contribution) (k : Comm) (b : Block) (l : Launch) (place : Place) (key : EntryKey) (lease : Nat) (pr pw : Bool),
    s.subject = .round x.part x.comm x.round [] → s.comm? x.part x.comm = some k → k.members.length = 1 → s.contributions = [x] → x.rank = 0 →
    (k.scope = 7 → s.gtime < x.since + 1000000 * k.timeoutMs → exec .netAckTimeout s = .next s.idle)
    ∧ (k.scope = 7 → x.since + 1000000 * k.timeoutMs ≤ s.gtime → ∃ t op, exec .netAckTimeout s = .next t ∧ t.contributions = [] ∧ op ∈ (t.core x.core).ops ∧ op.handle = x.eng.handle ∧ op.err = true)
    ∧ (x.kind = 1 → x.eng.err = false → (∀ m ∈ k.members, m.dev = s.dev) → s.errors = [] → s.block? x.eng.blk = some b → s.launch? x.eng.launch = some l → l.lr.det = false → s.images = [] →
      (s.core b.core).lines = [] → (s.core b.core).sent = [] → s.throttled l.part bHBM = false → s.throttled l.part bFABRIC = false → ∀ bs : List Byte,
      x.data = bs.map some → 0 < bs.length → x.eng.dst.toNat % 128 + bs.length ≤ 128 → isLocal s.dev x.eng.dst.toNat = true → spaceFault s.podSize x.eng.dst.toNat = none →
      s.answer (x.eng.req l b.core) .wr (x.eng.dst.toNat / 128 * 128) 128 = .served place key lease pr pw →
      ∃ t op, exec .collectiveRound s = .next t ∧ t.contributions = [] ∧ op ∈ (t.core x.core).ops ∧ op.handle = x.eng.handle ∧ op.err = false
        ∧ SameElsewhere s t place
        ∧ t.memOf place = bs.zipIdx.foldl (fun m y => m.write (place.at_ + x.eng.dst.toNat % 128 + y.2) y.1) (s.memOf place)))
  ∧ ∀ (s : State) (c : Sel) (o : OpR), Issues s c (.acancel o) → NoLoads c (.acancel o) → c.guarded (.acancel o) ≠ [] →
    let h := (operandB c.g (c.thread ((c.guarded (.acancel o)).headD 0)) o.bk o.b).toNat
    let said (t : State) (x : Bool) : Prop := ∀ lane th, s.thread? c.blk c.grp lane = some th → t.thread? c.blk c.grp lane = some (
      if lane ∈ c.guarded (.acancel o) then (th.setP (o.d.toNat % 8) x).pass (Instr.len (.acancel o))
      else if c.issue.lanes.getLsbD lane then th.advance (Instr.len (.acancel o)) else th)
    ((∀ e ∈ (s.core c.b.core).ops, e.handle ≠ h) → ∃ t, exec (.acancel o) s = .next t ∧ OnlyGroup s t c.blk c.grp ∧ said t false)
    ∧ ∀ e, (s.core c.b.core).ops = [e] → e.handle = h → e.blk = c.blk → e.finished = false → e.silent = false → e.remaining = List.range e.unitCount → e.trav = none →
        isTile e.done.toNat = true → s.launch? e.launch = some c.l → c.b.onCore = true → c.b.monitored = false → c.l.lr.det = false →
        ∃ t, exec (.acancel o) s = .next t ∧ said t true ∧ (t.core c.b.core).ops = []

/-! ## The ladder and the traverse unit (spec 11, 12) -/

/-- R346, R350-R352, R360-R364: MONSET tightens a threshold and trips the attempt where its count has reached it; TRXCHK reads the attempt; TRXESC
dooms it; outside LADDER all three trap. A doomed attempt is queued again at its next rung with nothing of it left but its weight and its ticket,
and where every holder of a core's pool is stalled the last one dispatched runs again, at its rung, or at CEIL where it holds the pool alone. -/
def Obligations.LadderInstructionsMonitorAndAbortAnAttempt : Prop :=
  (∀ (s : State) (c : Sel) (o : OpR) (z : OpZ),
    (∀ i ∈ [Instr.monset o, .trxchk o, .trxesc z], Issues s c i → c.l.lr.ladder = false → c.guarded i ≠ [] → TrapReady s c (c.guarded i) →
      TrapsEnd i s c (c.guarded i) ⟨0x12, 0, 3⟩ c.issue.pc true)
    ∧ (Issues s c (.monset o) → c.l.lr.ladder = true → c.guarded (.monset o) ≠ [] →
        let x := (operandB c.g (c.thread ((c.guarded (.monset o)).headD 0)) o.bk o.b).toNat
        let less (cur : Nat) : Nat := if cur = 0 ∨ x < cur then x else cur
        (c.b.monitored = false → LanesEnd (.monset o) s c fun _ t => t)
        ∧ (c.b.monitored = true → o.d = 0 → x ≠ 0 → c.b.st = .resident → c.b.doomed = none →
            ∃ t b, exec (.monset o) s = .next t ∧ Moves (.monset o) s t c ∧ t.block? c.blk = some b ∧ b.thr = less c.b.thr
              ∧ (b.doomed = if less c.b.thr ≤ c.b.rcount then some .range else if less c.b.thr ≤ c.b.ccount then some .cancellation else none)
              ∧ t.nextSeq = s.nextSeq + (if less c.b.thr ≤ c.b.rcount ∨ less c.b.thr ≤ c.b.ccount then 1 else 0))
        ∧ (c.b.monitored = true → o.d ≠ 0 → c.b.thr = 0 →
            ∃ t g, exec (.monset o) s = .next t ∧ Moves (.monset o) s t c ∧ t.group? c.blk c.grp = some g
              ∧ g.cb = if x = 0 ∨ 63 < x then c.g.cb else less c.g.cb))
    ∧ (Issues s c (.trxchk o) → c.l.lr.ladder = true → c.g.flights = [] → LanesEnd (.trxchk o) s c fun _ t =>
        let count := if o.b = 1 then c.b.rcount else if o.b = 2 then c.b.ccount else c.b.skcount
        if o.b = 0 then t.setP (o.d.toNat % 8) (c.b.monitored && c.b.doomed.isSome)
        else t.setV o.d.toNat (BitVec.ofNat 32 (if c.b.monitored then count else 0)))
    ∧ (Issues s c (.trxesc z) → c.l.lr.ladder = true → c.guarded (.trxesc z) ≠ [] → c.b.monitored = true → c.b.doomed = none →
        ∃ t b, exec (.trxesc z) s = .next t ∧ Moves (.trxesc z) s t c ∧ t.nextSeq = s.nextSeq + 1 ∧ t.block? c.blk = some b
          ∧ b.doomed = some (if (modsOf z.m).c.getLsbD 0 then .ceiling else .escalation)))
  ∧ ∀ (s : State) (b : Block) (l : Launch) (p : Policy), s.block? b.id = some b → s.launch? b.launch = some l → l.policy = some p → b.st = .resident →
      let queued (t : State) (rung : Nat) : Prop := SameButLog s t
        ∧ (∀ e ∈ (t.core b.core).ops, e.blk ≠ b.id) ∧ (∀ e ∈ (t.core b.core).stores, e.blk ≠ b.id)
        ∧ ∃ b', t.block? b.id = some b' ∧ b'.st = .queued ∧ b'.rung = rung ∧ b'.groups = [] ∧ b'.deferred = [] ∧ b'.shadow = [] ∧ b'.images = []
          ∧ b'.weight = b.weight ∧ b'.blkidx = b.blkidx ∧ b'.doomed = none ∧ b'.rcount = 0
      (∀ cause, s.subject = .block b.id → b.doomed = some cause → ∃ t, exec .ladderAbort s = .next t
        ∧ queued t (if cause = .exhaustion ∨ cause = .ceiling then p.ceil else min (b.rung + 1) p.ceil))
      ∧ (let stalled (x : Block) : Prop := x.monitored = true ∧ 0 < x.shadowLines ∧ x.doomed = none ∧ x.st = .resident
           ∧ ∃ g ∈ x.groups, ∃ th ∈ g.threads, th.st = .waiting .shadow
         ∀ core, s.subject = .core core → b.core = core → stalled b →
          (s.blocksOn core = [b] → ∃ t, exec .shadowStallResolve s = .next t ∧ t.nextSeq = s.nextSeq + 1 ∧ queued t p.ceil)
          ∧ ∀ x, s.blocksOn core = [x, b] ∨ s.blocksOn core = [b, x] → stalled x → x.dispatched < b.dispatched → x.shadowLines + b.shadowLines ≤ 4096 →
              ∃ t, exec .shadowStallResolve s = .next t ∧ t.nextSeq = s.nextSeq + 1 ∧ queued t b.rung)

/-- R345, R357, R390, R394: the commit of an attempt with one deferred line whose page is there writes the line's bytes at its home and its one
shadowed line to the tile store, teaches the Gazetteer its rung, logs COMMIT, passes the block's ticket (log 46) and returns its weight to the root;
where the page is denied it logs COMMIT-FAULT and discards the line's bytes. -/
def Obligations.TheCommitWritesDeferredBytesAtTheirHome : Prop :=
  ∀ (s : State) (b : Block) (l : Launch) (line : Nat) (bytes : List (Nat × Byte)), s.subject = .block b.id → s.block? b.id = some b →
    s.launch? b.launch = some l → b.st = .committing → b.deferred = [(line, bytes)] → b.images = [] → s.images = [] → (s.core b.core).lines = [] →
    (s.core b.core).sent = [] → s.errors = [] → b.tile.wf = true →
    let hash := gazHash l b.blkidx
    let ended (t : State) : Prop := (∃ b' r l', t.block? b.id = some b' ∧ b'.st = .ended ∧ b'.weight = 0 ∧ b'.deferred = [] ∧ b'.shadow = []
      ∧ t.launch? l.root = some r ∧ (∀ r0, s.launch? l.root = some r0 → r.returned = r0.returned + b.weight)
      ∧ t.launch? l.id = some l' ∧ TicketPassed l l' b.blkidx
      ∧ (b.shadow = [] → b'.tile = b.tile)
      ∧ ∀ n bs, b.shadow = [(n, bs)] → ∀ a, b'.tile.read a = (lastWrite (bs.zipIdx.map fun x => (128 * n + x.2, x.1)) a).getD (b.tile.read a))
      ∧ (∀ p k, l.policy = some p → b.lookup = some k → p.pred = true → l.lr.det = false → b.unfit = false →
          GazRow k p.floor p.ceil b.rung (t.gaz = s.gaz) fun rg cf =>
            t.gaz.find? (fun e => e.index == hash.1) = some { index := hash.1, part := l.part, tag := hash.2, rg := rg, cf := cf })
      ∧ ((∀ p, l.policy = some p → p.pred = false) ∨ l.lr.det = true ∨ b.unfit = true → t.gaz = s.gaz)
    ((s.launch? l.root).isSome = true → ∀ place key lease pr pw, s.answer (reqOf l b.core) .wr (128 * line) 128 = .served place key lease pr pw →
      ∃ t u, exec .ladderCommit s = .next t ∧ t.nextSeq = s.nextSeq + 1 ∧ ended t ∧ SameElsewhere s u place ∧ u.logRing = s.logRing
        ∧ u.memOf place = bytes.foldl (fun m x => m.write (place.at_ + x.1) x.2) (s.memOf place) ∧ SameButLog u t)
    ∧ ((s.launch? l.root).isSome = true → bytes ≠ [] → ∀ d, s.answer (reqOf l b.core) .wr (128 * line) 128 = .denied d →
      ∃ t l', exec .ladderCommit s = .next t ∧ t.nextSeq = s.nextSeq + 2 ∧ ended t ∧ SameButLog s t ∧ t.launch? l.id = some l' ∧ 6 ≤ l'.status)

/-- R369, R370, R374-R380: TRAV and TRAVST issue one operation, which goes on part by part: its block of 1,024 bits is read and either rejected, or
kept; its pages are placed; some head begins, or computes its next chunk or step, and what it has computed is to be written; some element is
written; and when nothing is left it completes at its sync word with one arrival of 128 bytes, with the error flag where the block was rejected and
the cancellation flag where it was cancelled, a cancelled one computing nothing more (log 45 for the parts and their order). -/
def Obligations.TraverseOperationsIssueAndComplete : Prop :=
  (∀ (s : State) (c : Sel) (o : OpR) (slot : Nat) (i : Instr), (i = .trav o ∨ i = .travst o) → Issues s c i → NoLoads c i → c.guarded i ≠ [] →
    (s.core c.b.core).stores = [] → (s.core c.b.core).buffers = [] → s.throttled c.l.part bENGINE = false → (s.core c.b.core).freeSlot = some slot →
    let src := normEa s.dev (c.g.sPair o.a.toNat).toNat
    let word := (c.g.sr (o.a.toNat + 2)).toNat
    (isLocal s.dev src = true ∨ (isTile src = true ∧ eaOff src + 128 ≤ c.l.lr.tiles)) → src % 128 = 0 → word % 16 = 0 → word + 16 ≤ c.l.lr.tiles →
    let old := (s.core c.b.core).serial
    let h := (if old + 1 < 2 ^ 26 then old + 1 else 1) * 64 + slot
    ∃ t g op, exec i s = .next t ∧ t.group? c.blk c.grp = some g ∧ g.s = c.g.s.set o.d.toNat (BitVec.ofNat 32 h)
      ∧ (t.core c.b.core).ops = (s.core c.b.core).ops ++ [op] ∧ op.handle = h ∧ op.blk = c.blk ∧ op.src = BitVec.ofNat 64 src ∧ op.finished = false
      ∧ op.kind = (if i = .trav o then .trav else .travst ((modsOf o.m).c.getLsbD 0) (c.g.sr (o.a.toNat + 3)).toNat)
      ∧ ∀ lane th, s.thread? c.blk c.grp lane = some th → t.thread? c.blk c.grp lane = some (
          if lane ∈ c.guarded i then th.pass (Instr.len i) else if c.issue.lanes.getLsbD lane then th.advance (Instr.len i) else th))
  ∧ ∀ (s : State) (b : Block) (l : Launch) (e : EngOp) (q : TravOp), s.subject = .op b.core e.handle → (s.core b.core).ops = [e] → e.blk = b.id →
      s.block? b.id = some b → s.launch? e.launch = some l → l.lr.det = false → l.lr.own = false → b.monitored = false → b.shadow = [] →
      b.tile.wf = true → b.onCore = true → e.kind = (match q with
        | .trav => .trav
        | .ext k => .travst false k
        | .ins k => .travst true k) →
      isTile e.src.toNat = true → e.snapshot = none → isTile e.done.toNat = true → e.total = 128 → e.counted = 0 → e.silent = false → e.err = false →
      let word := eaOff e.done.toNat
      let next (t : State) (run : TravRun) : Prop := SameMem s t ∧ (t.core b.core).ops = [{ e with trav := some run }]
      let ends (err canc : Bool) (t : State) : Prop := (t.core b.core).ops = [] ∧ ∃ b', t.block? b.id = some b'
        ∧ b'.tileNat word 16 = syncArrive 128 err canc e.handle (b.tileNat word 16) ∧ ∀ a, ¬(word ≤ a ∧ a < word + 16) → b'.tile.read a = b.tile.read a
      (e.trav = none → e.canc = false →
        let bits := ofBytes (b.tileBytes (eaOff e.src.toNat) 128)
        let x := parseTrav s.dev bits
        (x.rejected q s.dev l.lr.tiles bits = true → e.pairs = [] → ∃ t, exec .traverseComplete s = .next t ∧ ends true false t ∧ t.nextSeq = s.nextSeq + 1)
        ∧ (x.rejected q s.dev l.lr.tiles bits = false → ∃ t, exec .traverseComplete s = .next t ∧ t.blocks = s.blocks
            ∧ next t { block := bits, placed := false, heads := [], writes := [], lost := [] }))
      ∧ ∀ run, e.trav = some run →
        let x := parseTrav s.dev run.block
        let get (r : Nat × Nat) : List Byte := if r.2 = 0 then [] else b.tileBytes (eaOff r.1) r.2
        (run.placed = false → e.canc = false → (∀ r ∈ x.reads q ++ x.outputs q, isTile r.ea = true) →
          ∃ t, exec .traverseComplete s = .next t ∧ t.blocks = s.blocks ∧ next t { run with placed := true })
        ∧ (run.placed = true → e.canc = false → run.writes = [] → (∃ h < x.nh, run.unfinished x q h = true) →
          (∀ h < x.nh, ∀ r ∈ x.needs q h (run.head? h), r.2 = 0 ∨ isTile r.1 = true) →
          ∃ t, exec .traverseComplete s = .next t ∧ t.blocks = s.blocks ∧ ∃ h < x.nh, run.unfinished x q h = true ∧ next t (
            match run.head? h with
            | none => run.come x q (x.begin q h get) []
            | some k => run.come x q (x.advance q k get).2 (x.advance q k get).1))
        ∧ (run.placed = true → (e.canc = true ∨ ∀ h < x.nh, run.unfinished x q h = false) → run.writes ≠ [] → (∀ w ∈ run.writes, isTile w.1 = true) →
          ∃ t b', exec .traverseComplete s = .next t ∧ t.block? b.id = some b' ∧ ∃ w ∈ run.writes, next t { run with writes := run.writes.filter (· != w) }
            ∧ ∀ a, b'.tile.read a = (lastWrite (w.2.zipIdx.map fun y => (eaOff w.1 + y.2, y.1)) a).getD (b.tile.read a))
        ∧ (run.placed = true → run.writes = [] → (e.canc = true ∨ ∀ h < x.nh, run.unfinished x q h = false) → e.pairs = [] → e.fail = none →
          ∃ t, exec .traverseComplete s = .next t ∧ ends false e.canc t)

/-! ## Barriers, tickets, weight and waits on memory (spec 13) -/

/-- R382-R389: barriers at every scope. BARINIT sets EXPECT and opens the next phase where the arrivals and ended groups already reach it, at .pod once
it has bound the object to its communicator; BARARR and BAR of the whole group arrive once its previous phase is over (log 51), a halted group never;
a wait ends once its phase is reached; where R389 names a cause they raise XBLOCK. -/
def Obligations.BarriersCountGroupsAndReleaseTheirWaiters : Prop :=
  (∀ (s : State) (c : Sel) (o : OpR),
    let sc := o.a.toNat / 16
    let num := o.a.toNat % 16
    let bound : Prop := sc = 5 → ((findBar c.l.bars 5 num).bind Barrier.comm).isSome = true
    let n := (operandB c.g (c.thread ((c.guarded (.barinit o)).headD 0)) o.bk o.b).toNat
    (∀ x, Issues s c (.barinit o) → c.guarded (.barinit o) ≠ [] → BarOk s c sc → sc ≠ 5 → s.bar? c.blk sc num = some x → x.comm = none →
      let expect := if n = 0 then (if sc = 1 then c.l.lr.groups else c.l.lr.blocks * c.l.lr.groups) else n
      ∃ t y, exec (.barinit o) s = .next t ∧ Moves (.barinit o) s t c ∧ t.bar? c.blk sc num = some y ∧ y.expect = expect
        ∧ (x.arrived + x.ended < expect → y = { x with expect := expect })
        ∧ (expect ≤ x.arrived + x.ended → y.phase = x.phase + 1 ∧ y.arrived = 0 ∧ y.ended = x.ended + x.epend ∧ y.epend = 0))
    ∧ (Issues s c (.barinit o) → c.guarded (.barinit o) ≠ [] → BarOk s c sc → sc = 5 →
        (∀ k r, s.comm? c.l.part (n % 65536) = some k → k.scope = 5 → k.rank? s.dev c.l.id c.b.blkidx = some r →
          (∀ p ∈ s.podBars, ¬(p.part = c.l.part ∧ p.comm = k.number ∧ p.bar.num = num)) → 0 < (k.members.map s.memberGroups).sum →
          ∃ t y, exec (.barinit o) s = .next t ∧ Moves (.barinit o) s t c ∧ t.bar? c.blk 5 num = some y ∧ y.comm = some k.number
            ∧ y.expect = (k.members.map s.memberGroups).sum ∧ y.phase = 0 ∧ y.arrived = 0 ∧ y.ended = 0)
        ∧ (TrapReady s c (c.guarded (.barinit o)) →
            (∀ k, s.comm? c.l.part (n % 65536) = some k → k.scope = 5 → k.rank? s.dev c.l.id c.b.blkidx = none) →
            TrapsEnd (.barinit o) s c (c.guarded (.barinit o)) ⟨0x11, 0, 3⟩ c.issue.pc true))
    ∧ (∀ d, BarCause s c sc num d →
        (d ≠ 5 → Issues s c (.barinit o) → c.guarded (.barinit o) ≠ [] → TrapReady s c (c.guarded (.barinit o)) →
          TrapsEnd (.barinit o) s c (c.guarded (.barinit o)) ⟨0x0C, 0, BitVec.ofNat 32 d⟩ c.issue.pc true)
        ∧ (Issues s c (.barwait o) → c.guarded (.barwait o) ≠ [] → TrapReady s c (c.guarded (.barwait o)) →
          TrapsEnd (.barwait o) s c (c.guarded (.barwait o)) ⟨0x0C, 0, BitVec.ofNat 32 d⟩ c.issue.pc true)
        ∧ ∀ i, (i = .bararr o ∨ i = .bar o) → Issues s c i → WholeSet s c → TrapReady s c c.lanes → WaitTraps i s c ⟨0x0C, 0, BitVec.ofNat 32 d⟩)
    ∧ (∀ i, (i = .bararr o ∨ i = .bar o) → Issues s c i → WholeSet s c → BarOk s c sc → bound → ∃ t u g, exec i s = .next t ∧ OnlyGroup s t c.blk c.grp
        ∧ t.group? c.blk c.grp = some (c.waiting i)
        ∧ exec .memberWaitComplete { t with subject := .wait c.blk c.grp c.issue.pc } = .next u ∧ u.group? c.blk c.grp = some g ∧ g.waits = []
        ∧ g.arrival = some ⟨sc, num, if i = .bararr o then some o.d.toNat else none, Instr.len i,
            ⟨c.issue.pc, i, c.issue.lanes, c.issue.lanes, laneSet (c.guarded i)⟩⟩
        ∧ ∀ lane < 64, c.issue.lanes.getLsbD lane = true → (g.thread lane).st = .waiting .arrive ∧ (g.thread lane).region = c.issue.pc)
    ∧ (Issues s c (.barwait o) → BarOk s c sc → bound → JumpEnds (.barwait o) s c fun _ t =>
        { t with st := .waiting (.barrier sc num ((operandB c.g t o.bk o.b).setWidth 16) false (Instr.len (.barwait o))) }))
  ∧ (∀ (s : State) (b : Block) (l : Launch) (g : Group) (a : Arrival) (x : Barrier), s.subject = .group b.id g.idx → s.block? b.id = some b →
      s.launch? b.launch = some l → s.group? b.id g.idx = some g → b.st = .resident → g.arrival = some a → s.bar? b.id a.scope a.num = some x →
      x.scope = a.scope → x.num = a.num → (x.comm = none ∨ (a.scope = 5 ∧ ∃ y, findBar l.bars 5 a.num = some y ∧ y.comm = x.comm)) →
      (g.halted = false → g.aphOf a.scope a.num = x.phase → (s.core b.core).stores = [] → (s.core b.core).buffers = [] → ∃ t g' y, exec .barrierArrive s = .next t
        ∧ t.group? b.id g.idx = some g' ∧ g'.arrival = none ∧ g'.aphOf a.scope a.num = x.phase + 1
        ∧ g'.s = (match a.sd with
            | some d => g.s.set d ((x.phase + 1).setWidth 32)
            | none => g.s)
        ∧ t.bar? b.id a.scope a.num = some y
        ∧ (y.phase, y.arrived, y.ended, y.epend) = (if x.expect ≤ x.arrived + 1 + x.ended then (x.phase + 1, 0, x.ended + x.epend, 0)
            else (x.phase, x.arrived + 1, x.ended, x.epend))
        ∧ ∀ lane < g.threads.length, (g.thread lane).st = .waiting .arrive →
            (a.sd.isSome = true → g'.thread lane = ((g.thread lane).setState .runnable).pass a.len)
            ∧ (a.sd = none → g'.thread lane = { g.thread lane with st := .waiting (.barrier a.scope a.num (x.phase + 1) true a.len),
                                                                    region := (g.thread lane).pc + BitVec.ofNat 64 a.len }))
      ∧ (g.halted = true ∨ g.aphOf a.scope a.num ≠ x.phase → exec .barrierArrive s = .next s.idle))
  ∧ ∀ (s : State) (b : Block) (l : Launch) (th : Thread) (grp lane sc num len : Nat) (phase : BitVec 16) (joined : Bool) (x : Barrier),
      s.subject = .lane b.id grp lane → s.block? b.id = some b → s.launch? b.launch = some l → s.thread? b.id grp lane = some th → b.st = .resident →
      th.st = .waiting (.barrier sc num phase joined len) → th.horizon = none → s.bar? b.id sc num = some x →
      ((x.phase - phase).toNat < 2 ^ 15 → ∃ t, exec .barwaitComplete s = .next t ∧ SameMem s t ∧ (sc < 2 → OnlyGroup s t b.id grp)
        ∧ (2 ≤ sc → ∀ ln ∈ (t.core b.core).lines, ln.key.ctx ≠ l.ctx)
        ∧ t.thread? b.id grp lane = some { th with st := .runnable, pc := th.pc + BitVec.ofNat 64 len })
      ∧ (¬(x.phase - phase).toNat < 2 ^ 15 → exec .barwaitComplete s = .next s.idle)

/-- R390, R391, R394-R396, R398, R413: TKPASS passes the block's ticket and the counter moves over every passed one; TKWAIT waits for the counter
and reads the void bit of its ticket; WRET gives held weight back to the root; MWAIT waits while the word at its home is the one it names, and reads
it again once its line there has changed; OWNSET replaces an owner range. -/
def Obligations.TicketsWeightMonitorsAndOwnerRanges : Prop :=
  (∀ (s : State) (c : Sel) (o : OpR),
    let passed (i : Instr) (t : State) : Prop := ∀ lane th, s.thread? c.blk c.grp lane = some th → t.thread? c.blk c.grp lane = some (
      if lane ∈ c.guarded i then th.pass (Instr.len i) else if c.issue.lanes.getLsbD lane then th.advance (Instr.len i) else th)
    (Issues s c (.tkpass o) → NoLoads c (.tkpass o) → c.guarded (.tkpass o) ≠ [] → c.b.monitored = false → EmptyCore s c.b.core →
      ∃ t l, exec (.tkpass o) s = .next t ∧ SameMem s t ∧ passed (.tkpass o) t ∧ t.launch? c.l.id = some l ∧ TicketPassed c.l l c.b.blkidx)
    ∧ (Issues s c (.tkwait o) → c.b.monitored = false → JumpEnds (.tkwait o) s c fun _ t =>
        { t with st := .waiting (.ticket (o.d.toNat % 8) (operandB c.g t o.bk o.b) (Instr.len (.tkwait o))) })
    ∧ (Issues s c (.wret o) → NoLoads c (.wret o) → c.guarded (.wret o) ≠ [] → c.b.monitored = false → EmptyCore s c.b.core →
      let n := min (operandB c.g (c.thread ((c.guarded (.wret o)).headD 0)) o.bk o.b).toNat c.b.weight
      ∀ r, s.launch? c.l.root = some r → ∃ t b r', exec (.wret o) s = .next t ∧ SameMem s t ∧ passed (.wret o) t
        ∧ t.block? c.blk = some b ∧ b.weight = c.b.weight - n ∧ t.launch? c.l.root = some r' ∧ r'.returned = r.returned + n)
    ∧ (Issues s c (.ownset o) → c.guarded (.ownset o) ≠ [] →
      (c.l.lr.own = true → ∃ t b, exec (.ownset o) s = .next t ∧ OnlyBlocks s t ∧ Moves (.ownset o) s t c ∧ t.block? c.blk = some b
        ∧ b.owners = c.b.owners.set (o.d.toNat % 4) (normEa s.dev (c.g.sPair o.a.toNat).toNat, (c.g.sPair (o.a.toNat + 2)).toNat))
      ∧ (c.l.lr.own = false → TrapReady s c (c.guarded (.ownset o)) →
          TrapsEnd (.ownset o) s c (c.guarded (.ownset o)) ⟨0x0B, 0, 2⟩ c.issue.pc true))
    ∧ (∀ (place : Place) key lease pr pw lane, Issues s c (.mwait o) → NoLoads c (.mwait o) → Plain s c → EmptyCore s c.b.core → s.images = [] →
        s.errors = [] → c.b.onCore = true → c.guarded (.mwait o) = [lane] →
        let wide := (modsOf o.m).c.getLsbD 3
        let n := if wide then 8 else 4
        let th := c.thread lane
        let ea := normEa s.dev (th.vPair o.a.toNat).toNat
        spaceFault s.podSize ea = none → isLocal s.dev ea = true → ea % n = 0 →
        s.answer c.req .rd (ea / 128 * 128) 128 = .served place key lease pr pw →
        let x := (s.memOf place).readNat (place.at_ + ea % 128) n
        let want := if wide then (pairB c.g th o.bk o.b).toNat else (operandB c.g th o.bk o.b).toNat
        let home := (List.range 128).map fun i => (s.memOf place).read (place.line.at_ + i)
        ∃ t, exec (.mwait o) s = .next t ∧ SameMem s t
          ∧ (x = want → t.thread? c.blk c.grp lane = some { th with
              st := .waiting (.mwait o.d.toNat (BitVec.ofNat 64 ea) wide (BitVec.ofNat 64 x) ((modsOf o.m).c.toNat % 8) (Instr.len (.mwait o)) home) })
          ∧ (x ≠ want → t.thread? c.blk c.grp lane = some
              ((if wide then th.setPair o.d.toNat (BitVec.ofNat 64 x) else th.setV o.d.toNat (BitVec.ofNat 32 x)).advance (Instr.len (.mwait o))))))
  ∧ ∀ (s : State) (b : Block) (l : Launch) (th : Thread) (grp lane : Nat), s.subject = .lane b.id grp lane → s.block? b.id = some b →
      s.launch? b.launch = some l → s.thread? b.id grp lane = some th → b.st = .resident → th.horizon = none →
      (∀ pd n len, th.st = .waiting (.ticket pd n len) →
        let reached : Prop := (BitVec.ofNat 32 l.counter - n).toNat < 2 ^ 31
        let void : Bool := decide (1 ≤ n.toNat) && decide (n.toNat ≤ l.lr.blocks) && l.passed.any fun p => p.1 + 1 == n.toNat && p.2
        (reached → ∃ t, exec .tkwaitComplete s = .next t ∧ (∀ ln ∈ (t.core b.core).lines, ln.key.ctx ≠ l.ctx)
          ∧ t.thread? b.id grp lane = some { (th.setP pd void) with st := .runnable, pc := th.pc + BitVec.ofNat 64 len })
        ∧ (¬reached → exec .tkwaitComplete s = .next s.idle))
      ∧ ∀ vd (a : Dword) wide (old : Dword) scope len (home : List Byte) (place : Place) key lease pr pw,
          th.st = .waiting (.mwait vd a wide old scope len home) → s.images = [] → s.errors = [] → EmptyCore s b.core → s.throttled l.part bHBM = false → s.throttled l.part bFABRIC = false →
          s.answer (reqOf l b.core) .rd (a.toNat / 128 * 128) 128 = .served place key lease pr pw →
          let n := if wide then 8 else 4
          let x := (s.memOf place).readNat (place.at_ + a.toNat % 128) n
          let now := (List.range 128).map fun i => (s.memOf place).read (place.line.at_ + i)
          (now ≠ home → x ≠ old.toNat → ∃ t, exec .mwaitWake s = .next t ∧ SameMem s t ∧ t.thread? b.id grp lane = some
            { (if wide then th.setPair vd (BitVec.ofNat 64 x) else th.setV vd (BitVec.ofNat 32 x)) with
              st := .runnable, pc := th.pc + BitVec.ofNat 64 len })
          ∧ (now ≠ home → x = old.toNat → ∃ t, exec .mwaitWake s = .next t ∧ SameMem s t
              ∧ t.thread? b.id grp lane = some { th with st := .waiting (.mwait vd a wide old scope len now) })
          ∧ (now = home → exec .mwaitWake s = .next s.idle)

/-! ## Reductions, update units and launches from a kernel (spec 13, 14) -/

/-- R399-R405: RED of a set adds its lanes' contributions to one partial image a line: in the scheduler's atomic buffer, or with `.nb` at the line's
home, where a new image starts from the line's value; an element's image is the exact sum of what it takes, modulo its width. REDARM arms the
record's lines, or says false; where no entry is free the thread keeps the record that it has read. -/
def Obligations.ReductionsAddExactImages : Prop :=
  ∀ (s : State) (c : Sel) (o : OpR), Plain s c → EmptyCore s c.b.core → s.images = [] → s.errors = [] → c.b.onCore = true → s.throttled c.l.part bSLOTS = false →
    let passed (i : Instr) (t : State) : Prop := ∀ lane th, s.thread? c.blk c.grp lane = some th → t.thread? c.blk c.grp lane = some (
      if lane ∈ c.guarded i then th.pass (Instr.len i) else if c.issue.lanes.getLsbD lane then th.advance (Instr.len i) else th)
    (∀ (line : Nat) (place : Place) key lease pr pw,
      let ty := redType o.d
      let ls := c.guarded (.red o)
      let ea (l : Nat) : Nat := normEa s.dev ((c.thread l).vPair o.a.toNat).toNat
      let value (l : Nat) : Nat := if ty.bytes = 8 then (pairB c.g (c.thread l) o.bk o.b).toNat else (operandB c.g (c.thread l) o.bk o.b).toNat
      let to_ (i : Nat) : List Nat := ls.filter fun l => ea l % 128 / ty.bytes == i
      let exact (i : Nat) : Nat := ((to_ i).map fun l => (ImageElem.ofBits ty (value l)).val).sum
      Issues s c (.red o) → NoLoads c (.red o) → ls ≠ [] →
      (∀ l ∈ ls, ea l / 128 = line ∧ spaceFault s.podSize (ea l) = none ∧ isLocal s.dev (ea l) = true ∧ ea l % ty.bytes = 0
        ∧ (c.l.lr.own = true → c.b.owns (ea l) ty.bytes = true)) →
      s.answer c.req .atomic (128 * line) 128 = .served place key lease pr pw →
      ((modsOf o.m).c.getLsbD 0 = false → ∃ t e, exec (.red o) s = .next t ∧ SameMem s t ∧ t.images = [] ∧ passed (.red o) t
        ∧ (t.core c.b.core).buffers = [e] ∧ e.blk = c.blk ∧ e.sched = c.g.sched ∧ e.image.line = line ∧ e.image.type = ty ∧ e.image.ctx = c.l.ctx
        ∧ ∀ i < ty.elems, (e.image.elems.getD i ImageElem.zero).val = exact i % 2 ^ ty.width
            ∧ (e.image.elems.getD i ImageElem.zero).con = decide (to_ i ≠ []))
      ∧ ((modsOf o.m).c.getLsbD 0 = true → ∃ t im, exec (.red o) s = .next t ∧ SameMem s t ∧ passed (.red o) t ∧ (t.core c.b.core).buffers = []
        ∧ t.images = [im] ∧ im.place = place.line ∧ im.line = line ∧ im.type = ty
        ∧ ∀ i < ty.elems, (im.elems.getD i ImageElem.zero).con = decide (to_ i ≠ [])
            ∧ (im.elems.getD i ImageElem.zero).val = ((ImageElem.ofBits ty ((s.memOf place).readNat (place.line.at_ + i * ty.bytes) ty.bytes)).val + exact i) % 2 ^ ty.width))
    ∧ (∀ place key lease pr pw first, Issues s c (.redarm o) → NoLoads c (.redarm o) → (c.guarded (.redarm o)).head? = some first →
      (c.thread first).armRecord = none →
      let ea := normEa s.dev (c.g.sPair o.a.toNat).toNat
      isLocal s.dev ea = true → ea % 64 = 0 → s.answer c.req .rd (ea / 128 * 128) 128 = .served place key lease pr pw →
      let bs := (s.memOf place).readBytes (place.at_ + ea % 128) 64
      let u := readUpdate s.dev bs
      let said (t : State) (x : Bool) : Prop := ∀ lane th, s.thread? c.blk c.grp lane = some th → t.thread? c.blk c.grp lane = some (
        if lane ∈ c.guarded (.redarm o) then (th.setP (o.d.toNat % 8) x).pass (Instr.len (.redarm o))
        else if c.issue.lanes.getLsbD lane then th.advance (Instr.len (.redarm o)) else th)
      (s.updateOk c.l.ctx u = false → ∃ t, exec (.redarm o) s = .next t ∧ SameMem s t ∧ said t false ∧ t.armings = s.armings)
      ∧ (s.updateOk c.l.ctx u = true → s.armings.countP (fun a => eaDie a.gaddr == eaDie u.gaddr) < 32 →
          ∃ t a, exec (.redarm o) s = .next t ∧ SameMem s t ∧ said t true ∧ t.armings = s.armings ++ [a] ∧ a.expect = u.expect ∧ a.nlines = u.nlines
            ∧ a.gaddr = u.gaddr ∧ a.paddr = u.paddr ∧ a.fired = [] ∧ a.counts = [] ∧ a.clr = (modsOf o.m).c.getLsbD 0 ∧ (a.adam = true ↔ u.rule = 1))
      ∧ (s.updateOk c.l.ctx u = true → 32 ≤ s.armings.countP (fun a => eaDie a.gaddr == eaDie u.gaddr) →
          ∃ t th, exec (.redarm o) s = .next t ∧ SameMem s t ∧ t.armings = s.armings
            ∧ t.thread? c.blk c.grp first = some th ∧ th.armRecord = some bs ∧ th.pc = (c.thread first).pc ∧ th.v = (c.thread first).v))

/-- R402, R405-R407: REDFL empties the block's buffers; a line of an arming that has its count fires once: the new parameter and state lines of SGD or
Adam are written at their homes and the gradient is cleared or kept; when every line has fired, or its launch has ended, DONE is updated, with the
cancellation flag there, and the arming is over. -/
def Obligations.BuffersDrainAndArmedLinesFire : Prop :=
  (∀ (s : State) (c : Sel) (o : OpR), Issues s c (.redfl o) → NoLoads c (.redfl o) → c.guarded (.redfl o) ≠ [] →
    (∀ e ∈ (s.core c.b.core).buffers, e.blk = c.blk → s.spoiled e.image.place = false) → ∃ t, exec (.redfl o) s = .next t
    ∧ (∀ e ∈ (t.core c.b.core).buffers, e.blk ≠ c.blk)
    ∧ ∀ lane th, s.thread? c.blk c.grp lane = some th → t.thread? c.blk c.grp lane = some (
        if lane ∈ c.guarded (.redfl o) then th.pass (Instr.len (.redfl o))
        else if c.issue.lanes.getLsbD lane then th.advance (Instr.len (.redfl o)) else th))
  ∧ ∀ (s : State) (a : Arming) (l : Launch), s.armings = [a] → s.launch? a.launch = some l → s.images = [] → s.errors = [] →
      let r : Req := { part := l.part, engine := true, ctx := a.ctx, die := eaDie a.gaddr }
      (∀ (i : Nat) (place : Nat → Nat), s.subject = .arming a.id i → i < a.nlines → a.canc = false → i ∉ a.fired →
        a.expect ≤ assocD a.counts i 0 →
        let lines := if a.adam then [a.gaddr + 128 * i, a.paddr + 384 * i, a.paddr + 384 * i + 128, a.paddr + 384 * i + 256]
          else [a.gaddr + 128 * i, a.paddr + 256 * i, a.paddr + 256 * i + 128]
        (∀ ea ∈ lines, ea % 128 = 0 ∧ place ea % 128 = 0
          ∧ ∃ key lease pr pw, s.answer r .update ea 128 = .served (.hbm (place ea)) key lease pr pw) →
        s.hbm.wf = true → (lines.map place).Nodup →
        ∃ t a', exec .updateLineFire s = .next t ∧ t.armings = [a'] ∧ a'.fired = a.fired ++ [i]
          ∧ (∀ k < 32,
              let at_ (j : Nat) : Nat := s.hbm.readNat (place (lines.getD j 0) + 4 * k) 4
              let new : List Nat := if a.adam then
                  let x := adamRule a.h (at_ 0) (at_ 1) (at_ 2) (at_ 3)
                  [if a.clr then 0 else at_ 0, x.1, x.2.1, x.2.2]
                else
                  let x := sgdRule a.h (at_ 0) (at_ 1) (at_ 2)
                  [if a.clr then 0 else at_ 0, x.1, x.2]
              ∀ j < lines.length, t.hbm.readNat (place (lines.getD j 0) + 4 * k) 4 = new.getD j 0 % 2 ^ 32)
          ∧ ∀ b, (∀ ea ∈ lines, b / 128 ≠ place ea / 128) → t.hbm.read b = s.hbm.read b)
      ∧ ∀ (i : Nat) (place : Place) key lease pr pw, s.subject = .arming a.id i → a.nlines ≤ i → (a.fired.length = a.nlines ∨ a.canc = true) → a.fail = none →
          s.answer r .wr (a.done.toNat / 128 * 128) 128 = .served place key lease pr pw →
          let ea := place.at_ + a.done.toNat % 128
          let x := (s.memOf place).readNat ea 16
          ∃ t y, exec .updateLineFire s = .next t ∧ t.armings = [] ∧ SameElsewhere s t place ∧ t.memOf place = (s.memOf place).writeNat ea 16 y
            ∧ y % 2 ^ 64 = (x + 1) % 2 ^ 64 ∧ y.testBit 64 = x.testBit 64 ∧ y.testBit 65 = (x.testBit 65 || a.canc)
            ∧ (a.canc = false → y / 2 ^ 64 = x / 2 ^ 64)

/-- R395, R419, R439: LAUNCH and SPAWN append the record they read to a queue of their context with room: its 128 bytes (for SPAWN with the weight it is
given) are in the next slot, TAIL advances, SUBMIT is logged, the predicate is true; SPAWN takes the weight from its block. Where the queue is full, or
it, the record or the weight does not allow it, the predicate is false and nothing is written. -/
def Obligations.KernelsAppendLaunchRecords : Prop :=
  ∀ (s : State) (c : Sel) (o : OpR) (a : Nat) key lease pr pw, Plain s c → EmptyCore s c.b.core → s.images = [] → s.errors = [] →
    let ea := normEa s.dev (c.g.sPair o.a.toNat).toNat
    spaceFault s.podSize ea = none → isLocal s.dev ea = true → ea % 128 = 0 →
    s.answer c.req .rd (ea / 128 * 128) 128 = .served (.hbm a) key lease pr pw →
    let bs := s.hbm.readBytes a 128
    let said (i : Instr) (t : State) (x : Bool) : Prop := ∀ lane th, s.thread? c.blk c.grp lane = some th → t.thread? c.blk c.grp lane = some (
      if lane ∈ c.guarded i then (th.setP (o.d.toNat % 8) x).pass (Instr.len i) else if c.issue.lanes.getLsbD lane then th.advance (Instr.len i) else th)
    let appended (t : State) (q : Queue) (d : Nat) (bytes : List Byte) : Prop := SameButLog { s with hbm := s.hbm.writeBytes d bytes } t ∧ t.nextSeq = s.nextSeq + 1
      ∧ ∃ q', t.queue? q.num = some q' ∧ q'.tail = q.tail + 1 ∧ q'.head = q.head
    let room (q : Queue) (d : Nat) : Prop := (q.tail - q.head).toNat < 2 ^ q.qsize ∧ ∃ key lease pr pw,
      s.answer q.req .wr (normEa s.dev (q.qbase.toNat + 128 * (q.tail.toNat % 2 ^ q.qsize)) / 128 * 128) 128 = .served (.hbm d) key lease pr pw
    let b (i : Instr) : Nat := (operandB c.g (c.thread ((c.guarded i).headD 0)) o.bk o.b).toNat
    let ready (i : Instr) : Prop := Issues s c i ∧ NoLoads c i ∧ c.guarded i ≠ []
    (ready (.launch o) →
      let n := if b (.launch o) = 0xFFFFFFFF then c.l.queue else b (.launch o)
      (∀ q d, s.queue? n = some q → q.part = c.l.part → q.ctx = c.l.ctx → (n = c.l.queue ∨ q.lok = true) → room q d →
        ∃ t, exec (.launch o) s = .next t ∧ said (.launch o) t true ∧ appended t q d bs)
      ∧ ((∀ q, s.queue? n = some q → q.part ≠ c.l.part ∨ q.ctx ≠ c.l.ctx ∨ (n ≠ c.l.queue ∧ q.lok = false) ∨ 2 ^ q.qsize ≤ (q.tail - q.head).toNat) →
          ∃ t, exec (.launch o) s = .next t ∧ said (.launch o) t false ∧ SameMem s t ∧ t.queues = s.queues))
    ∧ (ready (.spawn o) →
      let w := b (.spawn o)
      let r := (readLaunch bs).1
      let fits : Prop := r.blocks ≤ w ∧ w ≤ c.b.weight ∧ recordOk s.dev r (readLaunch bs).2 w = true
      (∀ q d, s.queue? c.l.queue = some q → fits → room q d → ∃ t blk q', exec (.spawn o) s = .next t ∧ said (.spawn o) t true
        ∧ appended t q d (bs.take 48 ++ bytesLE 8 w ++ bs.drop 56) ∧ t.block? c.blk = some blk ∧ blk.weight = c.b.weight - w
        ∧ t.queue? q.num = some q' ∧ q'.spawned = q.spawned ++ [(q.tail.toNat, w, c.l.root)])
      ∧ (¬fits ∨ (∀ q, s.queue? c.l.queue = some q → 2 ^ q.qsize ≤ (q.tail - q.head).toNat) → ∃ t, exec (.spawn o) s = .next t ∧ said (.spawn o) t false ∧ SameMem s t ∧ t.queues = s.queues))

/-! ## Queues, the dispatcher and the Caravan (spec 08, 14) -/

/-- R70-R73, R394, R415-R423, R438: a write of TAIL is taken where it keeps within the ring, else logged; the offered record becomes a launch; the dispatcher puts a
fresh block on its core with every thread at LR.code in the state of R73; a queue that waited to priority 7 reserves a core; a launch whose weight has
returned performs what every core holds of its context, updates LR.done and completes (logs 52, 61, 73, 82). -/
def Obligations.QueuesLaunchesAndTheDispatcher : Prop :=
  (∀ (s : State) (n master : Nat) (tail : Word), s.subject = .tail n master tail → n < 1024 → master ∈ [0x20, 0x21, 0x3F] →
    let q := s.descriptor n
    let ok : Prop := (tail - q.head).toNat ≤ 2 ^ q.qsize ∧ (q.tail - q.head).toNat ≤ (tail - q.head).toNat
    (s.tailGranted n master = true →
      (ok → ∃ t, exec .queueTailWrite s = .next t ∧ t = { s with queues := t.queues } ∧ t.descriptor n = { q with tail := tail }
        ∧ ∀ m, m ≠ n → t.descriptor m = s.descriptor m)
      ∧ (¬ok → ∃ t, exec .queueTailWrite s = .next t ∧ OnlyLog s t ∧ t.nextSeq = s.nextSeq + 1 ∧ t.queues = s.queues))
    ∧ (s.tailGranted n master = false →
      (master = 0x21 → ∃ t, exec .queueTailWrite s = .next t ∧ OnlyLog s t ∧ t.nextSeq = s.nextSeq + 1 ∧ t.queues = s.queues)
      ∧ (master ≠ 0x21 → exec .queueTailWrite s = .next s)))
  ∧ (∀ (s s1 s2 : State) (q : Queue) (p : Partition) (bs ps : List Byte), s.subject = .queue q.num → s.queue? q.num = some q → q.accepting = none →
    s.part? q.part = some p → s.decision p = some (.offered q.num) → q.spawned = [] →
    let s0 := s.resetCredits p q.num (q.eff p.agestep)
    s0.dispRead q.req q.num (normEa s.dev (q.qbase.toNat + 128 * (q.head.toNat % 2 ^ q.qsize))) 128 = .ok s1 bs →
    s1.nextLaunch = s.nextLaunch → s1.launches = s.launches → s1.queues = s0.queues → s1.dev = s.dev →
    let r := (readLaunch bs).1
    (recordOk s.dev r (readLaunch bs).2 r.weight.toNat = true → r.ladder = false → r.swapmax = 0 → r.fitsEmpty = true →
      s1.dispRead q.req q.num r.params.toNat 64 = .ok s2 ps → s2.launches = s.launches → s2.nextLaunch = s.nextLaunch → s2.queues = s0.queues →
      ∃ t l q', exec .launchAccept s = .next t ∧ t.launches = s.launches ++ [l] ∧ l.id = s.nextLaunch ∧ l.queue = q.num ∧ l.part = q.part ∧ l.ctx = q.ctx
        ∧ l.lr = { r with own := r.own || s.inPhase .rerun } ∧ l.next = 0 ∧ l.status = 0 ∧ l.complete = false ∧ l.stopped = false ∧ l.root = l.id ∧ l.counter = 0
        ∧ l.params = (List.range 16).map (fun i => BitVec.ofNat 32 (ofBytes ((ps.drop (4 * i)).take 4)))
        ∧ t.queue? q.num = some q' ∧ q'.head = q.head + 1 ∧ q'.nlaunch = q.nlaunch + 1 ∧ t.nextSeq = s2.nextSeq + 1)
    ∧ (recordOk s.dev r (readLaunch bs).2 r.weight.toNat = false → (∀ k ∈ s.launches, k.id ≠ s.nextLaunch) → ∃ t l q', exec .launchAccept s = .next t
        ∧ t.launches = s.launches ++ [l] ∧ l.status = 1 ∧ l.stopped = true ∧ t.queue? q.num = some q' ∧ q'.head = q.head + 1))
  ∧ (∀ (s0 s : State) (p : Partition) (q : Queue) (l : Launch) (core eff : Nat), s0.placeHeld = s → s0.subject = .part p.num → s.part? p.num = some p →
    s.decision p = some (.fresh q.num l.id core eff) → s.queue? q.num = some q → s.launch? l.id = some l → l.lr.own = false → l.policy = none →
    (∀ b ∈ s.blocks, b.id ≠ s.nextBlock) →
    ∃ t b l', exec .dispatchDecision s0 = .next t ∧ SameMem s0 t ∧ t.block? s.nextBlock = some b ∧ t.nextBlock = s.nextBlock + 1 ∧ t.launch? l.id = some l'
      ∧ l'.next = l.next + 1 ∧ b.launch = l.id ∧ b.blkidx = l.next ∧ b.st = .resident ∧ b.core = core ∧ b.monitored = false ∧ b.tile = []
      ∧ b.weight = l.share l.next ∧ b.groups.length = l.lr.groups
      ∧ ∀ g ∈ b.groups.zipIdx, g.1.idx = g.2 ∧ g.1.sched = (l.next + g.2) % 4 ∧ g.1.k = List.replicate 12 0 ∧ g.1.vallot = l.lr.vregs ∧ g.1.uallot = l.lr.uregs
          ∧ g.1.acc = List.replicate l.lr.accs [] ∧ g.1.s = l.params ++ List.replicate (l.lr.uregs - 16) 0 ∧ g.1.threads.length = 64
          ∧ ∀ th ∈ g.1.threads, th.pc = l.lr.code ∧ th.region = l.lr.code ∧ th.st = .runnable ∧ th.v = List.replicate l.lr.vregs 0 ∧ th.p = 0
              ∧ th.fpenv = 1 ∧ th.fpflags = 0 ∧ th.trap = none)
  ∧ (∀ (s : State) (p : Partition) (q : Queue) (l : Launch) (c0 : Nat) (cs : List Nat), s.subject = .reservation p.num q.num → s.part? p.num = some p → s.queue? q.num = some q →
    s.dispatchingLaunch q.num = some l → q.part = p.num → p.reservation = none → q.prio < 7 → q.eff p.agestep = 7 →
    s.place p (freshNeed l.lr l.next) (some q.num) = none → p.openCores = c0 :: cs → ∃ t p' c, exec .coreReservation s = .next t ∧ t = { s with partitions := t.partitions }
      ∧ t.part? p.num = some p' ∧ p'.reservation = some (q.num, c) ∧ c ∈ p.openCores ∧ ∀ x ∈ p.openCores, s.residentGroups c ≤ s.residentGroups x)
  ∧ ∀ (s : State) (l : Launch), s.subject = .launch l.id → s.launch? l.id = some l → s.launchDue l = true → (∀ p ∈ s.partitions, p.draining = false) →
    let r : Req := ⟨l.part, false, l.ctx, 0⟩
    let s1 := s.settleContext r
    let ea := normEa s.dev l.lr.done.toNat
    s1.launch? l.id = some l → (∀ p ∈ s1.partitions, p.draining = false) → s1.dev = s.dev → s1.podSize = s.podSize →
    (l.lr.done = 0 → ∃ t, exec .launchComplete s = .next t ∧ t.launch? l.id = some { l with complete := true } ∧ t.nextSeq = s1.nextSeq + 1 ∧ SameButLog s1 t)
    ∧ (∀ place key lease pr pw, isLocal s.dev ea = true → l.lr.done ≠ 0 → ea % 16 = 0 → spaceFault s.podSize ea = none →
        s1.answer r .wr (ea / 128 * 128) 128 = .served place key lease pr pw → s1.images = [] → s1.errors = [] →
        let word := place.at_ + ea % 128
        ∃ t u l', exec .launchComplete s = .next t ∧ t.launch? l.id = some l' ∧ l'.complete = true ∧ SameElsewhere s1 u place ∧ u.logRing = s1.logRing
          ∧ u.memOf place = (s1.memOf place).writeNat word 16 (launchObject l.status ((s1.memOf place).readNat word 16)) ∧ SameButLog u t)

/-- R31, R271-R275, R425-R431, R434: a block that is parked long enough while another waits is swapped out once nothing of it is under way; each budget period
starts anew; a watchdog that expires and DRAIN end the partition's launches; PREEMPT closes cores and is done when they are empty; firmware frees log
entries (logs 32, 49, 53, 76). -/
def Obligations.SwapsBudgetsPreemptionDrainAndLogRoom : Prop :=
  (∀ (s : State) (b : Block) (l : Launch), s.subject = .block b.id → s.block? b.id = some b → s.launch? b.launch = some l →
    (∀ p run, s.part? l.part = some p → s.swapRoom l b = some run → b.st = .resident → b.doomed = none → l.lr.nopark = false →
      (∃ g ∈ b.groups, ∃ w, g.parkedAt = some w ∧ w + 1000 * p.pt ≤ s.gtime) → s.blockWaiting p.num = true →
      ∃ t, exec .swapTrigger s = .next t ∧ OnlyBlocks s t ∧ t.block? b.id = some { b with st := .swapping, granules := some run, drawn := 0 })
    ∧ (b.st = .swapping → s.swapReady b = true → s.errors = [] → s.images = [] → (s.core b.core).buffers = [] → ∃ t b', exec .swapout s = .next t ∧ t.block? b.id = some b' ∧ b'.st = .swapped
        ∧ s.nextSeq < t.nextSeq ∧ (∀ e ∈ (t.core b.core).stores, e.blk ≠ b.id) ∧ b'.savedStores = s.blockStores b ∧ b'.tile = b.tile
        ∧ b'.groups = b.groups.map fun g => { g with latch := none, parkedAt := none, threads := g.threads.map fun t => t.mapYield fun c => c - s.clockOf b.core }))
  ∧ (∀ s : State, s.nextPeriod ≤ s.gtime → ∃ t, exec .budgetPeriod s = .next t ∧ t = { s with nextPeriod := s.nextPeriod + 10000, partitions := t.partitions }
      ∧ t.partitions.length = s.partitions.length
      ∧ ∀ x ∈ s.partitions.zip t.partitions, ∀ y ∈ x.1.budgets.zip x.2.budgets, y.2.cur = 0 ∧ y.2.last = y.1.cur ∧ y.2.limit = y.1.limit ∧ y.2.total = y.1.total
          ∧ y.2.throt = (if y.1.held then (y.1.throt + 1) % 2 ^ 32 else y.1.throt) ∧ y.2.held = false)
  ∧ (∀ (s : State) (p : Partition), s.part? p.num = some p → p.draining = false → (∀ l ∈ s.launches, l.part ≠ p.num) →
      let drained (t : State) : Prop := ∃ p', t.part? p.num = some p' ∧ p'.draining = false ∧ p'.closed = [] ∧ p'.preempting = none
        ∧ (∀ q ∈ t.queues, q.part = p.num → q.st = .halted ∨ q.st = .absent) ∧ (p.num < 16 → t.msix.getLsbD (2 + p.num) = true)
      (s.subject = .part p.num → s.takes 0x0B = true → ∃ t, exec .drain s = .next t ∧ drained t ∧ s.nextSeq + 2 ≤ t.nextSeq)
      ∧ ∀ q w, s.subject = .queue q.num → s.queue? q.num = some q → q.part = p.num → q.wdogFrom = some w → q.wdog ≠ 0 → w + 1000 * q.wdog ≤ s.gtime →
          ∃ t, exec .wdogExpire s = .next t ∧ drained t ∧ s.nextSeq + 2 ≤ t.nextSeq)
  ∧ (∀ (s : State) (p : Partition), s.part? p.num = some p → p.draining = false → (∃ l ∈ s.launches, l.part = p.num ∧ l.complete = false) →
      (∀ b ∈ s.blocks, s.launchPart b ≠ some p.num) → (∀ c ∈ p.cores, (s.core c).sent = []) → s.subject = .part p.num → s.takes 0x0B = true →
      ∃ t p', exec .drain s = .next t ∧ t.part? p.num = some p' ∧ p'.draining = true ∧ p'.held = [] ∧ p'.reservation = none ∧ t.mbBusy = false ∧ t.mbStatus = 0
        ∧ (∀ q ∈ t.queues, q.part = p.num → q.st = .halted ∨ q.st = .absent)
        ∧ ∀ l, s.launch? l.id = some l → l.part = p.num → l.complete = false →
            t.launch? l.id = some { l with stopped := true, status := max l.status 8, returned := max l.returned l.lr.weight.toNat, bars := [] })
  ∧ (∀ (s : State) (p : Partition) (n : Nat), s.part? p.num = some p →
      (s.subject = .preempt p.num n → 1 ≤ n → n ≤ p.cores.length → s.takes 0x09 = true → ∃ t p', exec .preempt s = .next t ∧ t.mbBusy = true
        ∧ t.part? p.num = some p' ∧ p'.preempting = some (p.cores.reverse.take n) ∧ ∀ c ∈ p.cores.reverse.take n, c ∈ p'.closed)
      ∧ (∀ cs, s.subject = .part p.num → p.preempting = some cs → (∀ c ∈ cs, ∀ b ∈ s.blocksOn c, b.st = .resident ∧ b.doomed = none) →
        let n := (cs.filter fun c => s.blocksOn c = []).length
        ∃ t p', exec .preemptDone s = .next t ∧ t.part? p.num = some p' ∧ p'.preempting = none ∧ t.mbBusy = false
          ∧ t.mbStatus = (if n < cs.length then 1 else 0) ∧ t.result = [n] ∧ t.nextSeq = s.nextSeq + 1))
  ∧ ∀ (s : State) (r : LogRing) (i : Nat), s.subject = .index i → s.logRing = some r →
      (r.readIdx ≤ i → i ≤ r.writeIdx → s.heldEvents = [] → (∀ b ∈ s.blocks, b.onCore = false) → ∃ t, exec .logReadIndexWrite s = .next t
        ∧ t = { s with logRing := some { r with readIdx := i, hints := r.hints.filter fun h => i ≤ h } })
      ∧ (i < r.readIdx ∨ r.writeIdx < i → ∃ t, exec .logReadIndexWrite s = .next t ∧ t = s)

/-! ## Firmware commands and the platform (spec 14, 16) -/

/-- R29, R308, R354, R414, R418, R425-R429, R433-R437: what each partition, queue, budget, communicator and log command does where the mailbox takes it: on
success its change, its results and a CMD event with status OK; on an error nothing but the event and the status; where it does not, nothing. What Q_CREATE
leaves of a descriptor, where the boot ring's records go and that a draining partition's queues stay HALTED are the model's choices (logs 77, 16, 53). -/
def Obligations.CommandsChangeQueuesPartitionsAndTheLog : Prop :=
  ∀ s : State, s.logRing = none ∨ (∃ r, s.logRing = some r ∧ r.used < r.size) → s.heldEvents = [] →
    -- a command that is taken with no error: `f` says what it leaves, and `res` its results
    let does (i : Instr) (code : Nat) (res : List Nat) (p : State → Prop) : Prop := (s.takes code = false → exec i s = .next s) ∧ (s.takes code = true →
      ∃ t, exec i s = .next t ∧ p t ∧ t.mbStatus = 0 ∧ t.mbCode = code ∧ t.result = res ∧ t.mbBusy = false ∧ t.blocks = s.blocks ∧ t.toPlat = s.toPlat)
    -- a command that fails with a status: only the log and the mailbox differ
    let fails (i : Instr) (code e : Nat) : Prop := s.takes code = true →
      ∃ t, exec i s = .next t ∧ t.mbStatus = e ∧ t.result = [] ∧ t.nextSeq = s.nextSeq + 1 ∧ t.queues = s.queues ∧ t.partitions = s.partitions ∧ t.comms = s.comms
    let queue (t : State) (q : Queue) : Prop := t.queue? q.num = some q
    (∀ mask part, s.subject = .partSet mask part → part < 16 → s.quadsBusy mask = false → does .partSet 0x01 [] fun t =>
        ∃ p, t.part? part = some p ∧ (∀ i < 48, mask.getLsbD i = true → p.quads.getLsbD i = true)
          ∧ ∀ x ∈ t.partitions, x.num ≠ part → x.quads &&& mask = 0)
    ∧ (∀ mask part, s.subject = .partSet mask part → 16 ≤ part → fails .partSet 0x01 3)
    ∧ (∀ p, s.subject = .part p.num → s.part? p.num = some p → (p.quads = 0 → (∀ q ∈ s.queues, q.part = p.num → q.st = .absent) →
          does .partFree 0x02 [] fun t => t.part? p.num = none)
        ∧ (p.quads ≠ 0 → fails .partFree 0x02 2)
        ∧ does .reopen 0x0A [] (fun t => ∃ p', t.part? p.num = some p' ∧ p'.closed = [])
        ∧ does .gazClear 0x10 [] fun t => ∀ g, g ∈ t.gaz ↔ g ∈ s.gaz ∧ g.part ≠ p.num)
    ∧ (∀ p pt ag cap, s.subject = .partParam p.num pt ag cap → s.part? p.num = some p → 4 ≤ pt → pt ≤ 1000 → 1 ≤ ag → ag ≤ 1000 → 4096 ≤ cap → cap ≤ 1048576 →
        does .partParam 0x08 [] fun t => t.part? p.num = some { p with pt := pt, agestep := ag, capacity := cap })
    ∧ (∀ part ctx (qbase : Dword) qsize n, s.subject = .qCreate part ctx qbase qsize → (s.part? part).isSome = true → ctx < 4096 →
        isLocal s.dev (normEa s.dev qbase.toNat) = true → normEa s.dev qbase.toNat % 128 = 0 → 4 ≤ qsize → qsize ≤ 16 → n < 1024 → s.queue? n = none →
        (∀ m < n, (s.queue? m).isSome = true) → does .qCreate 0x03 [n] fun t =>
          ∃ q, queue t q ∧ q.num = n ∧ q.part = part ∧ q.ctx = ctx ∧ q.qbase = qbase ∧ q.qsize = qsize ∧ q.st = .halted ∧ q.head = (s.descriptor n).head
            ∧ q.tail = (s.descriptor n).tail ∧ q.wgt = (s.descriptor n).wgt)
    ∧ (∀ q prio wgt wdog serial lok, s.subject = .qConfig q.num prio wgt wdog serial lok → s.queue? q.num = some q → prio ≤ 7 → wgt ≤ 255 → wdog < 2 ^ 20 →
        does .qConfig 0x04 [] fun t => queue t { q with prio := prio, wgt := if wgt = 0 then q.wgt else wgt, wdog := wdog, serial := serial, lok := lok })
    ∧ (∀ q, s.subject = .queue q.num → s.queue? q.num = some q →
        (s.logRing.isSome = true → (∀ p, s.part? q.part = some p → p.draining = false) → does .qEnable 0x05 [] fun t => queue t { q with st := .enabled, credit := q.wgt })
        ∧ (s.logRing = none ∨ (∃ p, s.part? q.part = some p ∧ p.draining = true) → fails .qEnable 0x05 2)
        ∧ does .qHalt 0x05 [] (fun t => queue t { q with st := .halted })
        ∧ (q.st = .halted → s.incomplete q.num = [] → does .qDestroy 0x06 [] fun t => t.queue? q.num = none)
        ∧ does .kick 0x0C [] fun t => queue t { q with wdogFrom := if s.incomplete q.num = [] then none else some s.gtime })
    ∧ (∀ n, s.subject = .queue n → s.queue? n = none → fails .qHalt 0x05 4 ∧ fails .kick 0x0C 4)
    ∧ (∀ p kind (limit : Dword) b, s.subject = .budget p.num kind limit → s.part? p.num = some p → kind < 4 → p.budgets[kind]? = some b →
        does .budgetSet 0x07 [] (fun t => ∃ p', t.part? p.num = some p' ∧ p'.budgets = p.budgets.set kind
            { b with limit := limit.toNat, held := b.held || decide (limit.toNat ≠ 0 ∧ limit.toNat ≤ b.cur) })
        ∧ does .budgetRead 0x07 [b.limit, b.cur, b.last, b.total, b.throt] fun t => t.partitions = s.partitions)
    ∧ (∀ part number (scope : BitVec 3) members (ms : Option Nat), s.subject = .comm part number scope members ms → (s.part? part).isSome = true → number < 65536 →
        (scope = 3 ∨ scope = 4 ∨ scope = 5 ∨ scope = 7) → members ≠ [] →
        (members.map fun m => (m.dev, m.launch, m.blkidx)).Nodup → (∀ m ∈ members, m.net.isSome = true ↔ scope = 7) → s.comm? part number = none →
        ((∀ n, ms = some n → 1 ≤ n ∧ n ≤ 1000) → does .commCreate 0x0F [] fun t => ∃ k, t.comm? part number = some k ∧ k.members = members ∧ k.scope = scope
          ∧ k.timeoutMs = ms.getD 100 ∧ k.joined = List.replicate members.length 0)
        ∧ (∀ n, ms = some n → (n = 0 ∨ 1000 < n) → fails .commCreate 0x0F 3))
    ∧ (∀ part number, s.subject = .commNumber part number → (s.comm? part number).isSome = true → does .commFree 0x0F [] fun t => t.comm? part number = none)
    ∧ (∀ base size, s.subject = .evlog base size → 8192 ≤ size → base / 2 ^ 40 < 4 → base % 2 ^ 40 + 32 * size ≤ 2 ^ 38 → s.logRing = none → s.hbm.wf = true → s.bootRing.length < 4096 →
        does .evlogSet 0x11 [s.leftOut] fun t => ∃ r, t.logRing = some r ∧ r.base = base ∧ r.size = size ∧ r.readIdx = 0 ∧ r.writeIdx = s.bootRing.length + 1
          ∧ t.bootRing = [] ∧ ∀ k < s.bootRing.length, t.hbm.readBytes (base + 32 * k) 32 = (s.bootRing.getD k ⟨0, 0, 0, 0, 0, 0, 0⟩).bytes)
    ∧ (∀ r on, s.logRing = some r → s.subject = .flag on → does .evlogStat 0x1B [r.readIdx, r.writeIdx + 1, r.hints.length, s.hintsDropped] fun t =>
        t.hintsDropped = if on then 0 else s.hintsDropped)
    ∧ (∀ peer schedule, s.subject = .replica peer schedule → peer < s.podSize → peer ≠ s.dev → does .replicaSet 0x12 [] fun t =>
        ∃ p, t.pair = some p ∧ p.peer = peer ∧ p.phase = .running)

/-- R244, R256, R257, R259, R261, R263, R264, R414: XLATE and MIGRATE replace an entry and start its move, which complete by their events; REPLICA_COMPARE runs a step again where the
digests differ and withdraws the device with the errors where they differ again. That a change of state which R261 does not list answers RANGE is the model's
choice (log 75), and so are the events that carry a comparison (log 55). -/
def Obligations.TranslationCommandsAndReplicaComparison : Prop :=
  (∀ (s : State) (k : EntryKey) (v : Dword), s.subject = .xlate k v → s.takes 0x0D = true → keyOk k = true → s.changing k = false →
    s.images = [] → (∀ c ∈ s.cores, c.stores = []) → let old := (s.entry? k).getD (Entry.blank k)
    let new := parseEntry k v
    let st := if v.getLsbD 63 then (if entryOk k v.toNat then stateOf (v.toNat / 2 ^ 60 % 8) else .rejected) else .unmapped
    let fdie := v.toNat / 2 ^ 44 % 4
    let addr := v.toNat / 2 ^ 8 % 2 ^ 32 * 256
    (old.st ≠ .filling → entryChange old new = true → (∀ e ∈ s.tableEntries 2 new, frameFits e = true) →
      ∃ t e, exec .xlate s = .next t ∧ t.mbStatus = 0 ∧ EntryMem s t k
        ∧ (st ≠ .filling → s.hbm.wf = true → ∀ a, s.entryPlace k = some a → t.hbm.readNat a 8 = v.toNat)
        ∧ t.entry? k = some e ∧ e.changeAt = some (s.gtime + if old.st = .moving then 0 else s.longestLease k) ∧ e.st = st
        ∧ e.pr = v.getLsbD 49 ∧ e.pw = v.getLsbD 48 ∧ e.pa = v.getLsbD 47 ∧ e.nm = v.getLsbD 46 ∧ e.fdie = fdie ∧ e.addr = addr)
    ∧ ((stateChange old.st st = false ∨ (st = .host ∧ k.table ≠ 4) ∨ (st = .resident ∧ frameOk k fdie addr = false)
          ∨ (old.st = st ∧ (st = .resident ∨ st = .host) ∧ (old.fdie, old.addr) ≠ (fdie, addr))) →
        ∃ t, exec .xlate s = .next t ∧ t.mbStatus = 3 ∧ t.entries = s.entries ∧ SameButLog s t))
  ∧ (∀ (s : State) (k : EntryKey) (e : Entry) (target : MoveTarget), s.subject = .migrate k target → s.takes 0x0E = true → s.entry? k = some e → e.key = k →
    e.changeAt = none → (e.st = .resident ∨ e.st = .host) → e.nm = false → s.images = [] → (∀ c ∈ s.cores, c.stores = []) →
    let fits (fdie addr : Nat) : Prop := fdie < 4 ∧ addr + keySize k ≤ 2 ^ 38 ∧ addr % keySize k = 0
    let ok : Prop := match target with
      | .frame fdie addr => e.st = .resident ∧ fits fdie addr
      | .toHost addr => e.st = .resident ∧ k.table = 4 ∧ addr < 2 ^ 40 ∧ addr % keySize k = 0
      | .toDevice fdie addr => e.st = .host ∧ fits fdie addr
      | .pageOut => e.st = .resident
    (¬ok → ∃ t, exec .migrate s = .next t ∧ t.mbStatus = 3 ∧ t.entries = s.entries)
    ∧ (ok → e.settled = false ∨ target = .pageOut → ∃ t, exec .migrate s = .next t ∧ t.mbStatus = 0 ∧ EntryMem s t k
      ∧ t.entry? k = some { e with st := .moving, move := some target, changeAt := some (s.gtime + e.granted), changed := s.gtime, granted := 0 })
    ∧ (ok → e.settled = true → target ≠ .pageOut → ∃ t, exec .migrate s = .next t ∧ t.mbStatus = 6 ∧ t.entries = s.entries))
  ∧ ∀ (s : State) (p : Replica2) own peer pe, s.subject = .digests own peer pe → s.pair = some p → p.peerWithdrawn = false → p.phase ≠ .withdrawn →
      ∃ t p', exec .replicaCompare s = .next t ∧ t.pair = some p'
        ∧ (p.phase = .running → p'.phase = (if own = peer then .running else .rerun))
        ∧ (p.phase = .rerun → own = peer → p'.phase = .running ∧ t.nextSeq = s.nextSeq + 1)
        ∧ (p.phase = .rerun → own ≠ peer → (p'.phase = .withdrawn ↔ s.ownErrors p = true ∨ pe = false)
          ∧ (p'.peerWithdrawn = true ↔ pe = true ∨ s.ownErrors p = false))

/-! ## Member events (spec 03, 10, 15) -/

/-- R331: ACCST of the whole live group stores, for each lane, the lane's row of the tile converted to the destination format, at S[A] + lane * S[B]:
into the tile store, or into the core's pending stores; the members go on behind it and the flags of the rows are added to MMAFLAGS (log 38: more than 128 lines go through an empty
buffer). -/
def Obligations.AccstStoresTheRowOfEachLane : Prop :=
  ∀ (s : State) (c : Sel) (o : OpR), Issues s c (.accst o) → WholeSet s c → Plain s c → c.g.flights = [] →
    let w := ((accstFmt (o.d.toNat / 16)).mag + 1) / 8
    let a := (c.g.sPair o.a.toNat).toNat
    let st := (c.g.sr o.b.toNat).toNat
    let ea (l : Nat) : Nat := normEa s.dev (a + l * st)
    let row (l : Nat) : List Byte := (accstRow o c.g l).1
    a % w = 0 → st % w = 0 → (∀ l ∈ c.lanes, (c.thread l).pc = c.issue.pc) →
    (∀ l ∈ c.lanes, AccessOk s c (ea l) (64 * w) 1 ∧ OwnedOk c (ea l) (64 * w) ∧ (isLocal s.dev (ea l) = true ∨ eaSpace (ea l) = 3)) →
    ∃ t, exec (.accst o) s = .next t ∧ OnlyGroup s t c.blk c.grp ∧ t.group? c.blk c.grp = some (c.waiting (.accst o)) ∧
      let s' := { t with subject := .wait c.blk c.grp c.issue.pc }
      let done (u : State) : Prop := ∃ g', u.group? c.blk c.grp = some g' ∧ g'.waits = [] ∧ g'.s = c.g.s ∧ g'.acc = c.g.acc
        ∧ g'.mmaflags = c.g.mmaflags ||| (c.lanes.foldl (fun fl l => fl ||| (accstRow o c.g l).2) 0).setWidth 5
        ∧ ∀ lane th, c.g.threads[lane]? = some th → g'.threads[lane]? = some (if c.issue.lanes.getLsbD lane then (th.setState .runnable).pass (Instr.len (.accst o)) else th)
      let inTile := c.lanes.flatMap fun l => (row l).zipIdx.map fun x => (eaOff (ea l) + x.2, x.1)
      let pairs := c.lanes.flatMap fun l => (s.bytesAt c l (ea l) (64 * w)).zip (row l)
      ((∀ l ∈ c.lanes, eaSpace (ea l) = 3) → c.b.tile.wf = true → (s.core c.b.core).stores = [] →
        ∃ u, exec .memberWaitComplete s' = .next u ∧ OnlyBlocks s' u ∧ done u
          ∧ ∀ b, u.block? c.blk = some b → ∀ x, b.tile.read x = (lastWrite inTile x).getD (c.b.tile.read x))
      ∧ ((∀ l ∈ c.lanes, eaSpace (ea l) ≠ 3) → (s.core c.b.core).stores = [] → (∀ x ∈ pairs, ∀ ln ∈ (s.core c.b.core).lines, ln.key.line ≠ x.1 / 128) →
        ∃ u, exec .memberWaitComplete s' = .next u ∧ OnlyCore s' u c.b.core ∧ done u ∧ (u.core c.b.core).lines = (s.core c.b.core).lines
          ∧ ∀ x, (u.core c.b.core).storedByte c.l.ctx x = lastWrite pairs x)

/-- R88, R89, R442, R444-R446: where every live thread of a group is member-waiting and no wait can complete, each takes MASKFLT detail 3 at its own PC; a
thread with an imprecise record that is about to issue, sleeps, yields or waits (in a BAR, or at one for the group's previous phase, whose other
threads then wait at the instruction again) enters its handler with the oldest one (log 59: its REGO is that of the place of interruption). -/
def Obligations.ThreadsAreTrappedWhereTheyWait : Prop :=
  ∀ (s : State) (b : Block) (l : Launch) (g : Group), s.block? b.id = some b → s.group? b.id g.idx = some g → s.launch? b.launch = some l →
    l.lr.handler ≠ 0 → b.st = .resident → g.halted = false →
    (s.subject = .group b.id g.idx → g.threads.length = 64 → LogRoom s 64 → (∀ th ∈ g.threads, (th.st = .member ∧ th.trap = none) ∨ th.st = .exited) →
      (∃ th ∈ g.threads, th.st = .member) → (∀ w ∈ g.waits, w.complete = false) → ∃ t g', exec .unsatisfiableWait s = .next t ∧ OnlyLog s t
        ∧ (∀ x, x ≠ b.id → t.block? x = s.block? x) ∧ (∀ x, x ≠ g.idx → t.group? b.id x = s.group? b.id x) ∧ t.group? b.id g.idx = some g' ∧ g'.waits = []
        ∧ t.nextSeq = s.nextSeq + (g.threads.filter fun th => th.st == .member).length
        ∧ ∀ (lane : Nat) th, g.threads[lane]? = some th → ∃ th', g'.threads[lane]? = some th' ∧ (th.st = .exited → th' = th)
            ∧ (th.st = .member →
                let k := ((g.threads.take lane).filter fun x => x.st == .member).length
                let r : FaultRec := { seql := BitVec.ofNat 32 (s.nextSeq + k), block := BitVec.ofNat 32 b.blkidx, rego := (th.region - l.lr.code).setWidth 32,
                                      pco := (th.pc - l.lr.code).setWidth 32, addr := 0, detail := 3, grp := BitVec.ofNat 7 g.idx, lane := BitVec.ofNat 6 lane, code := 0x03 }
                th' = { th with trap := some { resume := th.pc, region := th.region, record := r }, last := some r, st := .runnable,
                                pc := l.lr.handler, region := l.lr.handler, armRecord := none }))
    ∧ ∀ (lane : Nat) (th : Thread) (r : FaultRec) (rest : List FaultRec), s.subject = .lane b.id g.idx lane → g.threads[lane]? = some th → s.heldEvents = [] →
        th.imprecise = r :: rest → th.trap = none → th.horizon = none →
        let x : FaultRec := { r with rego := (th.region - l.lr.code).setWidth 32 }
        let entered : Thread := { th with imprecise := rest, trap := some { resume := th.pc, region := th.region, record := x }, last := some x,
                                          st := .runnable, pc := l.lr.handler, region := l.lr.handler, armRecord := none }
        ((th.st = .runnable ∨ (∃ until_ len, th.st = .sleeping until_ len) ∨ (∃ k cycle len, th.st = .yielding k cycle len)
            ∨ ∃ w, th.st = .waiting w ∧ w ≠ .arrive) →
          ∃ t, exec .impreciseFaultDelivery s = .next t ∧ OnlyGroup s t b.id g.idx
            ∧ (∀ m, m ≠ lane → t.thread? b.id g.idx m = s.thread? b.id g.idx m) ∧ t.thread? b.id g.idx lane = some entered)
        ∧ ∀ a, th.st = .waiting .arrive → g.arrival = some a → lane < 64 →
          let others := (List.range 64).filter fun k => k != lane && (g.thread k).st == .waiting .arrive
          ∃ t g', exec .impreciseFaultDelivery s = .next t ∧ OnlyGroup s t b.id g.idx ∧ t.group? b.id g.idx = some g' ∧ g'.arrival = none
            ∧ (others ≠ [] → ∃ w, g'.waits = g.waits ++ [w] ∧ w.instr = a.wait.instr ∧ w.snapshot = g.liveLanes ∧ lanesOf w.arrived = others)
            ∧ g'.threads[lane]? = some entered
            ∧ ∀ (m : Nat) u, m ≠ lane → g.threads[m]? = some u → g'.threads[m]? = some (if m ∈ others then u.setState .member else u)
/-! ## The debug port (spec 15) -/

/-- R324, R453, R458-R460, R471, R473: the operations of the debug port and the address breakpoints: a halt stops a group and logs a BKPT record without touching its registers,
RESUME and STEP let it go on, DBG-RD and DBG-WR reach the named item of a halted group, and the statuses of R436 answer where they cannot; outside Active none of them does anything (R33), and a master
that may not write the port's page is answered nothing. That an operation is an input with its operands and a halt of a halted group succeeds are the
model's choices (logs 56, 60). -/
def Obligations.DebugOperationsHaltResumeAndReach : Prop :=
  ∀ s : State,
    -- a failed operation only answers its status
    let fails (i : Instr) (e : Nat) : Prop := exec i s = .next { s with result := [e] }
    -- a group is halted, with one more event in the log
    let halted (i : Instr) (res : List Nat) (b : Block) (g : Group) : Prop := ∃ t, exec i s = .next t ∧ OnlyLog { s with result := res } t
      ∧ t.nextSeq = s.nextSeq + 1 ∧ (∀ x, x ≠ b.id → t.block? x = s.block? x) ∧ (∀ x, x ≠ g.idx → t.group? b.id x = s.group? b.id x)
      ∧ t.group? b.id g.idx = some { g with halted := true, stepping := false, stepped := 0, skipBreak := 0 }
    -- one group changes
    let only (i : Instr) (res : List Nat) (b : Block) (g g' : Group) : Prop := ∃ t, exec i s = .next t ∧ OnlyGroup { s with result := res } t b.id g.idx
      ∧ t.group? b.id g.idx = some g'
    let port (p : DbgPort) : Bool := s.aclGrants .control p.master .wr (0x10000 + 0x1000 * p.part) (0x10000 + 0x1000 * p.part + 4095)
    let ops (n : GroupName) (p : DbgPort) : Prop := s.subject = .dbg p n ∨ (∃ blk, s.subject = .resume p n blk) ∨ (∃ lane x, s.subject = .dbgRead p n lane x)
      ∨ (∃ lane x v, s.subject = .dbgWrite p n lane x v) ∨ (∃ on, s.subject = .dbgen p on) ∨ ∃ k a, s.subject = .brk p k a
    (s.power ≠ .active → ∀ i ∈ [Instr.dbgen, .brk, .halt, .haltb, .resume, .step, .dbgRd, .dbgWr], exec i s = .next s.idle)
    ∧ (s.power = .active →
    (∀ n p, ops n p → port p = false → ∀ i ∈ [Instr.dbgen, .brk, .halt, .haltb, .resume, .step, .dbgRd, .dbgWr],
        (p.master ≠ 0x21 → exec i s = .next { s with result := [] })
        ∧ (p.master = 0x21 → ∃ t, exec i s = .next t ∧ OnlyLog { s with result := [] } t ∧ t.nextSeq = s.nextSeq + 1 ∧ t.blocks = s.blocks))
    ∧ (∀ (d : DbgPort) p on, s.subject = .dbgen d on → d.part = p.num → port d = true → (s.part? p.num = some p → ∃ t, exec .dbgen s = .next t ∧ t = { s with partitions := t.partitions, result := [0] }
          ∧ t.part? p.num = some { p with debug := on })
        ∧ (s.part? p.num = none → fails .dbgen 4))
    ∧ (∀ (d : DbgPort) p index (x : Dword), s.subject = .brk d index x → d.part = p.num → port d = true → s.part? p.num = some p →
        (index < 8 → ∃ t, exec .brk s = .next t ∧ t = { s with partitions := t.partitions, result := [0] } ∧ t.part? p.num = some { p with breaks := p.breaks.set index (if x = 0 then none else some x) })
        ∧ (8 ≤ index → fails .brk 3))
    ∧ (∀ d n, port d = true → s.named? d n = none → (s.subject = .dbg d n → fails .halt 2 ∧ fails .haltb 2 ∧ fails .step 2)
        ∧ (∀ blk, s.subject = .resume d n blk → fails .resume 2) ∧ (∀ lane x, s.subject = .dbgRead d n lane x → fails .dbgRd 2)
        ∧ ∀ lane x v, s.subject = .dbgWrite d n lane x v → fails .dbgWr 2)
    ∧ (∀ (d : DbgPort) (n : GroupName) (b : Block) (g : Group) (l : Launch), port d = true → s.named? d n = some (b, g) → s.block? b.id = some b → s.group? b.id g.idx = some g →
        s.launch? b.launch = some l →
        (s.subject = .dbg d n → (g.halted = false → LogRoom s 1 → halted .halt [0] b g) ∧ (g.halted = true → fails .halt 0)
          ∧ (LogRoom s b.groups.length → (∀ x ∈ b.groups.zipIdx, x.1.idx = x.2) → ∃ t, exec .haltb s = .next t ∧ OnlyLog { s with result := [0] } t
              ∧ (∀ x, x ≠ b.id → t.block? x = s.block? x) ∧ t.nextSeq = s.nextSeq + (b.groups.filter fun h => !h.ended && !h.halted).length
              ∧ ∀ h ∈ b.groups, t.group? b.id h.idx = some (if h.ended || h.halted then h else { h with halted := true, stepping := false, stepped := 0, skipBreak := 0 }))
          ∧ (g.halted = true → only .step [0] b g { g with stepping := true }) ∧ (g.halted = false → fails .step 2))
        ∧ (s.subject = .resume d n false → (g.halted = true → only .resume [0] b g { g with halted := false, stepping := false, stepped := 0, skipBreak := g.atPc })
          ∧ (g.halted = false → fails .resume 2))
        ∧ (s.subject = .resume d n true → (b.groups.any Group.halted = false → fails .resume 2) ∧ (b.groups.any Group.halted = true → ∃ t, exec .resume s = .next t ∧ OnlyBlocks { s with result := [0] } t
              ∧ (∀ x, x ≠ b.id → t.block? x = s.block? x) ∧ ∀ (k : Nat) h, s.group? b.id k = some h → t.group? b.id k =
                  some (if h.halted then { h with halted := false, stepping := false, stepped := 0, skipBreak := h.atPc } else h)))
        ∧ (∀ lane x, s.subject = .dbgRead d n lane x → (g.halted = false → fails .dbgRd 2) ∧ (g.halted = true →
            let th := g.thread lane
            let reads (v : Nat) : Prop := exec .dbgRd s = .next { s with result := [0, v] }
            (64 ≤ lane → fails .dbgRd 3)
            ∧ (lane < 64 → ∀ k, x = .v k → if k < g.vallot then reads (th.vr k).toNat else fails .dbgRd 3)
            ∧ (lane < 64 → ∀ k, x = .s k → if k < g.uallot then reads (g.sr k).toNat else fails .dbgRd 3)
            ∧ (lane < 64 → ∀ k, x = .k k → if k < 12 then reads (g.kr k).toNat else fails .dbgRd 3)
            ∧ (lane < 64 → ∀ k, x = .p k → if k < 7 then reads (if th.pr k then 1 else 0) else fails .dbgRd 3)
            ∧ (lane < 64 → ∀ k i j, x = .acc k i j → if k < g.acc.length ∧ i < 64 ∧ j < 64 then reads ((g.acc.getD k []).get i j).toNat else fails .dbgRd 3)
            ∧ (lane < 64 → (x = .pc → reads th.pc.toNat) ∧ (x = .region → reads th.region.toNat) ∧ (x = .fpenv → reads th.fpenv.toNat) ∧ (x = .fpflags → reads th.fpflags.toNat)
              ∧ (x = .trapResume → reads (match th.trap with | some k => k.resume.toNat | none => 0))
              ∧ (x = .trapRegion → reads (match th.trap with | some k => k.region.toNat | none => 0)))))
        ∧ ∀ lane x (v : Dword), s.subject = .dbgWrite d n lane x v → (g.halted = false → fails .dbgWr 2) ∧ (g.halted = true → lane < 64 →
            let thread (f : Thread → Thread) : Prop := only .dbgWr [0] b g { g with threads := g.threads.modify lane f }
            (∀ k, x = .v k → if k < g.vallot then only .dbgWr [0] b g { g with
                threads := g.threads.modify lane (fun t => { t with v := t.v.set k (v.setWidth 32) })
                latch := match g.latch with | some (first, _, n) => if first ≤ k ∧ k < first + n then none else g.latch | none => none } else fails .dbgWr 3)
            ∧ (∀ k, x = .s k → if k < g.uallot then only .dbgWr [0] b g { g with s := g.s.set k (v.setWidth 32) } else fails .dbgWr 3)
            ∧ (∀ k, x = .k k → if k < 12 then only .dbgWr [0] b g { g with k := g.k.set k v } else fails .dbgWr 3)
            ∧ (∀ k i j, x = .acc k i j → if k < g.acc.length ∧ i < 64 ∧ j < 64 then ∃ t g', exec .dbgWr s = .next t ∧ OnlyGroup { s with result := [0] } t b.id g.idx
                ∧ t.group? b.id g.idx = some g' ∧ g' = { g with acc := g'.acc } ∧ g'.acc.length = g.acc.length ∧ (∀ m, m ≠ k → g'.acc.getD m [] = g.acc.getD m [])
                ∧ ∀ a e, a < 64 → e < 64 → (g'.acc.getD k []).get a e = if a = i ∧ e = j then v.setWidth 32 else (g.acc.getD k []).get a e else fails .dbgWr 3)
            ∧ (x = .trapResume → if (g.thread lane).trap = none then fails .dbgWr 2 else thread fun t => { t with trap := t.trap.map fun k => { k with resume := v } })
            ∧ (x = .pc → thread fun t => { t with pc := v }) ∧ (x = .region → thread fun t => { t with region := v })))
    ∧ ∀ (b : Block) (g : Group) (l : Launch) (p : Partition), s.subject = .group b.id g.idx → s.block? b.id = some b → s.group? b.id g.idx = some g →
        s.launch? b.launch = some l → s.part? l.part = some p → p.debug = true → b.st = .resident → g.halted = false → LogRoom s 1 →
        (∃ lane < 64, (g.thread lane).st = .runnable ∧ (g.thread lane).horizon = none ∧ g.skipBreak.getLsbD lane = false
          ∧ ∃ x ∈ p.breaks, ∃ a : Dword, x = some a ∧ normEa s.dev a.toNat = normEa s.dev (g.thread lane).pc.toNat) →
        halted .addressBreakpointHalt s.result b g)
/-! ## Platform commands (spec 16) -/

/-- R4, R5, R437, R464-R466, R469, R471-R479: what each platform command and a write of a mailbox register does where the mailbox takes it: on success its
change of the platform, its results and a CMD event with status OK; on an error nothing but the event and the status. The layouts of an image, of a report
and of the mailbox's argument words, the classes of ECC_READ and the rail power are open values (logs 2, 22, 56, 61, 62, 65, 66). -/
def Obligations.PlatformCommandsChangeThePlatform : Prop :=
  ∀ s : State, LogRoom s 1 → s.heldEvents = [] →
    let does (i : Instr) (code : Nat) (res : List Nat) (p : State → Prop) : Prop := s.takes code = true →
      ∃ t, exec i s = .next t ∧ p t ∧ t.mbStatus = 0 ∧ t.mbCode = code ∧ t.result = res ∧ t.mbBusy = false ∧ t.blocks = s.blocks ∧ t.nextSeq = s.nextSeq + 1
        ∧ t.queues = s.queues ∧ t.partitions = s.partitions ∧ t.host = s.host
    let fails (i : Instr) (code e : Nat) : Prop := s.takes code = true →
      ∃ t, exec i s = .next t ∧ t.mbStatus = e ∧ t.result = [] ∧ t.nextSeq = s.nextSeq + 1 ∧ t.toPlat = s.toPlat ∧ SameButLog s t ∧ t.blocks = s.blocks
    -- the platform's registers after a command that changes them by `f`
    let plat (f : Plat → Plat) (t : State) : Prop := t.toPlat = f s.toPlat ∧ SameButLog s t
    (∀ dev p (routes : List (Nat × BitVec 36)), s.subject = .podSet dev p routes →
        (s.blocks.any Block.onCore = false → 1 ≤ p → p ≤ 576 → dev < p → (∀ r ∈ routes, r.1 < p) →
          does .podSet 0x13 [] (plat fun x => { x with dev := dev, podSize := p, routes := routes, unreachable := [] }))
        ∧ (s.blocks.any Block.onCore = true → fails .podSet 0x13 2)
        ∧ (s.blocks.any Block.onCore = false → (p = 0 ∨ 576 < p ∨ p ≤ dev ∨ ∃ r ∈ routes, p ≤ r.1) → fails .podSet 0x13 3))
    ∧ (∀ (target : AclTarget) index (e : BitVec 128), s.subject = .acl target index e →
        let held : AclEntry := { target := target, index := index, last := (e.toNat / 2 ^ 84) % 2 ^ 44, first := (e.toNat / 2 ^ 40) % 2 ^ 44,
                                 master := (e.toNat / 2 ^ 4) % 2 ^ 6, at_ := e.getLsbD 2, wr := e.getLsbD 1, rd := e.getLsbD 0 }
        (targetOk target = true → index < 64 → does .aclSet 0x14 [] fun t => SameButLog s t ∧ t.toPlat = { s.toPlat with acl := t.acl }
            ∧ ∀ x, x ∈ t.acl ↔ (x ∈ s.acl ∧ ¬(x.target = target ∧ x.index = index)) ∨ (e.getLsbD 16 = true ∧ x = held))
        ∧ (targetOk target = false ∨ 64 ≤ index → fails .aclSet 0x14 3))
    ∧ (∀ port (ip : BitVec 128), s.subject = .net port ip →
        (port < 8 → does .netSet 0x1A [] (plat fun x => { x with netAddr := x.netAddr.set port ip })) ∧ (8 ≤ port → fails .netSet 0x1A 3))
    ∧ (s.subject = .flag true → does .pwrState 0x15 [] (plat fun x => { x with power := .active }))
    ∧ (s.subject = .flag false →
        let idle : Prop := (∀ q ∈ s.queues, q.st ≠ .enabled) ∧ (∀ b ∈ s.blocks, b.st = .ended ∨ b.st = .killed) ∧ ∀ l ∈ s.launches, l.dispatching = false
        (idle → does .pwrState 0x15 [] (plat fun x => { x with power := .standby })) ∧ (¬idle → fails .pwrState 0x15 2))
    ∧ (∀ w, s.subject = .watts w → (2000 ≤ w → w ≤ 10000 → w % 100 = 0 → does .pwrCap 0x15 ((List.range 4).map fun die => Config.railPower die s.freeCount) (plat fun x => { x with powerCap := w }))
        ∧ (w < 2000 ∨ 10000 < w ∨ w % 100 ≠ 0 → fails .pwrCap 0x15 3))
    ∧ (∀ cls die clear n, s.subject = .ecc cls die clear → cls < 8 → die < 4 → s.eccCounts.find? (fun c => c.1 == cls && c.2.1 == die) = some (cls, die, n) → s.logRing = none ∨ s.soft = [] →
        does .eccRead 0x16 [n] fun t => t.toPlat = s.toPlat ∧ (clear = false → t.eccCounts = s.eccCounts) ∧ (clear = true → ∀ m, (cls, die, m) ∉ t.eccCounts))
    ∧ (∀ p failures, s.subject = .selftest p.num failures → s.part? p.num = some p → 
        (∀ b ∈ s.blocks, s.launchPart b = some p.num → b.st = .ended ∨ b.st = .killed) →
        does .selftest 0x17 (p.cores.filter fun c => failures.contains c) fun t => SameButLog s t ∧ t.toPlat = { s.toPlat with selftestFailed := t.selftestFailed }
          ∧ ∀ c, c ∈ t.selftestFailed ↔ c ∈ s.selftestFailed ∨ (c ∈ p.cores ∧ c ∈ failures))
    ∧ (∀ a n, s.subject = .image a n → 29856 ≤ n → a / 2 ^ 40 < 4 → a % 2 ^ 40 + n ≤ 2 ^ 38 → s.hbm.wf = true →
        (∀ r, s.logRing = some r → r.slot 0 + 32 ≤ a ∨ a + n ≤ r.slot 0) →
        let bytes := s.hbm.readBytes a n
        let good : Prop := shake256 (Config.imageKey bytes) = Config.romKeyDigest ∧ Config.signatureOk bytes = true
          ∧ Config.fuseCount.val ≤ Config.imageVersion bytes
        (good → does .fwLoad 0x18 [] (plat fun x => { x with fwValid := true, fwVersion := Config.imageVersion bytes, fwImage := bytes }))
        ∧ (¬good → fails .fwLoad 0x18 8))
    ∧ (∀ (nonce : BitVec 256) buffer, s.subject = .attest nonce buffer → buffer / 2 ^ 40 < 4 → buffer % 2 ^ 40 + 30016 ≤ 2 ^ 38 → s.hbm.wf = true → does .attest 0x19 [] fun t =>
        t.toPlat = s.toPlat ∧ t.hbm.readBytes buffer 32 = bytesLE 32 nonce.toNat ∧ t.hbm.readBytes (buffer + 96) 64 = shake256 s.fwImage
          ∧ ∃ m, LogMem s { t with hbm := m } ∧ ∀ a, a < buffer ∨ buffer + 30016 ≤ a → t.hbm.read a = m.read a)
    ∧ (∀ offset (v : Word), s.subject = .register offset v → s.power ≠ .active → exec .registerWrite s = .next s.idle)
    ∧ (∀ offset (v : Word), s.subject = .register offset v → s.power = .active →
        (s.aclGrants .control 0x20 .wr offset (offset + 3) = false → exec .registerWrite s = .next { s with result := [] })
        ∧ (s.aclGrants .control 0x20 .wr offset (offset + 3) = true →
            (256 ≤ offset → offset < 1024 → offset % 4 = 0 → ∃ t, exec .registerWrite s = .next t ∧ t = { s with mailbox := t.mailbox }
              ∧ ∀ n, assoc t.mailbox n = if n = offset / 4 then some v else assoc s.mailbox n)
            ∧ (1024 ≤ offset ∨ (0 < offset ∧ offset < 256) ∨ offset % 4 ≠ 0 → exec .registerWrite s = .next s)
            ∧ (offset = 0 → s.takes (v.toNat % 256) = false → exec .registerWrite s = .next s)
            ∧ (offset = 0 → 1 ≤ v.toNat % 256 → v.toNat % 256 ≤ 0x1B → s.takes (v.toNat % 256) = true →
                let names (y : Instr × Subject) : Prop := Config.commandArgs (v.toNat % 256) s.mailbox = some y ∧ (y.1, v.toNat % 256) ∈ commandRows
                (∀ y, names y → exec .registerWrite s = .next { s with inbox := y :: s.inbox })
                ∧ ((∀ y, ¬names y) → ∃ t, exec .registerWrite s = .next t ∧ t.nextSeq = s.nextSeq + 1 ∧ t.result = [] ∧ t.mbStatus = 3
                    ∧ t.mbCode = v.toNat % 256 ∧ t.toPlat = s.toPlat ∧ t.blocks = s.blocks))
            ∧ (offset = 0 → (v.toNat % 256 = 0 ∨ 0x1B < v.toNat % 256) → s.takes (v.toNat % 256) = true → ∃ t, exec .registerWrite s = .next t ∧ t.nextSeq = s.nextSeq + 1
                ∧ t.result = [] ∧ t.mbCode = v.toNat % 256 ∧ t.mbStatus = s.choose 256 ∧ t.toPlat = s.toPlat ∧ t.blocks = s.blocks)))
/-! ## Links, power, the host and the pod (spec 01, 06, 07, 16) -/

/-- R21, R33, R467-R469, R476: a link that fails is logged, a device whose every port has been down for 100 us is unreachable, a port that returns ends that;
replays are counted; power and clock steps change the platform alone, but for a power off, which loses all that stands in the package; a power-on finds a valid
firmware image or none (logs 64, 68). -/
def Obligations.LinksPowerAndClocksChangeThePlatform : Prop :=
  ∀ s : State,
    -- the step goes on, and only the platform's registers differ, by `f`
    let plat (i : Instr) (f : Plat → Plat) : Prop := exec i s = .next { s with toPlat := f s.toPlat }
    (∀ p, s.subject = .port p →
        (s.power ≠ .off → p < 36 → assoc s.portsDown p = none → ∃ t, exec .linkDown s = .next t ∧ t.nextSeq = s.nextSeq + 1 ∧ t.blocks = s.blocks
            ∧ t.toPlat = { s.toPlat with portsDown := s.portsDown ++ [(p, s.gtime)] })
        ∧ (s.power = .active → p < 36 → assoc s.portsDown p = none → plat .flitReplay fun x => { x with replays := x.replays.modify p (· + 1) })
        ∧ ((assoc s.portsDown p).isSome = true → ∃ t, exec .portReturn s = .next t ∧ t = { s with portsDown := t.portsDown, unreachable := t.unreachable }
            ∧ (∀ q, q ∈ t.portsDown ↔ q ∈ s.portsDown ∧ q.1 ≠ p)
            ∧ ∀ d, d ∈ t.unreachable ↔ d ∈ s.unreachable ∧ (assocD s.routes d (0 : BitVec 36)).getLsbD p = false))
    ∧ (∀ d, s.subject = .device d → d < s.podSize → d ≠ s.dev → d ∉ s.unreachable →
        (∀ p < 36, (assocD s.routes d (0 : BitVec 36)).getLsbD p = true → ∃ w, assoc s.portsDown p = some w) →
        (∀ q ∈ s.portsDown, q.2 + 100000 ≤ s.gtime) → 100000 ≤ s.gtime →
        plat .deviceUnreachable fun x => { x with unreachable := x.unreachable ++ [d] })
    ∧ (s.power = .standby → plat .standbyWake fun x => { x with power := .active })
    ∧ (s.power = .off → ∃ t, exec .powerOn s = .next t ∧ t.power = .active ∧ t.hbm = [] ∧ t.blocks = [] ∧ t.queues = [] ∧ t.entries = [] ∧ t.cores = [] ∧ t.gtime = 0
        ∧ (t.fwValid = true ↔ s.subject ≠ .flag false)
        ∧ t.freq = [27, 27, 27, 27] ∧ t.host = s.host ∧ t.remote = s.remote ∧ t.partitions = [Partition.new 0 (BitVec.allOnes 48)])
    ∧ (s.power ≠ .off → ∃ t, exec .powerOff s = .next t ∧ t.power = .off ∧ t.hbm = [] ∧ t.blocks = [] ∧ t.cores = [] ∧ t.host = s.host ∧ t.remote = s.remote)
    ∧ ∀ die f, s.power = .active → die < 4 → s.freq[die]? = some f →
        (s.subject = .clockStep die true → 12 ≤ f → f < 27 → plat .arithmeticClockStep fun x => { x with freq := x.freq.set die (f + 1) })
        ∧ (s.subject = .clockStep die false → 12 < f → f ≤ 28 → plat .arithmeticClockStep fun x => { x with freq := x.freq.set die (f - 1) })

/-- R192, R242, R461-R463, R471-R473: the host reads and writes HBM through its decoders where the access tables grant it, with an ACCESS-DENY event and zeros where
they do not; its AtomicOps give the old value; a snoop misses; another device's access is performed at its home here, or answered without an effect (log 63: the coding of the answers; log 61: the
masters). -/
def Obligations.HostAndPodAccessesReachTheirHome : Prop :=
  ∀ s : State, s.power = .active → s.images = [] → s.hbm.wf = true →
    -- ECC finds a byte of a range uncorrectable (R31)
    let spoiled (a n : Nat) : Bool := (spansOf a n).any fun line => s.spoiled (.hbm (128 * line))
    (∀ hpa n a, s.subject = .host hpa (.read n) → n ≠ 0 → s.hdmPlace hpa = some a → s.hdmPlace (hpa + n - 1) = some (a + n - 1) →
        (spoiled a n = true → s.frameGrants 0x21 .rd a n = true → exec .hostCxlMemAccess s = .next { s with result := [] })
        ∧ (spoiled a n = false → s.frameGrants 0x21 .rd a n = true → ∃ t, exec .hostCxlMemAccess s = .next t ∧ SameMem s t ∧ t.result = (s.hbm.readBytes a n).map BitVec.toNat ∧ t.nextSeq = s.nextSeq)
        ∧ (s.frameGrants 0x21 .rd a n = false → ∃ t, exec .hostCxlMemAccess s = .next t ∧ t.result = List.replicate n 0 ∧ t.nextSeq = s.nextSeq + 1))
    ∧ (∀ hpa (bs : List Byte) a, s.subject = .host hpa (.write bs) → bs ≠ [] → s.hdmPlace hpa = some a → s.hdmPlace (hpa + bs.length - 1) = some (a + bs.length - 1) →
        (spoiled a bs.length = true → s.frameGrants 0x21 .wr a bs.length = true → exec .hostCxlMemAccess s = .next { s with result := [] })
        ∧ (spoiled a bs.length = false → s.frameGrants 0x21 .wr a bs.length = true → ∃ t, exec .hostCxlMemAccess s = .next t ∧ t.host = s.host ∧ t.remote = s.remote ∧ t.backing = s.backing
            ∧ ∀ x, t.hbm.read x = if a ≤ x ∧ x < a + bs.length then bs.getD (x - a) 0 else s.hbm.read x)
        ∧ (s.frameGrants 0x21 .wr a bs.length = false → ∃ t, exec .hostCxlMemAccess s = .next t ∧ SameButLog s t ∧ t.nextSeq = s.nextSeq + 1))
    ∧ (∀ x, s.subject = .snoop x → exec .hostSnoop s = .next { s with result := [0] })
    ∧ (∀ hpa wide op a, s.subject = .atomicOp hpa wide op → s.hdmPlace hpa = some a →
        let n := if wide then 8 else 4
        let old := s.hbm.readNat a n
        (a % n = 0 → s.spoiled (.hbm a) = false → s.frameGrants 0x20 .atomic a n = true → ∃ t, exec .hostAtomicop s = .next t ∧ t.result = [old]
            ∧ t.host = s.host ∧ t.remote = s.remote ∧ t.backing = s.backing ∧ (∀ x, x < a ∨ a + n ≤ x → t.hbm.read x = s.hbm.read x)
            ∧ (∀ v : Dword, op = .fetchAdd v → t.hbm.readNat a n = (old + v.toNat) % 2 ^ (8 * n))
            ∧ (∀ v : Dword, op = .swap v → t.hbm.readNat a n = v.toNat % 2 ^ (8 * n))
            ∧ (∀ v w : Dword, op = .cas v w → t.hbm.readNat a n = if old = v.toNat % 2 ^ (8 * n) then w.toNat % 2 ^ (8 * n) else old))
        ∧ (a % n ≠ 0 ∨ s.spoiled (.hbm a) = true ∨ s.frameGrants 0x20 .atomic a n = false → exec .hostAtomicop s = .next { s with result := [] }))
    ∧ ∀ master ctx (addr : Dword) (q : PodAccess), s.subject = .pod master ctx addr q →
        let ea := normEa s.dev addr.toNat
        let r : Req := { part := master % 16, engine := decide (0x10 ≤ master), ctx := ctx, die := homeDie ea }
        let answer (right : Right) : Answer := s.answer r right (ea / 128 * 128) 128
        isLocal s.dev ea = true → s.errors = [] →
        (∀ n place key lease pr pw, q = .read n → n ≠ 0 → ea % 128 + n ≤ 128 → answer .rd = .served place key lease pr pw →
          ∃ t, exec .podRemoteAccess s = .next t ∧ SameMem s t ∧ t.result = 0 :: ((s.memOf place).readBytes (place.at_ + ea % 128) n).map BitVec.toNat)
        ∧ (∀ bs place key lease pr pw, q = .write bs → bs ≠ [] → ea % 128 + bs.length ≤ 128 → answer .wr = .served place key lease pr pw → place.at_ % 128 = 0 →
          (s.memOf place).wf = true → ∃ t, exec .podRemoteAccess s = .next t ∧ t.result = [0] ∧ SameElsewhere s t place
            ∧ ∀ x, (t.memOf place).read x = if place.at_ + ea % 128 ≤ x ∧ x < place.at_ + ea % 128 + bs.length
                then bs.getD (x - (place.at_ + ea % 128)) 0 else (s.memOf place).read x)
        ∧ (∀ wide (v w : Dword) place key lease pr pw, q = .cas wide v w → ea % 128 + (if wide then 8 else 4) ≤ 128 → answer .atomic = .served place key lease pr pw →
          place.at_ % 128 = 0 → (s.memOf place).wf = true →
          let n := if wide then 8 else 4
          let old := (s.memOf place).readNat (place.at_ + ea % 128) n
          ∃ t, exec .podRemoteAccess s = .next t ∧ t.result = [0, old] ∧ SameElsewhere s t place
            ∧ (t.memOf place).readNat (place.at_ + ea % 128) n = if old = v.toNat % 2 ^ (8 * n) then w.toNat % 2 ^ (8 * n) else old)
        ∧ (∀ n d, q = .read n → n ≠ 0 → ea % 128 + n ≤ 128 → answer .rd = .denied d → exec .podRemoteAccess s = .next { s with result := [1, d] })
        ∧ (∀ n, q = .read n → n ≠ 0 → ea % 128 + n ≤ 128 → answer .rd = .unmapped → exec .podRemoteAccess s = .next { s with result := [2] })
/-! ## The machine as a whole -/

/-- R4, R21, R22, R29, R33, R259, R265, R272, R410, R421, R425, R432, R435, R458, R466, R471: the package right after reset. The values are the spec's; the
registers to which it gives no reset value are not named here. -/
def Obligations.ResetLeavesThePackageAsTheSpecSays : Prop :=
  let s := State.reset
  s.power = .active ∧ s.gtime = 0 ∧ s.clocks = [0, 0, 0, 0] ∧ s.dev = 0 ∧ s.podSize = 1 ∧ s.routes = [] ∧ s.acl = [] ∧ s.entries = [] ∧ s.gaz = []
  ∧ (∀ n, let q := s.descriptor n; q.qbase = 0 ∧ q.tail = 0 ∧ q.head = 0 ∧ q.wdog = 0 ∧ q.wgt = 1 ∧ q.ctx = 0 ∧ q.part = 0 ∧ q.prio = 0
      ∧ q.serial = false ∧ q.lok = false ∧ q.st = .absent ∧ q.qsize = 4 ∧ q.nlaunch = 0 ∧ q.nblock = 0)
   ∧ s.launches = [] ∧ s.blocks = [] ∧ s.seq = 0 ∧ s.bootRing = [] ∧ s.leftOut = 0 ∧ s.logRing = none ∧ s.comms = []
  ∧ (∃ p, s.partitions = [p] ∧ p.num = 0 ∧ (∀ i < 48, p.quads.getLsbD i = true) ∧ p.pt = 20 ∧ p.agestep = 50 ∧ p.capacity = 262144 ∧ p.debug = false ∧ p.ladderSerial = 0
      ∧ p.lastServed = List.replicate 8 1023)
  ∧ PlatOk s.toPlat ∧ MemOk s

/-- R33, R36, R43, R55, R77, R78, R81, R434: a step that gives an issue opportunity to a set runs the instruction its PC's bytes decode to, from the instruction cache or from memory; a
second set, an input from outside and an event are run the same way, but in Off nothing but a power-on is answered; a word that does not decode is ILLEGAL with the 32 bits at the PC, and an odd
PC is MISALIGN. What a step puts around exec (the
order of acts, the cycle that passes before some issues, the sets that hold) is the model's choice: logs 3, 4, 5, 68 and 78. -/
def Obligations.StepRunsTheDecodedInstruction : Prop :=
  (∀ (s : State) r passed late free, s.act = .issue r passed late free → step s = ((s.turned late free).prepare r passed).issueSet)
  ∧ (∀ (s : State) x, s.act = .second x →
      step s = State.issueSet { s.updGroup x.blk x.grp fun g => g.alsoIssues x.lanes with issue := some x, second := none, subject := .none })
  -- an issue is the instruction's execution, which its threads remember where they wait in it; with no room for its events they wait before it
  ∧ (∀ (s t : State) (c : Sel), s.sel = some c → s.runIssue = .next t →
      (t.heldEvents.length ≤ s.heldEvents.length → (∀ lane th, t.thread? c.blk c.grp lane = some th → th.holds = false) →
        ∃ u, s.issueSet = .next u ∧ u = { t with blocks := u.blocks } ∧ ∀ b g lane, u.thread? b g lane = t.thread? b g lane)
      ∧ (s.heldEvents.length < t.heldEvents.length → s.issueSet = .next (c.hold s)))
  -- a set whose wait in an instruction is over goes on with the instruction
  ∧ (∀ (s : State) h i, s.act = .resume h → h.instr = some i →
      let x := h.issue
      ∃ v, exec i { s.updGroup x.blk x.grp fun g => g.release x.lanes with issue := some x, subject := .none } = .next v
        ∧ (step s = .next v ∨ step s = .next (v.updGroup x.blk x.grp fun g => { g with threads := g.threads.map (Thread.keepIssued i x.lanes) })))
  -- what comes in from outside, unless its event finds the log full
  ∧ (∀ (s : State) i x rest, s.inbox = (i, x) :: rest →
      (s.power = .active ∨ i = .powerOn → s.inputHeld (i, x) = false → step s = exec i { s with inbox := rest, subject := x, issue := none })
      ∧ (s.power = .active → s.inputHeld (i, x) = true → ∀ e, rest.find? (fun e => e.1 == .logReadIndexWrite) = some e →
          step s = exec e.1 { s with inbox := (i, x) :: rest.erase e, subject := e.2, issue := none })
      ∧ (s.power = .off → i ≠ .powerOn → step s = .next { s with inbox := rest }))
  ∧ (∀ (s : State) i x free, s.act = .event i x free → step s = exec i (s.atEvent x free))
  ∧ (∀ s : State, s.inbox = [] → s.power = .off → step s = .fault .poweredOff)
  ∧ ∀ (s : State) (c : Sel), s.sel = some c →
      let pc := c.issue.pc
      let ea := normEa s.dev pc.toNat
      (pc.getLsbD 0 = true → s.runIssue = .next (c.raiseEach s c.lanes ⟨0x04, pc, 0⟩))
      -- the n bytes at the PC lie in one line and may be fetched, from the cache or from memory
      ∧ (pc.getLsbD 0 = false → ∀ (bs : List Byte), ea % 128 + bs.length ≤ 128 →
          (∀ k, 2 * k < bs.length → fetchable s.dev (pc + BitVec.ofNat 64 (2 * k)) = true ∧ normEa s.dev (pc + BitVec.ofNat 64 (2 * k)).toNat = ea + 2 * k) →
          let cached : Prop := ∃ x, (s.core c.b.core).iline? ⟨c.l.ctx, ea / 128⟩ s.gtime = some x ∧ x.data.length = 128 ∧ (x.data.drop (ea % 128)).take bs.length = bs
          (∀ i, decode bs = .ok (i, bs.length) → cached → s.runIssue = exec i (s.spoilLatch c i))
          ∧ (∀ e, bs.length = 4 → (∀ b, bs.head? = some b → b.getLsbD 0 = true ∧ b.getLsbD 1 = false) → decode bs = .error e → cached →
              s.runIssue = .next (c.raiseEach s c.lanes ⟨0x01, 0, BitVec.ofNat 32 (ofBytes bs)⟩))
          ∧ ∀ i a key lease pr pw, decode bs = .ok (i, bs.length) → (s.core c.b.core).iline? ⟨c.l.ctx, ea / 128⟩ s.gtime = none → s.images = [] → s.errors = [] → 0 < lease →
              (s.core c.b.core).sent = [] → s.heldRequest (reqOf c.l c.b.core) [ea / 128 * 128] = false →
              s.answer (reqOf c.l c.b.core) .rd (ea / 128 * 128) 128 = .served (.hbm a) key lease pr pw → s.hbm.readBytes (a + ea % 128) bs.length = bs →
              ∃ u, s.runIssue = exec i u ∧ SameMem s u ∧ u.blocks = (s.spoilLatch c i).blocks ∧ u.issue = s.issue ∧ u.launches = s.launches ∧ u.gtime = s.gtime ∧ u.toPlat = s.toPlat)

/-- R39-R54 and the example of spec 02: words written out bit by bit decode to the instructions they stand for, and a reserved opcode, an extension that does not
go with its opcode, and a zero halfword decode to none. -/
def Obligations.WordsDecodeToTheirInstructions : Prop :=
  let m (c : BitVec 8) : Option Mods := some { Mods.default with c := c }
  -- the kernel of spec 02, Example 2: MOVI v1, 3; MOVI v2, 1.5; FMUL v3, v3, v2; FFMA v4, v3, v2, v1; IADD v1, v1, -1; EXIT
  decodeTableWord 16 0x1822 = some (.cMovi ⟨3, 1⟩) ∧ decodeTableWord 64 0x3FC0000000000807 = some (.movi ⟨2, 0x3FC00000⟩)
  ∧ decodeTableWord 16 0x107A = some (.cFmul ⟨2, 3⟩) ∧ decodeTableWord 64 0x00000701040610CF = some (.ffma ⟨2, false, 3, 4, m 1⟩)
  ∧ decodeTableWord 16 0xF826 = some (.cIaddImm ⟨0x1F, 1⟩) ∧ decodeTableWord 32 0x000001D9 = some (.exit ⟨none⟩)
  -- the words of spec 02, Example 1, and a zero halfword
  ∧ decodeTableWord 32 0x00000381 = none ∧ decodeTableWord 32 0x000001E7 = none ∧ decodeTableWord 32 0x040610CD = none
  ∧ decodeTableWord 64 0x0000270004041417 = none ∧ decodeTableWord 16 0x0000 = none
  -- VOTE.mask s4, p2 at k3 (spec 03); IADD v0, v39, v47 (spec 04); LD.b32 v4, [v2, -1]; TRAP 7; BRA to the instruction two halfwords on
  ∧ decodeTableWord 64 0x000007730004119B = some (.vote ⟨0, false, 2, 4, m 0x73⟩)
  ∧ decodeTableWord 32 0x5E4E0015 = some (.iadd ⟨47, false, 39, 0, none⟩)
  ∧ decodeTableWord 32 0xFF041211 = some (.ldB32 ⟨-1, 2, 4, none⟩)
  ∧ decodeTableWord 32 0x07000365 = some (.trap ⟨7, 0, 0, none⟩)
  ∧ decodeTableWord 32 0x000009C1 = some (.bra ⟨2, none⟩)

/-- R39-R54: no bit of an encoding is dropped: decoding the bytes of a well-formed instruction gives it back, with its length; and bytes that decode are the bytes of
the instruction they decode to, which is well formed. -/
def Obligations.DecodeAndEncodeAgree : Prop :=
  (∀ (i : Instr) (bs rest : List Byte), i.wf = true → encode i = some bs → decode (bs ++ rest) = .ok (i, bs.length))
  ∧ ∀ (i : Instr) (bs : List Byte) (n : Nat), decode bs = .ok (i, n) → i.wf = true ∧ encode i = some (bs.take n) ∧ (n = 2 ∨ n = 4 ∨ n = 8) ∧ n ≤ bs.length

/-- R21, R466-R469, R471, R477: from every state whose platform registers hold values they can hold, a step leads to such a state: the clocks stay between 1.2 and 2.7 GHz,
the cap among its values, this device inside its pod, and the access tables without two entries at one place. -/
def Obligations.EveryStepKeepsThePlatformLegal : Prop :=
  ∀ s t : State, PlatOk s.toPlat → step s = .next t → PlatOk t.toPlat

/-- R55, R58, R446: no instruction of a thread ends the run: whatever its operands, where an issue set stands before it the package goes on to a next state, with
its platform registers as they were (a fault enters the handler, or ends the block). Without an issue set there is nothing to execute. Nor does an event or a
command end it. -/
def Obligations.ThreadInstructionsNeverStop : Prop :=
  (∀ (i : Instr) (s : State), (encode i).isSome = true →
    (∀ c, s.sel = some c → ∃ t, exec i s = .next t ∧ t.toPlat = s.toPlat) ∧ (s.sel = none → exec i s = .fault .noIssue))
  ∧ ∀ (i : Instr) (s : State), encode i = none → ∃ t, exec i s = .next t
end

