-- ==== Sys2Proof/Laws/Dispatch.lean ====
section
/-! SUPPORT. What the dispatch answers for each constructor: its own meaning. Each holds by computation; a proof about one instruction
starts from its lemma and never opens the whole dispatch. -/

namespace Sys2Proof.Machine

open Sys2Proof

theorem exec_cMov (s : State) (o : OpC) : exec (.cMov o) s = execCMov o s := rfl
theorem exec_cMovi (s : State) (o : OpC) : exec (.cMovi o) s = execCMovi o s := rfl
theorem exec_cIadd (s : State) (o : OpC) : exec (.cIadd o) s = execCIadd o s := rfl
theorem exec_cIaddImm (s : State) (o : OpC) : exec (.cIaddImm o) s = execCIaddImm o s := rfl
theorem exec_cIsub (s : State) (o : OpC) : exec (.cIsub o) s = execCIsub o s := rfl
theorem exec_cImul (s : State) (o : OpC) : exec (.cImul o) s = execCImul o s := rfl
theorem exec_cAnd (s : State) (o : OpC) : exec (.cAnd o) s = execCAnd o s := rfl
theorem exec_cOr (s : State) (o : OpC) : exec (.cOr o) s = execCOr o s := rfl
theorem exec_cXor (s : State) (o : OpC) : exec (.cXor o) s = execCXor o s := rfl
theorem exec_cShl (s : State) (o : OpC) : exec (.cShl o) s = execCShl o s := rfl
theorem exec_cShr (s : State) (o : OpC) : exec (.cShr o) s = execCShr o s := rfl
theorem exec_cFadd (s : State) (o : OpC) : exec (.cFadd o) s = execCFadd o s := rfl
theorem exec_cFsub (s : State) (o : OpC) : exec (.cFsub o) s = execCFsub o s := rfl
theorem exec_cFmul (s : State) (o : OpC) : exec (.cFmul o) s = execCFmul o s := rfl
theorem exec_cFmax (s : State) (o : OpC) : exec (.cFmax o) s = execCFmax o s := rfl
theorem exec_cBra (s : State) (o : OpCB) : exec (.cBra o) s = execCBra o s := rfl
theorem exec_mov (s : State) (o : OpU) : exec (.mov o) s = execMov o s := rfl
theorem exec_not (s : State) (o : OpU) : exec (.not o) s = execNot o s := rfl
theorem exec_popc (s : State) (o : OpU) : exec (.popc o) s = execPopc o s := rfl
theorem exec_clz (s : State) (o : OpU) : exec (.clz o) s = execClz o s := rfl
theorem exec_ctz (s : State) (o : OpU) : exec (.ctz o) s = execCtz o s := rfl
theorem exec_brev (s : State) (o : OpU) : exec (.brev o) s = execBrev o s := rfl
theorem exec_p2v (s : State) (o : OpU) : exec (.p2v o) s = execP2v o s := rfl
theorem exec_v2p (s : State) (o : OpU) : exec (.v2p o) s = execV2p o s := rfl
theorem exec_smov (s : State) (o : OpU) : exec (.smov o) s = execSmov o s := rfl
theorem exec_movi (s : State) (o : OpL) : exec (.movi o) s = execMovi o s := rfl
theorem exec_smovi (s : State) (o : OpL) : exec (.smovi o) s = execSmovi o s := rfl
theorem exec_allot (s : State) (o : OpR) : exec (.allot o) s = execAllot o s := rfl
theorem exec_srd (s : State) (o : OpR) : exec (.srd o) s = execSrd o s := rfl
theorem exec_swr (s : State) (o : OpR) : exec (.swr o) s = execSwr o s := rfl
theorem exec_iadd (s : State) (o : OpR) : exec (.iadd o) s = execIadd o s := rfl
theorem exec_isub (s : State) (o : OpR) : exec (.isub o) s = execIsub o s := rfl
theorem exec_iadc (s : State) (o : OpR) : exec (.iadc o) s = execIadc o s := rfl
theorem exec_isbb (s : State) (o : OpR) : exec (.isbb o) s = execIsbb o s := rfl
theorem exec_imul (s : State) (o : OpR) : exec (.imul o) s = execImul o s := rfl
theorem exec_imulhI32 (s : State) (o : OpR) : exec (.imulhI32 o) s = execImulhI32 o s := rfl
theorem exec_imulhN32 (s : State) (o : OpR) : exec (.imulhN32 o) s = execImulhN32 o s := rfl
theorem exec_imad (s : State) (o : OpR) : exec (.imad o) s = execImad o s := rfl
theorem exec_imadwI32 (s : State) (o : OpR) : exec (.imadwI32 o) s = execImadwI32 o s := rfl
theorem exec_imadwN32 (s : State) (o : OpR) : exec (.imadwN32 o) s = execImadwN32 o s := rfl
theorem exec_idivI32 (s : State) (o : OpR) : exec (.idivI32 o) s = execIdivI32 o s := rfl
theorem exec_idivN32 (s : State) (o : OpR) : exec (.idivN32 o) s = execIdivN32 o s := rfl
theorem exec_iremI32 (s : State) (o : OpR) : exec (.iremI32 o) s = execIremI32 o s := rfl
theorem exec_iremN32 (s : State) (o : OpR) : exec (.iremN32 o) s = execIremN32 o s := rfl
theorem exec_iminI32 (s : State) (o : OpR) : exec (.iminI32 o) s = execIminI32 o s := rfl
theorem exec_iminN32 (s : State) (o : OpR) : exec (.iminN32 o) s = execIminN32 o s := rfl
theorem exec_imaxI32 (s : State) (o : OpR) : exec (.imaxI32 o) s = execImaxI32 o s := rfl
theorem exec_imaxN32 (s : State) (o : OpR) : exec (.imaxN32 o) s = execImaxN32 o s := rfl
theorem exec_and (s : State) (o : OpR) : exec (.and o) s = execAnd o s := rfl
theorem exec_or (s : State) (o : OpR) : exec (.or o) s = execOr o s := rfl
theorem exec_xor (s : State) (o : OpR) : exec (.xor o) s = execXor o s := rfl
theorem exec_andn (s : State) (o : OpR) : exec (.andn o) s = execAndn o s := rfl
theorem exec_shl (s : State) (o : OpR) : exec (.shl o) s = execShl o s := rfl
theorem exec_shr (s : State) (o : OpR) : exec (.shr o) s = execShr o s := rfl
theorem exec_sar (s : State) (o : OpR) : exec (.sar o) s = execSar o s := rfl
theorem exec_rol (s : State) (o : OpR) : exec (.rol o) s = execRol o s := rfl
theorem exec_ror (s : State) (o : OpR) : exec (.ror o) s = execRor o s := rfl
theorem exec_shlImm (s : State) (o : OpSI) : exec (.shlImm o) s = execShlImm o s := rfl
theorem exec_shrImm (s : State) (o : OpSI) : exec (.shrImm o) s = execShrImm o s := rfl
theorem exec_sarImm (s : State) (o : OpSI) : exec (.sarImm o) s = execSarImm o s := rfl
theorem exec_rolImm (s : State) (o : OpSI) : exec (.rolImm o) s = execRolImm o s := rfl
theorem exec_rorImm (s : State) (o : OpSI) : exec (.rorImm o) s = execRorImm o s := rfl
theorem exec_fshl (s : State) (o : OpR) : exec (.fshl o) s = execFshl o s := rfl
theorem exec_bfe (s : State) (o : OpR) : exec (.bfe o) s = execBfe o s := rfl
theorem exec_bfi (s : State) (o : OpR) : exec (.bfi o) s = execBfi o s := rfl
theorem exec_byteperm (s : State) (o : OpR) : exec (.byteperm o) s = execByteperm o s := rfl
theorem exec_lea (s : State) (o : OpR) : exec (.lea o) s = execLea o s := rfl
theorem exec_iadd64 (s : State) (o : OpR) : exec (.iadd64 o) s = execIadd64 o s := rfl
theorem exec_isub64 (s : State) (o : OpR) : exec (.isub64 o) s = execIsub64 o s := rfl
theorem exec_sadd (s : State) (o : OpF8) : exec (.sadd o) s = execSadd o s := rfl
theorem exec_ssub (s : State) (o : OpF8) : exec (.ssub o) s = execSsub o s := rfl
theorem exec_smul (s : State) (o : OpF8) : exec (.smul o) s = execSmul o s := rfl
theorem exec_sand (s : State) (o : OpF8) : exec (.sand o) s = execSand o s := rfl
theorem exec_sor (s : State) (o : OpF8) : exec (.sor o) s = execSor o s := rfl
theorem exec_sxor (s : State) (o : OpF8) : exec (.sxor o) s = execSxor o s := rfl
theorem exec_sshl (s : State) (o : OpF8) : exec (.sshl o) s = execSshl o s := rfl
theorem exec_sshr (s : State) (o : OpF8) : exec (.sshr o) s = execSshr o s := rfl
theorem exec_ssetp (s : State) (cmp : BitVec 4) (o : OpF8) : exec (.ssetp cmp o) s = execSsetp cmp o s := rfl
theorem exec_setp (s : State) (o : OpR) : exec (.setp o) s = execSetp o s := rfl
theorem exec_sel (s : State) (o : OpR) : exec (.sel o) s = execSel o s := rfl
theorem exec_plop (s : State) (o : OpR) : exec (.plop o) s = execPlop o s := rfl
theorem exec_idot4I8 (s : State) (o : OpR) : exec (.idot4I8 o) s = execIdot4I8 o s := rfl
theorem exec_idot4N8 (s : State) (o : OpR) : exec (.idot4N8 o) s = execIdot4N8 o s := rfl
theorem exec_idot4I4 (s : State) (o : OpR) : exec (.idot4I4 o) s = execIdot4I4 o s := rfl
theorem exec_idot4N4 (s : State) (o : OpR) : exec (.idot4N4 o) s = execIdot4N4 o s := rfl
theorem exec_fadd (s : State) (o : OpR) : exec (.fadd o) s = execFadd o s := rfl
theorem exec_fsub (s : State) (o : OpR) : exec (.fsub o) s = execFsub o s := rfl
theorem exec_fmul (s : State) (o : OpR) : exec (.fmul o) s = execFmul o s := rfl
theorem exec_ffma (s : State) (o : OpR) : exec (.ffma o) s = execFfma o s := rfl
theorem exec_fmin (s : State) (o : OpR) : exec (.fmin o) s = execFmin o s := rfl
theorem exec_fmax (s : State) (o : OpR) : exec (.fmax o) s = execFmax o s := rfl
theorem exec_fdiv (s : State) (o : OpR) : exec (.fdiv o) s = execFdiv o s := rfl
theorem exec_fsqrt (s : State) (o : OpU) : exec (.fsqrt o) s = execFsqrt o s := rfl
theorem exec_frcp (s : State) (o : OpU) : exec (.frcp o) s = execFrcp o s := rfl
theorem exec_frsq (s : State) (o : OpU) : exec (.frsq o) s = execFrsq o s := rfl
theorem exec_fex2 (s : State) (o : OpU) : exec (.fex2 o) s = execFex2 o s := rfl
theorem exec_flg2 (s : State) (o : OpU) : exec (.flg2 o) s = execFlg2 o s := rfl
theorem exec_fsin (s : State) (o : OpU) : exec (.fsin o) s = execFsin o s := rfl
theorem exec_fcos (s : State) (o : OpU) : exec (.fcos o) s = execFcos o s := rfl
theorem exec_ftanh (s : State) (o : OpU) : exec (.ftanh o) s = execFtanh o s := rfl
theorem exec_frnd (s : State) (o : OpU) : exec (.frnd o) s = execFrnd o s := rfl
theorem exec_fclass (s : State) (o : OpU) : exec (.fclass o) s = execFclass o s := rfl
theorem exec_fsetp (s : State) (o : OpR) : exec (.fsetp o) s = execFsetp o s := rfl
theorem exec_fscale (s : State) (o : OpR) : exec (.fscale o) s = execFscale o s := rfl
theorem exec_frexp (s : State) (o : OpR) : exec (.frexp o) s = execFrexp o s := rfl
theorem exec_dadd (s : State) (o : OpR) : exec (.dadd o) s = execDadd o s := rfl
theorem exec_dsub (s : State) (o : OpR) : exec (.dsub o) s = execDsub o s := rfl
theorem exec_dmul (s : State) (o : OpR) : exec (.dmul o) s = execDmul o s := rfl
theorem exec_dfma (s : State) (o : OpR) : exec (.dfma o) s = execDfma o s := rfl
theorem exec_dmin (s : State) (o : OpR) : exec (.dmin o) s = execDmin o s := rfl
theorem exec_dmax (s : State) (o : OpR) : exec (.dmax o) s = execDmax o s := rfl
theorem exec_ddiv (s : State) (o : OpR) : exec (.ddiv o) s = execDdiv o s := rfl
theorem exec_dsqrt (s : State) (o : OpU) : exec (.dsqrt o) s = execDsqrt o s := rfl
theorem exec_drcp (s : State) (o : OpU) : exec (.drcp o) s = execDrcp o s := rfl
theorem exec_drnd (s : State) (o : OpU) : exec (.drnd o) s = execDrnd o s := rfl
theorem exec_dsetp (s : State) (o : OpR) : exec (.dsetp o) s = execDsetp o s := rfl
theorem exec_pkaddF16 (s : State) (o : OpR) : exec (.pkaddF16 o) s = execPkaddF16 o s := rfl
theorem exec_pkaddBf16 (s : State) (o : OpR) : exec (.pkaddBf16 o) s = execPkaddBf16 o s := rfl
theorem exec_pkmulF16 (s : State) (o : OpR) : exec (.pkmulF16 o) s = execPkmulF16 o s := rfl
theorem exec_pkmulBf16 (s : State) (o : OpR) : exec (.pkmulBf16 o) s = execPkmulBf16 o s := rfl
theorem exec_pkfmaF16 (s : State) (o : OpR) : exec (.pkfmaF16 o) s = execPkfmaF16 o s := rfl
theorem exec_pkfmaBf16 (s : State) (o : OpR) : exec (.pkfmaBf16 o) s = execPkfmaBf16 o s := rfl
theorem exec_pkminF16 (s : State) (o : OpR) : exec (.pkminF16 o) s = execPkminF16 o s := rfl
theorem exec_pkminBf16 (s : State) (o : OpR) : exec (.pkminBf16 o) s = execPkminBf16 o s := rfl
theorem exec_pkmaxF16 (s : State) (o : OpR) : exec (.pkmaxF16 o) s = execPkmaxF16 o s := rfl
theorem exec_pkmaxBf16 (s : State) (o : OpR) : exec (.pkmaxBf16 o) s = execPkmaxBf16 o s := rfl
theorem exec_pksetpF16 (s : State) (o : OpR) : exec (.pksetpF16 o) s = execPksetpF16 o s := rfl
theorem exec_pksetpBf16 (s : State) (o : OpR) : exec (.pksetpBf16 o) s = execPksetpBf16 o s := rfl
theorem exec_cvt (s : State) (o : OpT) : exec (.cvt o) s = execCvt o s := rfl
theorem exec_pack (s : State) (o : OpT) : exec (.pack o) s = execPack o s := rfl
theorem exec_unpk (s : State) (o : OpT) : exec (.unpk o) s = execUnpk o s := rfl
theorem exec_mxq (s : State) (o : OpT) : exec (.mxq o) s = execMxq o s := rfl
theorem exec_mxdq (s : State) (o : OpT) : exec (.mxdq o) s = execMxdq o s := rfl
theorem exec_fenv (s : State) (o : OpR) : exec (.fenv o) s = execFenv o s := rfl
theorem exec_fflg (s : State) (o : OpR) : exec (.fflg o) s = execFflg o s := rfl
theorem exec_kmov (s : State) (o : OpR) : exec (.kmov o) s = execKmov o s := rfl
theorem exec_kop (s : State) (o : OpR) : exec (.kop o) s = execKop o s := rfl
theorem exec_kpop (s : State) (o : OpR) : exec (.kpop o) s = execKpop o s := rfl
theorem exec_join (s : State) (o : OpR) : exec (.join o) s = execJoin o s := rfl
theorem exec_leave (s : State) (o : OpR) : exec (.leave o) s = execLeave o s := rfl
theorem exec_waitk (s : State) (o : OpR) : exec (.waitk o) s = execWaitk o s := rfl
theorem exec_vote (s : State) (o : OpR) : exec (.vote o) s = execVote o s := rfl
theorem exec_shfl (s : State) (o : OpR) : exec (.shfl o) s = execShfl o s := rfl
theorem exec_redux (s : State) (o : OpR) : exec (.redux o) s = execRedux o s := rfl
theorem exec_matchLanes (s : State) (o : OpR) : exec (.matchLanes o) s = execMatchLanes o s := rfl
theorem exec_scan (s : State) (o : OpR) : exec (.scan o) s = execScan o s := rfl
theorem exec_elect (s : State) (o : OpR) : exec (.elect o) s = execElect o s := rfl
theorem exec_bra (s : State) (o : OpJ) : exec (.bra o) s = execBra o s := rfl
theorem exec_brc (s : State) (o : OpJ) : exec (.brc o) s = execBrc o s := rfl
theorem exec_jmp (s : State) (o : OpR) : exec (.jmp o) s = execJmp o s := rfl
theorem exec_call (s : State) (o : OpJ) : exec (.call o) s = execCall o s := rfl
theorem exec_calli (s : State) (o : OpR) : exec (.calli o) s = execCalli o s := rfl
theorem exec_ret (s : State) (o : OpZ) : exec (.ret o) s = execRet o s := rfl
theorem exec_exit (s : State) (o : OpZ) : exec (.exit o) s = execExit o s := rfl
theorem exec_region (s : State) : exec .region s = execRegion s := rfl
theorem exec_yield (s : State) (o : OpZ) : exec (.yield o) s = execYield o s := rfl
theorem exec_nop (s : State) : exec .nop s = execNop s := rfl
theorem exec_sleep (s : State) (o : OpI) : exec (.sleep o) s = execSleep o s := rfl
theorem exec_ldN8 (s : State) (o : OpI) : exec (.ldN8 o) s = execLdN8 o s := rfl
theorem exec_ldI8 (s : State) (o : OpI) : exec (.ldI8 o) s = execLdI8 o s := rfl
theorem exec_ldN16 (s : State) (o : OpI) : exec (.ldN16 o) s = execLdN16 o s := rfl
theorem exec_ldI16 (s : State) (o : OpI) : exec (.ldI16 o) s = execLdI16 o s := rfl
theorem exec_ldB32 (s : State) (o : OpI) : exec (.ldB32 o) s = execLdB32 o s := rfl
theorem exec_ldB64 (s : State) (o : OpI) : exec (.ldB64 o) s = execLdB64 o s := rfl
theorem exec_ldB128 (s : State) (o : OpI) : exec (.ldB128 o) s = execLdB128 o s := rfl
theorem exec_stB8 (s : State) (o : OpI) : exec (.stB8 o) s = execStB8 o s := rfl
theorem exec_stB16 (s : State) (o : OpI) : exec (.stB16 o) s = execStB16 o s := rfl
theorem exec_stB32 (s : State) (o : OpI) : exec (.stB32 o) s = execStB32 o s := rfl
theorem exec_stB64 (s : State) (o : OpI) : exec (.stB64 o) s = execStB64 o s := rfl
theorem exec_stB128 (s : State) (o : OpI) : exec (.stB128 o) s = execStB128 o s := rfl
theorem exec_ldp (s : State) (o : OpI) : exec (.ldp o) s = execLdp o s := rfl
theorem exec_stp (s : State) (o : OpI) : exec (.stp o) s = execStp o s := rfl
theorem exec_pref (s : State) (o : OpI) : exec (.pref o) s = execPref o s := rfl
theorem exec_cctlIi (s : State) (o : OpR) : exec (.cctlIi o) s = execCctlIi o s := rfl
theorem exec_cctlWb (s : State) (o : OpR) : exec (.cctlWb o) s = execCctlWb o s := rfl
theorem exec_cctlInv (s : State) (o : OpR) : exec (.cctlInv o) s = execCctlInv o s := rfl
theorem exec_cctlWbAll (s : State) (o : OpR) : exec (.cctlWbAll o) s = execCctlWbAll o s := rfl
theorem exec_cctlInvAll (s : State) (o : OpR) : exec (.cctlInvAll o) s = execCctlInvAll o s := rfl
theorem exec_cctlRodrop (s : State) (o : OpR) : exec (.cctlRodrop o) s = execCctlRodrop o s := rfl
theorem exec_fenceAr (s : State) (o : OpR) : exec (.fenceAr o) s = execFenceAr o s := rfl
theorem exec_fenceAcq (s : State) (o : OpR) : exec (.fenceAcq o) s = execFenceAcq o s := rfl
theorem exec_fenceRel (s : State) (o : OpR) : exec (.fenceRel o) s = execFenceRel o s := rfl
theorem exec_fenceSc (s : State) (o : OpR) : exec (.fenceSc o) s = execFenceSc o s := rfl
theorem exec_atomB32 (s : State) (o : OpR) : exec (.atomB32 o) s = execAtomB32 o s := rfl
theorem exec_atomB64 (s : State) (o : OpR) : exec (.atomB64 o) s = execAtomB64 o s := rfl
theorem exec_casB32 (s : State) (o : OpR) : exec (.casB32 o) s = execCasB32 o s := rfl
theorem exec_casB64 (s : State) (o : OpR) : exec (.casB64 o) s = execCasB64 o s := rfl
theorem exec_ldacqB32 (s : State) (o : OpI) : exec (.ldacqB32 o) s = execLdacqB32 o s := rfl
theorem exec_ldacqB64 (s : State) (o : OpI) : exec (.ldacqB64 o) s = execLdacqB64 o s := rfl
theorem exec_strelB32 (s : State) (o : OpI) : exec (.strelB32 o) s = execStrelB32 o s := rfl
theorem exec_strelB64 (s : State) (o : OpI) : exec (.strelB64 o) s = execStrelB64 o s := rfl
theorem exec_drainst (s : State) (o : OpZ) : exec (.drainst o) s = execDrainst o s := rfl
theorem exec_pgreq (s : State) (o : OpR) : exec (.pgreq o) s = execPgreq o s := rfl
theorem exec_pghint (s : State) (o : OpR) : exec (.pghint o) s = execPghint o s := rfl
theorem exec_ldtB32 (s : State) (o : OpI) : exec (.ldtB32 o) s = execLdtB32 o s := rfl
theorem exec_ldtB128 (s : State) (o : OpI) : exec (.ldtB128 o) s = execLdtB128 o s := rfl
theorem exec_sttB32 (s : State) (o : OpI) : exec (.sttB32 o) s = execSttB32 o s := rfl
theorem exec_sttB128 (s : State) (o : OpI) : exec (.sttB128 o) s = execSttB128 o s := rfl
theorem exec_tzero (s : State) (o : OpR) : exec (.tzero o) s = execTzero o s := rfl
theorem exec_syncarm (s : State) (o : OpR) : exec (.syncarm o) s = execSyncarm o s := rfl
theorem exec_syncwait (s : State) (o : OpR) : exec (.syncwait o) s = execSyncwait o s := rfl
theorem exec_acopy (s : State) (o : OpR) : exec (.acopy o) s = execAcopy o s := rfl
theorem exec_acopyQuant (s : State) (o : OpR) : exec (.acopyQuant o) s = execAcopyQuant o s := rfl
theorem exec_agath (s : State) (o : OpR) : exec (.agath o) s = execAgath o s := rfl
theorem exec_ascat (s : State) (o : OpR) : exec (.ascat o) s = execAscat o s := rfl
theorem exec_acoll (s : State) (o : OpR) : exec (.acoll o) s = execAcoll o s := rfl
theorem exec_adigest (s : State) (o : OpR) : exec (.adigest o) s = execAdigest o s := rfl
theorem exec_await (s : State) (o : OpR) : exec (.await o) s = execAwait o s := rfl
theorem exec_acancel (s : State) (o : OpR) : exec (.acancel o) s = execAcancel o s := rfl
theorem exec_mma (s : State) (o : OpR) : exec (.mma o) s = execMma o s := rfl
theorem exec_mmasp (s : State) (o : OpR) : exec (.mmasp o) s = execMmasp o s := rfl
theorem exec_accz (s : State) (o : OpR) : exec (.accz o) s = execAccz o s := rfl
theorem exec_accld (s : State) (o : OpR) : exec (.accld o) s = execAccld o s := rfl
theorem exec_accst (s : State) (o : OpR) : exec (.accst o) s = execAccst o s := rfl
theorem exec_accrd (s : State) (o : OpR) : exec (.accrd o) s = execAccrd o s := rfl
theorem exec_accwr (s : State) (o : OpR) : exec (.accwr o) s = execAccwr o s := rfl
theorem exec_mmaflg (s : State) (o : OpR) : exec (.mmaflg o) s = execMmaflg o s := rfl
theorem exec_monset (s : State) (o : OpR) : exec (.monset o) s = execMonset o s := rfl
theorem exec_trxchk (s : State) (o : OpR) : exec (.trxchk o) s = execTrxchk o s := rfl
theorem exec_trxesc (s : State) (o : OpZ) : exec (.trxesc o) s = execTrxesc o s := rfl
theorem exec_trav (s : State) (o : OpR) : exec (.trav o) s = execTrav o s := rfl
theorem exec_travst (s : State) (o : OpR) : exec (.travst o) s = execTravst o s := rfl
theorem exec_barinit (s : State) (o : OpR) : exec (.barinit o) s = execBarinit o s := rfl
theorem exec_bararr (s : State) (o : OpR) : exec (.bararr o) s = execBararr o s := rfl
theorem exec_barwait (s : State) (o : OpR) : exec (.barwait o) s = execBarwait o s := rfl
theorem exec_bar (s : State) (o : OpR) : exec (.bar o) s = execBar o s := rfl
theorem exec_tkwait (s : State) (o : OpR) : exec (.tkwait o) s = execTkwait o s := rfl
theorem exec_tkpass (s : State) (o : OpR) : exec (.tkpass o) s = execTkpass o s := rfl
theorem exec_spawn (s : State) (o : OpR) : exec (.spawn o) s = execSpawn o s := rfl
theorem exec_wret (s : State) (o : OpR) : exec (.wret o) s = execWret o s := rfl
theorem exec_mwait (s : State) (o : OpR) : exec (.mwait o) s = execMwait o s := rfl
theorem exec_red (s : State) (o : OpR) : exec (.red o) s = execRed o s := rfl
theorem exec_redfl (s : State) (o : OpR) : exec (.redfl o) s = execRedfl o s := rfl
theorem exec_redarm (s : State) (o : OpR) : exec (.redarm o) s = execRedarm o s := rfl
theorem exec_ownset (s : State) (o : OpR) : exec (.ownset o) s = execOwnset o s := rfl
theorem exec_launch (s : State) (o : OpR) : exec (.launch o) s = execLaunch o s := rfl
theorem exec_trap (s : State) (o : OpI) : exec (.trap o) s = execTrap o s := rfl
theorem exec_bkpt (s : State) : exec .bkpt s = execBkpt s := rfl
theorem exec_tret (s : State) : exec .tret s = execTret s := rfl
theorem exec_killg (s : State) (o : OpZ) : exec (.killg o) s = execKillg o s := rfl
theorem exec_killb (s : State) (o : OpZ) : exec (.killb o) s = execKillb o s := rfl
theorem exec_fltrd (s : State) (o : OpR) : exec (.fltrd o) s = execFltrd o s := rfl
theorem exec_waitkRelease (s : State) : exec .waitkRelease s = execWaitkRelease s := rfl
theorem exec_memberWaitComplete (s : State) : exec .memberWaitComplete s = execMemberWaitComplete s := rfl
theorem exec_unsatisfiableWait (s : State) : exec .unsatisfiableWait s = execUnsatisfiableWait s := rfl
theorem exec_sleepEnd (s : State) : exec .sleepEnd s = execSleepEnd s := rfl
theorem exec_syncwaitComplete (s : State) : exec .syncwaitComplete s = execSyncwaitComplete s := rfl
theorem exec_collectiveRound (s : State) : exec .collectiveRound s = execCollectiveRound s := rfl
theorem exec_awaitComplete (s : State) : exec .awaitComplete s = execAwaitComplete s := rfl
theorem exec_syncWordArrival (s : State) : exec .syncWordArrival s = execSyncWordArrival s := rfl
theorem exec_engineCompletionUpdate (s : State) : exec .engineCompletionUpdate s = execEngineCompletionUpdate s := rfl
theorem exec_matrixOpComplete (s : State) : exec .matrixOpComplete s = execMatrixOpComplete s := rfl
theorem exec_ladderAbort (s : State) : exec .ladderAbort s = execLadderAbort s := rfl
theorem exec_ladderCommit (s : State) : exec .ladderCommit s = execLadderCommit s := rfl
theorem exec_shadowStallResolve (s : State) : exec .shadowStallResolve s = execShadowStallResolve s := rfl
theorem exec_traverseComplete (s : State) : exec .traverseComplete s = execTraverseComplete s := rfl
theorem exec_barrierArrive (s : State) : exec .barrierArrive s = execBarrierArrive s := rfl
theorem exec_barwaitComplete (s : State) : exec .barwaitComplete s = execBarwaitComplete s := rfl
theorem exec_tkwaitComplete (s : State) : exec .tkwaitComplete s = execTkwaitComplete s := rfl
theorem exec_mwaitWake (s : State) : exec .mwaitWake s = execMwaitWake s := rfl
theorem exec_updateLineFire (s : State) : exec .updateLineFire s = execUpdateLineFire s := rfl
theorem exec_impreciseFaultDelivery (s : State) : exec .impreciseFaultDelivery s = execImpreciseFaultDelivery s := rfl
theorem exec_loadResponse (s : State) : exec .loadResponse s = execLoadResponse s := rfl
theorem exec_storeCheckResponse (s : State) : exec .storeCheckResponse s = execStoreCheckResponse s := rfl
theorem exec_leaseWriteback (s : State) : exec .leaseWriteback s = execLeaseWriteback s := rfl
theorem exec_writebackAccept (s : State) : exec .writebackAccept s = execWritebackAccept s := rfl
theorem exec_leaseExpiry (s : State) : exec .leaseExpiry s = execLeaseExpiry s := rfl
theorem exec_translationChangeComplete (s : State) : exec .translationChangeComplete s = execTranslationChangeComplete s := rfl
theorem exec_pageMoveComplete (s : State) : exec .pageMoveComplete s = execPageMoveComplete s := rfl
theorem exec_settledExpiry (s : State) : exec .settledExpiry s = execSettledExpiry s := rfl
theorem exec_hotInterval (s : State) : exec .hotInterval s = execHotInterval s := rfl
theorem exec_scrubUncorrectable (s : State) : exec .scrubUncorrectable s = execScrubUncorrectable s := rfl
theorem exec_swapTrigger (s : State) : exec .swapTrigger s = execSwapTrigger s := rfl
theorem exec_swapout (s : State) : exec .swapout s = execSwapout s := rfl
theorem exec_dispatchDecision (s : State) : exec .dispatchDecision s = execDispatchDecision s := rfl
theorem exec_launchAccept (s : State) : exec .launchAccept s = execLaunchAccept s := rfl
theorem exec_launchComplete (s : State) : exec .launchComplete s = execLaunchComplete s := rfl
theorem exec_budgetPeriod (s : State) : exec .budgetPeriod s = execBudgetPeriod s := rfl
theorem exec_wdogExpire (s : State) : exec .wdogExpire s = execWdogExpire s := rfl
theorem exec_preemptDone (s : State) : exec .preemptDone s = execPreemptDone s := rfl
theorem exec_logReadIndexWrite (s : State) : exec .logReadIndexWrite s = execLogReadIndexWrite s := rfl
theorem exec_queueTailWrite (s : State) : exec .queueTailWrite s = execQueueTailWrite s := rfl
theorem exec_registerWrite (s : State) : exec .registerWrite s = execRegisterWrite s := rfl
theorem exec_partSet (s : State) : exec .partSet s = execPartSet s := rfl
theorem exec_partFree (s : State) : exec .partFree s = execPartFree s := rfl
theorem exec_qCreate (s : State) : exec .qCreate s = execQCreate s := rfl
theorem exec_qConfig (s : State) : exec .qConfig s = execQConfig s := rfl
theorem exec_qEnable (s : State) : exec .qEnable s = execQEnable s := rfl
theorem exec_qHalt (s : State) : exec .qHalt s = execQHalt s := rfl
theorem exec_qDestroy (s : State) : exec .qDestroy s = execQDestroy s := rfl
theorem exec_budgetSet (s : State) : exec .budgetSet s = execBudgetSet s := rfl
theorem exec_budgetRead (s : State) : exec .budgetRead s = execBudgetRead s := rfl
theorem exec_partParam (s : State) : exec .partParam s = execPartParam s := rfl
theorem exec_preempt (s : State) : exec .preempt s = execPreempt s := rfl
theorem exec_reopen (s : State) : exec .reopen s = execReopen s := rfl
theorem exec_drain (s : State) : exec .drain s = execDrain s := rfl
theorem exec_kick (s : State) : exec .kick s = execKick s := rfl
theorem exec_xlate (s : State) : exec .xlate s = execXlate s := rfl
theorem exec_migrate (s : State) : exec .migrate s = execMigrate s := rfl
theorem exec_commCreate (s : State) : exec .commCreate s = execCommCreate s := rfl
theorem exec_commFree (s : State) : exec .commFree s = execCommFree s := rfl
theorem exec_gazClear (s : State) : exec .gazClear s = execGazClear s := rfl
theorem exec_evlogSet (s : State) : exec .evlogSet s = execEvlogSet s := rfl
theorem exec_replicaSet (s : State) : exec .replicaSet s = execReplicaSet s := rfl
theorem exec_evlogStat (s : State) : exec .evlogStat s = execEvlogStat s := rfl
theorem exec_podSet (s : State) : exec .podSet s = execPodSet s := rfl
theorem exec_aclSet (s : State) : exec .aclSet s = execAclSet s := rfl
theorem exec_pwrState (s : State) : exec .pwrState s = execPwrState s := rfl
theorem exec_pwrCap (s : State) : exec .pwrCap s = execPwrCap s := rfl
theorem exec_eccRead (s : State) : exec .eccRead s = execEccRead s := rfl
theorem exec_selftest (s : State) : exec .selftest s = execSelftest s := rfl
theorem exec_fwLoad (s : State) : exec .fwLoad s = execFwLoad s := rfl
theorem exec_attest (s : State) : exec .attest s = execAttest s := rfl
theorem exec_netSet (s : State) : exec .netSet s = execNetSet s := rfl
theorem exec_replicaCompare (s : State) : exec .replicaCompare s = execReplicaCompare s := rfl
theorem exec_dbgen (s : State) : exec .dbgen s = execDbgen s := rfl
theorem exec_brk (s : State) : exec .brk s = execBrk s := rfl
theorem exec_halt (s : State) : exec .halt s = execHalt s := rfl
theorem exec_haltb (s : State) : exec .haltb s = execHaltb s := rfl
theorem exec_resume (s : State) : exec .resume s = execResume s := rfl
theorem exec_step (s : State) : exec .step s = execStep s := rfl
theorem exec_dbgRd (s : State) : exec .dbgRd s = execDbgRd s := rfl
theorem exec_dbgWr (s : State) : exec .dbgWr s = execDbgWr s := rfl
theorem exec_addressBreakpointHalt (s : State) : exec .addressBreakpointHalt s = execAddressBreakpointHalt s := rfl
theorem exec_hostCxlMemAccess (s : State) : exec .hostCxlMemAccess s = execHostCxlMemAccess s := rfl
theorem exec_hostSnoop (s : State) : exec .hostSnoop s = execHostSnoop s := rfl
theorem exec_hostAtomicop (s : State) : exec .hostAtomicop s = execHostAtomicop s := rfl
theorem exec_podRemoteAccess (s : State) : exec .podRemoteAccess s = execPodRemoteAccess s := rfl
theorem exec_linkDown (s : State) : exec .linkDown s = execLinkDown s := rfl
theorem exec_deviceUnreachable (s : State) : exec .deviceUnreachable s = execDeviceUnreachable s := rfl
theorem exec_netAckTimeout (s : State) : exec .netAckTimeout s = execNetAckTimeout s := rfl
theorem exec_standbyWake (s : State) : exec .standbyWake s = execStandbyWake s := rfl
theorem exec_powerOn (s : State) : exec .powerOn s = execPowerOn s := rfl
theorem exec_portReturn (s : State) : exec .portReturn s = execPortReturn s := rfl
theorem exec_powerOff (s : State) : exec .powerOff s = execPowerOff s := rfl
theorem exec_arithmeticClockStep (s : State) : exec .arithmeticClockStep s = execArithmeticClockStep s := rfl
theorem exec_coreReservation (s : State) : exec .coreReservation s = execCoreReservation s := rfl
theorem exec_flitReplay (s : State) : exec .flitReplay s = execFlitReplay s := rfl

end Sys2Proof.Machine
end

