-- ==== Sys2Proof/Laws/Shapes.lean ====
section
/-! SUPPORT. One lemma for each shape in which instructions act: what it answers where the set issues, once and for all. -/

namespace Sys2Proof.Machine

open Sys2Proof

/-! ## The set and the checks -/

theorem runSet_next {i : Instr} {s : State} {c : Sel} (f : Sel → State) (h : Issues s c i) :
    runSet i s f = .next { f c with toPlat := s.toPlat } := by
  simp [runSet, h.1, h.2]

theorem runSet_range {i : Instr} {s : State} {c : Sel} (f : Sel → State) (h : s.sel = some c) (hr : c.rangeOk i = false) :
    runSet i s f = .next { c.raiseEach s c.lanes (mkFail cREGRANGE 0 (instrWord i).toNat) with toPlat := s.toPlat } := by
  simp [runSet, h, hr]

theorem runElem_next {i : Instr} {s : State} {c : Sel} (f : Sel → State) (h : Issues s c i) (hp : pastEnd c.b.rung i = false) :
    runElem i s f = .next { f c with toPlat := s.toPlat } := by
  simp [runElem, runSet, h.1, h.2, hp]

theorem runElem_range {i : Instr} {s : State} {c : Sel} (f : Sel → State) (h : s.sel = some c) (hp : pastEnd c.b.rung i = false)
    (hr : c.rangeOk i = false) :
    runElem i s f = .next { c.raiseEach s c.lanes (mkFail cREGRANGE 0 (instrWord i).toNat) with toPlat := s.toPlat } := by
  simp [runElem, runSet, h, hr, hp]

/-- Whatever a set does, it goes on, and the platform is as before. -/
theorem runSet_goes {i : Instr} {s : State} {c : Sel} (f : Sel → State) (h : s.sel = some c) :
    ∃ t, runSet i s f = .next t ∧ t.toPlat = s.toPlat := by
  simp only [runSet, h]
  exact ⟨_, rfl, rfl⟩

theorem runSet_plat {i : Instr} {s t : State} {f : Sel → State} (h : runSet i s f = .next t) : t.toPlat = s.toPlat := by
  unfold runSet at h
  split at h
  · cases h
  · cases h; rfl

/-- An event always goes on, and the platform is as before. -/
theorem runEvent_plat {s t : State} {u : Option State} (h : runEvent s u = .next t) : t.toPlat = s.toPlat := by
  unfold runEvent at h
  split at h <;> cases h <;> rfl

@[simp] theorem runEvent_none (s : State) : runEvent s none = .next s.idle := rfl
theorem runEvent_next {s u : State} : runEvent s (some u) = .next { u with toPlat := s.toPlat } := rfl
theorem runPlatform_next {s u : State} : runPlatform s (some u) = .next u := rfl

/-! ## Lane by lane -/

theorem raise_nil (c : Sel) (s : State) : c.raise s [] = s := by
  simp [Sel.raise, State.logFails]

theorem mem_lanesOf {m : LaneSet} {l : Nat} : l ∈ lanesOf m ↔ m.getLsbD l = true := by
  simp only [lanesOf, List.mem_filter, List.mem_range, and_iff_right_iff_imp]
  intro h
  exact BitVec.lt_of_getLsbD h

theorem laneStep_apply (c : Sel) (i : Instr) (f : Nat → Thread → Thread) (lane : Nat) (t : Thread) :
    (c.laneStep i (fun l t => .done ((f l t).advance (Instr.len i))) lane t).apply t = c.after i f lane t := by
  unfold Sel.laneStep Sel.after
  split
  · split <;> rfl
  · rfl

theorem fails_of_done (c : Sel) (step : Nat → Thread → LaneOut)
    (h : ∀ l ∈ c.lanes, (step l (c.thread l)).fail = none) : c.fails step = [] := by
  simp only [Sel.fails, List.filterMap_eq_nil_iff, Option.map_eq_none_iff]
  exact h

theorem updGroup_plat (s : State) (b g : Nat) (f : Group → Group) : (s.updGroup b g f).toPlat = s.toPlat := rfl
theorem lanesDo_plat (s : State) (c : Sel) (i : Instr) (f : Nat → Thread → Thread) : (s.lanesDo c i f).toPlat = s.toPlat := rfl
@[simp] theorem with_toPlat (s : State) : { s with toPlat := s.toPlat } = s := rfl

/-- An instruction that raises nothing: each guard-true lane has the effect, the others of the set pass (R58), nothing else changes. -/
theorem pureLane_next {i : Instr} {s : State} {c : Sel} (f : Group → Nat → Thread → Thread) (h : Issues s c i) :
    pureLane i s f = .next (s.lanesDo c i (f c.g)) := by
  have hs : c.apply s (c.laneStep i fun l t => .done ((f c.g l t).advance (Instr.len i))) = s.lanesDo c i (f c.g) := by
    unfold Sel.apply
    rw [fails_of_done, raise_nil]
    · unfold State.lanesDo
      simp only [laneStep_apply]
    · intro l _
      unfold Sel.laneStep
      split
      · split <;> rfl
      · rfl
  unfold pureLane perLane
  rw [runSet_next _ h]
  simp only [LaneOut.pass, hs]
  rfl

/-! ## Once for the set -/

theorem advanceAll_eq (c : Sel) (s : State) (i : Instr) : c.advanceAll s i = s.lanesDo c i fun _ t => t := by
  unfold Sel.advanceAll State.lanesDo Sel.after
  simp

/-- A write of group state: once, where some thread of the set is guard-true, from the lowest of them (R121). -/
theorem onceGroup_next {i : Instr} {s : State} {c : Sel} (f : Thread → LaneSet → Group → Group) (h : Issues s c i) :
    onceGroup i s f = .next (s.groupDoes c i (f (c.thread ((c.guarded i).headD 0)) (laneSet (c.guarded i)))) := by
  unfold onceGroup
  rw [runSet_next _ h]
  unfold State.groupDoes
  rw [advanceAll_eq]
  cases hg : c.guarded i with
  | nil => simp; rfl
  | cons a r => simp; rfl

/-! ## Reading the threads of a group -/

theorem find?_map_id (l : List Block) (blk : Nat) (f : Block → Block) (hf : ∀ b, (f b).id = b.id) (b : Nat) :
    (l.map fun x => if x.id == blk then f x else x).find? (fun x => x.id == b)
      = (l.find? fun x => x.id == b).map fun x => if x.id == blk then f x else x := by
  rw [List.find?_map]
  congr 2
  funext x
  dsimp only [Function.comp]
  split
  · rw [hf]
  · rfl

theorem block?_updBlock (s : State) (blk : Nat) (f : Block → Block) (hf : ∀ b, (f b).id = b.id) (b : Nat) :
    (s.updBlock blk f).block? b = (s.block? b).map fun x => if x.id == blk then f x else x :=
  find?_map_id s.blocks blk f hf b

theorem block?_updGroup (s : State) (blk grp : Nat) (f : Group → Group) (b : Nat) :
    (s.updGroup blk grp f).block? b
      = (s.block? b).map fun x => if x.id == blk then { x with groups := x.groups.modify grp f } else x :=
  block?_updBlock s blk (fun x => { x with groups := x.groups.modify grp f }) (fun _ => rfl) b

theorem block?_id {s : State} {b : Nat} {x : Block} (h : s.block? b = some x) : x.id = b := by
  simpa using List.find?_some h

theorem group?_updGroup (s : State) (blk grp b g : Nat) (f : Group → Group) :
    (s.updGroup blk grp f).group? b g = if b = blk ∧ g = grp then (s.group? b g).map f else s.group? b g := by
  unfold State.group?
  rw [block?_updGroup]
  cases hb : s.block? b with
  | none => simp
  | some x =>
    have hx := block?_id hb
    subst hx
    simp only [Option.map_some, Option.bind_some]
    by_cases h1 : x.id = blk
    · by_cases h2 : g = grp
      · subst h1 h2; simp
      · have : grp ≠ g := fun h => h2 h.symm
        subst h1; simp [h2, this]
    · simp [h1]

theorem thread?_mapIdx (s : State) (blk grp : Nat) (F : Nat → Thread → Thread) (lane : Nat) :
    (s.updGroup blk grp fun g => { g with threads := g.threads.mapIdx F }).thread? blk grp lane
      = (s.thread? blk grp lane).map (F lane) := by
  unfold State.thread?
  rw [group?_updGroup]
  simp only [and_self, if_true]
  cases s.group? blk grp with
  | none => rfl
  | some g => simp [List.getElem?_mapIdx]

theorem thread?_lanesDo (s : State) (c : Sel) (i : Instr) (f : Nat → Thread → Thread) (lane : Nat) :
    (s.lanesDo c i f).thread? c.blk c.grp lane = (s.thread? c.blk c.grp lane).map (c.after i f lane) :=
  thread?_mapIdx s c.blk c.grp (c.after i f) lane

/-- A change of one group leaves everything else as it is. -/
theorem onlyGroup_updGroup (s : State) (blk grp : Nat) (f : Group → Group) : OnlyGroup s (s.updGroup blk grp f) blk grp := by
  refine ⟨rfl, ?_, ?_, ?_⟩
  · intro b hb
    rw [block?_updGroup]
    cases h : s.block? b with
    | none => rfl
    | some x => have hx := block?_id h; subst hx; simp [hb]
  · rw [block?_updGroup]
    cases h : s.block? blk with
    | none => rfl
    | some x => have hx := block?_id h; simp [hx]
  · intro g hg
    rw [group?_updGroup]
    simp [hg]

/-- A change of the threads of one group leaves everything else as it is. -/
theorem onlyThreads_mapIdx (s : State) (blk grp : Nat) (F : Nat → Thread → Thread) :
    OnlyThreads s (s.updGroup blk grp fun g => { g with threads := g.threads.mapIdx F }) blk grp := by
  refine ⟨onlyGroup_updGroup s blk grp _, ?_⟩
  rw [group?_updGroup]
  cases s.group? blk grp <;> simp

theorem onlyThreads_lanesDo (s : State) (c : Sel) (i : Instr) (f : Nat → Thread → Thread) :
    OnlyThreads s (s.lanesDo c i f) c.blk c.grp := onlyThreads_mapIdx s c.blk c.grp _

theorem lanesEnd_iff {i : Instr} {s : State} {c : Sel} {f : Nat → Thread → Thread} :
    LanesEnd i s c f ↔ ∃ t, exec i s = .next t ∧ OnlyThreads s t c.blk c.grp
      ∧ ∀ lane th, s.thread? c.blk c.grp lane = some th → t.thread? c.blk c.grp lane = some (c.after i f lane th) := by
  unfold LanesEnd
  exact Iff.rfl

theorem groupEnds_iff {i : Instr} {s : State} {c : Sel} {f : Group → Group} :
    GroupEnds i s c f ↔ exec i s = .next (s.groupDoes c i f) := by
  unfold GroupEnds
  exact Iff.rfl

/-- An instruction that raises nothing completes lane by lane. -/
theorem pureLane_ends {i : Instr} {s : State} {c : Sel} (f : Group → Nat → Thread → Thread) (h : Issues s c i)
    (hx : exec i s = pureLane i s f) : LanesEnd i s c (f c.g) :=
  lanesEnd_iff.mpr
    ⟨_, hx.trans (pureLane_next f h), onlyThreads_lanesDo s c i _, fun lane th ht => by rw [thread?_lanesDo, ht]; rfl⟩

/-- The thread that the set names as a lane's is the one the state holds. -/
theorem sel_thread {s : State} {c : Sel} (h : s.sel = some c) {lane : Nat} {th : Thread}
    (ht : s.thread? c.blk c.grp lane = some th) : c.thread lane = th := by
  have hg : s.group? c.blk c.grp = some c.g := by
    unfold State.sel at h
    simp only [Option.bind_eq_some_iff, Option.map_eq_some_iff] at h
    obtain ⟨i, _, b, hb, g, hg, l, _, rfl⟩ := h
    simp [State.group?, Sel.blk, Sel.grp, hb, hg]
  unfold State.thread? at ht
  rw [hg] at ht
  simp only [Option.bind_some] at ht
  simp [Sel.thread, Group.thread, List.getD_eq_getElem?_getD, ht]

/-- One that may raise, where it raises nothing in the guard-true lanes of the set. -/
theorem perLane_ends {i : Instr} {s : State} {c : Sel} (f : Group → Nat → Thread → LaneOut) (g : Nat → Thread → Thread)
    (h : Issues s c i) (hx : exec i s = perLane i s f)
    (hf : ∀ lane ∈ c.lanes, guardOk (instrMods i) (c.thread lane) = true →
      f c.g lane (c.thread lane) = .done (g lane (c.thread lane))) : LanesEnd i s c g := by
  have hfails : c.fails (c.laneStep i fun l t => (f c.g l t).pass (Instr.len i)) = [] := by
    apply fails_of_done
    intro l hl
    unfold Sel.laneStep
    by_cases hi : c.issue.lanes.getLsbD l = true
    · by_cases hg : guardOk (instrMods i) (c.thread l) = true
      · simp [hi, hg, hf l hl hg, LaneOut.fail, LaneOut.pass]
      · simp [hi, hg, LaneOut.fail]
    · simp [hi, LaneOut.fail]
  refine lanesEnd_iff.mpr ?_
  rw [hx]
  unfold perLane
  rw [runSet_next _ h]
  refine ⟨_, rfl, ?_⟩
  simp only [Sel.apply, hfails, raise_nil]
  let F : Nat → Thread → Thread := fun l t => ((c.laneStep i fun l t => (f c.g l t).pass (Instr.len i)) l t).apply t
  refine ⟨onlyThreads_mapIdx s c.blk c.grp F, ?_⟩
  intro lane th ht
  have hth := sel_thread h.1 ht
  have := thread?_mapIdx s c.blk c.grp F lane
  rw [ht] at this
  refine this.trans ?_
  simp only [Option.map_some, F, Option.some.injEq]
  unfold Sel.laneStep Sel.after
  by_cases hi : c.issue.lanes.getLsbD lane = true
  · by_cases hg : guardOk (instrMods i) th = true
    · have := hf lane (mem_lanesOf.mpr hi) (by rw [hth]; exact hg)
      rw [hth] at this
      simp [hi, hg, this, LaneOut.apply, LaneOut.pass]
    · simp [hi, hg, LaneOut.apply]
  · simp [hi, LaneOut.apply]

end Sys2Proof.Machine
end

