-- ==== Sys2Proof/Laws/Lanes.lean ====
section
/-! SUPPORT. One lemma for each operand shape of the lane instructions and of the uniform ones: where the set issues, the instruction
completes with the function of its entry on the operands that the shape reads. -/

namespace Sys2Proof.Machine

open Sys2Proof

theorem LanesEnd.congr {i : Instr} {s : State} {c : Sel} {f g : Nat → Thread → Thread} (h : LanesEnd i s c f)
    (e : ∀ lane t, f lane t = g lane t) : LanesEnd i s c g :=
  (funext fun lane => funext fun t => e lane t : f = g) ▸ h

theorem GroupEnds.congr {i : Instr} {s : State} {c : Sel} {f g : Group → Group} (h : GroupEnds i s c f)
    (e : ∀ x, f x = g x) : GroupEnds i s c g := (funext e : f = g) ▸ h

theorem pure_ends {i : Instr} {s : State} {c : Sel} {f : Group → Nat → Thread → Thread} (h : Issues s c i)
    (hx : exec i s = pureLane i s f) : LanesEnd i s c (f c.g) := pureLane_ends f h hx

theorem unaryV_ends {i : Instr} {o : OpU} {s : State} {c : Sel} {f : Word → Word} (h : Issues s c i)
    (hx : exec i s = unaryV i o s f) : LanesEnd i s c fun _ t => t.setV o.d.toNat (f (operandB c.g t o.bk o.b)) :=
  pureLane_ends (fun g _ t => t.setV o.d.toNat (f (operandB g t o.bk o.b))) h hx

theorem binaryV_ends {i : Instr} {o : OpR} {s : State} {c : Sel} {f : Word → Word → Word} (h : Issues s c i)
    (hx : exec i s = binaryV i o s f) :
    LanesEnd i s c fun _ t => t.setV o.d.toNat (f (t.vr o.a.toNat) (operandB c.g t o.bk o.b)) :=
  pureLane_ends (fun g _ t => t.setV o.d.toNat (f (t.vr o.a.toNat) (operandB g t o.bk o.b))) h hx

theorem ternaryV_ends {i : Instr} {o : OpR} {s : State} {c : Sel} {f : Word → Word → Word → Word} (h : Issues s c i)
    (hx : exec i s = ternaryV i o s f) :
    LanesEnd i s c fun _ t =>
      t.setV o.d.toNat (f (t.vr o.a.toNat) (operandB c.g t o.bk o.b) (operandC c.g t (modsOf o.m).c)) :=
  pureLane_ends
    (fun g _ t => t.setV o.d.toNat (f (t.vr o.a.toNat) (operandB g t o.bk o.b) (operandC g t (modsOf o.m).c))) h hx

theorem shiftImmV_ends {i : Instr} {o : OpSI} {s : State} {c : Sel} {f : Word → Nat → Word} (h : Issues s c i)
    (hx : exec i s = shiftImmV i o s f) : LanesEnd i s c fun _ t => t.setV o.d.toNat (f (t.vr o.a.toNat) o.imm.toNat) :=
  pureLane_ends (fun _ _ t => t.setV o.d.toNat (f (t.vr o.a.toNat) o.imm.toNat)) h hx

theorem compactV_ends {i : Instr} {o : OpC} {s : State} {c : Sel} {f : Word → Word → Word} (h : Issues s c i)
    (hx : exec i s = compactV i o s f) : LanesEnd i s c fun _ t => t.setV o.d.toNat (f (t.vr o.d.toNat) (t.vr o.b.toNat)) :=
  pureLane_ends (fun _ _ t => t.setV o.d.toNat (f (t.vr o.d.toNat) (t.vr o.b.toNat))) h hx

theorem compactImm_ends {i : Instr} {o : OpC} {s : State} {c : Sel} {f : Word → BitVec 5 → Word} (h : Issues s c i)
    (hx : exec i s = compactImm i o s f) : LanesEnd i s c fun _ t => t.setV o.d.toNat (f (t.vr o.d.toNat) o.b) :=
  pureLane_ends (fun _ _ t => t.setV o.d.toNat (f (t.vr o.d.toNat) o.b)) h hx

theorem binaryPair_ends {i : Instr} {o : OpR} {s : State} {c : Sel} {f : Dword → Dword → Dword} (h : Issues s c i)
    (hx : exec i s = binaryPair i o s f) :
    LanesEnd i s c fun _ t => t.setPair o.d.toNat (f (t.vPair o.a.toNat) (pairB c.g t o.bk o.b)) :=
  pureLane_ends (fun g _ t => t.setPair o.d.toNat (f (t.vPair o.a.toNat) (pairB g t o.bk o.b))) h hx

theorem onceGroup_ends {i : Instr} {s : State} {c : Sel} {f : Thread → LaneSet → Group → Group} (h : Issues s c i)
    (hx : exec i s = onceGroup i s f) :
    GroupEnds i s c (f (c.thread ((c.guarded i).headD 0)) (laneSet (c.guarded i))) :=
  groupEnds_iff.mpr (hx.trans (onceGroup_next f h))

theorem uniformS_ends {i : Instr} {o : OpF8} {s : State} {c : Sel} {f : Word → Word → Word} (h : Issues s c i)
    (hx : exec i s = uniformS i o s f) :
    GroupEnds i s c fun g => g.setS o.d.toNat (f (g.sr o.a.toNat) (uniformC g (modsOf o.m).c)) :=
  onceGroup_ends (f := fun _ _ g => g.setS o.d.toNat (f (g.sr o.a.toNat) (uniformC g (modsOf o.m).c))) h hx

end Sys2Proof.Machine
end

