-- ==== Sys2Proof/Laws/Memory.lean ====
section
/-! SUPPORT. The laws of memory: every operation keeps the canonical form; a read after a write gives the value written at its address and what was
there at every other. -/

namespace Sys2Proof.Machine

open Sys2Proof

theorem above_iff {a : Nat} {m : Mem} : Mem.above a m = true ↔ ∀ c ∈ m, a < c.1 := by
  simp [Mem.above]
theorem wf_cons {k : Nat} {v : Byte} {r : Mem} : Mem.wf ((k, v) :: r) = true ↔ v ≠ unlisted ∧ (∀ c ∈ r, k < c.1) ∧ Mem.wf r = true := by
  simp [Mem.wf, above_iff, and_assoc]

/-! ## One byte -/

theorem write_mem {m : Mem} {a : Nat} {v : Byte} {c : Host.Cell} (h : c ∈ Mem.write m a v) : c = (a, v) ∨ c ∈ m := by
  induction m with
  | nil => unfold Mem.write at h; split at h <;> simp_all
  | cons x r ih =>
    obtain ⟨k, w⟩ := x
    unfold Mem.write at h
    split at h
    · split at h
      · exact .inr h
      · simpa using h
    · split at h
      · split at h
        · exact .inr (List.mem_cons_of_mem _ h)
        · rcases List.mem_cons.mp h with h | h
          · exact .inl h
          · exact .inr (List.mem_cons_of_mem _ h)
      · rcases List.mem_cons.mp h with h | h
        · exact .inr (h ▸ List.mem_cons_self)
        · rcases ih h with h | h
          · exact .inl h
          · exact .inr (List.mem_cons_of_mem _ h)

/-- A write keeps the canonical form. -/
theorem write_wf {m : Mem} (h : m.wf = true) (a : Nat) (v : Byte) : (m.write a v).wf = true := by
  induction m with
  | nil =>
    unfold Mem.write
    split
    · rfl
    · rename_i hv
      simp [hv, Mem.wf, Mem.above]
  | cons x r ih =>
    obtain ⟨k, w⟩ := x
    obtain ⟨hw, hk, hr⟩ := wf_cons.mp h
    unfold Mem.write
    split
    · rename_i hak
      split
      · exact h
      · rename_i hv
        refine wf_cons.mpr ⟨hv, fun c hc => ?_, h⟩
        rcases List.mem_cons.mp hc with hc | hc
        · rw [hc]; exact hak
        · exact Nat.lt_trans hak (hk c hc)
    · split
      · rename_i hak
        split
        · exact hr
        · rename_i hv
          exact wf_cons.mpr ⟨hv, fun c hc => hak ▸ hk c hc, hr⟩
      · refine wf_cons.mpr ⟨hw, fun c hc => ?_, ih hr⟩
        rcases write_mem hc with hc | hc
        · rw [hc]; omega
        · exact hk c hc

theorem read_of_above {m : Mem} {a : Nat} (h : ∀ c ∈ m, a < c.1) : Mem.read m a = unlisted := by
  induction m with
  | nil => rfl
  | cons x r ih =>
    obtain ⟨k, w⟩ := x
    have hk : a < k := h (k, w) (by simp)
    unfold Mem.read
    rw [if_neg (by omega)]
    exact ih fun c hc => h c (List.mem_cons_of_mem _ hc)

/-- What a byte reads as after a write. -/
theorem read_write {m : Mem} (h : m.wf = true) (a b : Nat) (v : Byte) : (m.write a v).read b = if b = a then v else m.read b := by
  induction m with
  | nil =>
    unfold Mem.write
    by_cases hv : v = unlisted
    · subst hv; simp [Mem.read]
    · by_cases hb : b = a
      · subst hb; simp [hv, Mem.read]
      · simp [hv, Mem.read, hb, Ne.symm hb]
  | cons x r ih =>
    obtain ⟨k, w⟩ := x
    obtain ⟨hw, hk, hr⟩ := wf_cons.mp h
    unfold Mem.write
    by_cases h1 : a < k
    · rw [if_pos h1]
      by_cases hv : v = unlisted
      · rw [if_pos hv]
        by_cases hb : b = a
        · subst hb
          rw [if_pos rfl, hv]
          refine read_of_above fun c hc => ?_
          rcases List.mem_cons.mp hc with hc | hc
          · rw [hc]; exact h1
          · exact Nat.lt_trans h1 (hk c hc)
        · rw [if_neg hb]
      · rw [if_neg hv]
        by_cases hb : b = a
        · subst hb; simp [Mem.read]
        · simp [Mem.read, hb, Ne.symm hb]
    · rw [if_neg h1]
      by_cases h2 : a = k
      · subst h2
        rw [if_pos rfl]
        by_cases hv : v = unlisted
        · rw [if_pos hv]
          by_cases hb : b = a
          · subst hb; rw [if_pos rfl, hv]; exact read_of_above hk
          · rw [if_neg hb]
            exact (if_neg (Ne.symm hb)).symm
        · rw [if_neg hv]
          by_cases hb : b = a
          · subst hb; simp [Mem.read]
          · simp [Mem.read, hb, Ne.symm hb]
      · rw [if_neg h2]
        by_cases hb : k = b
        · subst hb
          rw [if_neg (by omega)]
          simp [Mem.read]
        · have e := ih hr
          simp only [Mem.read, if_neg hb, e]

/-! ## Several bytes -/

theorem writeBytes_wf {m : Mem} (h : m.wf = true) (a : Nat) (bs : List Byte) : (m.writeBytes a bs).wf = true := by
  induction bs generalizing m a with
  | nil => exact h
  | cons b r ih => exact ih (write_wf h a b) (a + 1)

theorem read_writeBytes {m : Mem} (h : m.wf = true) (a b : Nat) (bs : List Byte) :
    (m.writeBytes a bs).read b = if a ≤ b ∧ b < a + bs.length then bs.getD (b - a) 0 else m.read b := by
  induction bs generalizing m a with
  | nil => simp [Mem.writeBytes] <;> omega
  | cons x r ih =>
    have e : (m.writeBytes a (x :: r)).read b = ((m.write a x).writeBytes (a + 1) r).read b := rfl
    rw [e, ih (write_wf h a x), read_write h]
    simp only [List.length_cons]
    by_cases h1 : a + 1 ≤ b ∧ b < a + 1 + r.length
    · have h2 : a ≤ b ∧ b < a + (r.length + 1) := by omega
      have h3 : b - a = (b - (a + 1)) + 1 := by omega
      rw [if_pos h1, if_pos h2, h3, List.getD_cons_succ]
    · rw [if_neg h1]
      by_cases h2 : b = a
      · subst h2; simp
      · have h3 : ¬(a ≤ b ∧ b < a + (r.length + 1)) := by omega
        rw [if_neg h2, if_neg h3]

/-- The bytes written are read back. -/
theorem readBytes_writeBytes {m : Mem} (h : m.wf = true) (a : Nat) (bs : List Byte) : (m.writeBytes a bs).readBytes a bs.length = bs := by
  apply List.ext_getElem
  · simp [Mem.readBytes]
  · intro i h1 h2
    simp only [Mem.readBytes, List.getElem_map, List.getElem_range, read_writeBytes h]
    rw [if_pos (by omega)]
    have : a + i - a = i := by omega
    rw [this, List.getD_eq_getElem?_getD, List.getElem?_eq_getElem h2]
    rfl

theorem bytesLE_length (n x : Nat) : (bytesLE n x).length = n := by
  induction n generalizing x with
  | zero => rfl
  | succ n ih => simp [bytesLE, ih]
theorem ofBytes_bytesLE (n x : Nat) : ofBytes (bytesLE n x) = x % 2 ^ (8 * n) := by
  induction n generalizing x with
  | zero => simp [bytesLE, ofBytes, Nat.mod_one]
  | succ n ih =>
    simp only [bytesLE, ofBytes, ih, BitVec.toNat_ofNat]
    have : 2 ^ (8 * (n + 1)) = 256 * 2 ^ (8 * n) := by rw [Nat.mul_succ, Nat.pow_add, Nat.mul_comm]
    rw [this, Nat.mod_mul]
theorem writeNat_wf {m : Mem} (h : m.wf = true) (a n x : Nat) : (m.writeNat a n x).wf = true := writeBytes_wf h a _
theorem readNat_writeNat {m : Mem} (h : m.wf = true) (a n x : Nat) : (m.writeNat a n x).readNat a n = x % 2 ^ (8 * n) := by
  unfold Mem.readNat Mem.writeNat
  have e := readBytes_writeBytes h a (bytesLE n x)
  rw [bytesLE_length] at e
  rw [e, ofBytes_bytesLE]

/-! ## Regions -/

theorem filter_wf {m : Mem} (h : m.wf = true) (p : Host.Cell → Bool) : Mem.wf (m.filter p) = true := by
  induction m with
  | nil => rfl
  | cons x r ih =>
    obtain ⟨k, v⟩ := x
    obtain ⟨hv, hk, hr⟩ := wf_cons.mp h
    rw [List.filter_cons]
    split
    · exact wf_cons.mpr ⟨hv, fun c hc => hk c (List.mem_filter.mp hc).1, ih hr⟩
    · exact ih hr
theorem foldl_write_wf {α : Type} (l : List α) (f : Mem → α → Mem) (hf : ∀ m x, m.wf = true → (f m x).wf = true) {m : Mem} (h : m.wf = true) :
    (l.foldl f m).wf = true := by
  induction l generalizing m with
  | nil => exact h
  | cons x r ih => exact ih (hf m x h)
theorem copyInto_wf {src dst : Mem} (h : dst.wf = true) (a b n : Nat) : (src.copyInto dst a b n).wf = true := by
  unfold Mem.copyInto
  refine foldl_write_wf _ _ (fun m x hm => ?_) (filter_wf h _)
  split
  · exact write_wf hm _ _
  · exact hm

/-! ## The state's memories -/

theorem placeWrite_memOk {s : State} (h : s.hbm.wf = true ∧ s.host.wf = true ∧ s.remote.wf = true ∧ s.backing.wf = true) (p : Place) (bs : List Byte) :
    (s.placeWrite p bs).hbm.wf = true ∧ (s.placeWrite p bs).host.wf = true ∧ (s.placeWrite p bs).remote.wf = true ∧ (s.placeWrite p bs).backing.wf = true := by
  obtain ⟨h1, h2, h3, h4⟩ := h
  cases p with
  | hbm a => exact ⟨writeBytes_wf h1 _ _, h2, h3, h4⟩
  | host a => exact ⟨h1, writeBytes_wf h2 _ _, h3, h4⟩
  | remote a => exact ⟨h1, h2, writeBytes_wf h3 _ _, h4⟩
theorem placeMerge_memOk {s : State} (h : s.hbm.wf = true ∧ s.host.wf = true ∧ s.remote.wf = true ∧ s.backing.wf = true) (p : Place)
    (bs : List (Nat × Byte)) :
    (s.placeMerge p bs).hbm.wf = true ∧ (s.placeMerge p bs).host.wf = true ∧ (s.placeMerge p bs).remote.wf = true ∧ (s.placeMerge p bs).backing.wf = true := by
  unfold State.placeMerge
  induction bs generalizing s with
  | nil => exact h
  | cons x r ih => exact ih (placeWrite_memOk h _ _)

end Sys2Proof.Machine
end

