-- ==== Sys2Proof/Laws/State.lean ====
section
/-! SUPPORT. What each update of the state, of a group and of a thread leaves: one lemma per field per update, so that no proof unfolds a record
update. -/

namespace Sys2Proof.Machine

open Sys2Proof

/-! ### State.updBlock -/

@[simp] theorem State.updBlock_toPlat (s : State) (n : Nat) (f : Block → Block) : (s.updBlock n f).toPlat = s.toPlat := rfl
@[simp] theorem State.updBlock_gtime (s : State) (n : Nat) (f : Block → Block) : (s.updBlock n f).gtime = s.gtime := rfl
@[simp] theorem State.updBlock_clocks (s : State) (n : Nat) (f : Block → Block) : (s.updBlock n f).clocks = s.clocks := rfl
@[simp] theorem State.updBlock_fracs (s : State) (n : Nat) (f : Block → Block) : (s.updBlock n f).fracs = s.fracs := rfl
@[simp] theorem State.updBlock_phase (s : State) (n : Nat) (f : Block → Block) : (s.updBlock n f).phase = s.phase := rfl
@[simp] theorem State.updBlock_msix (s : State) (n : Nat) (f : Block → Block) : (s.updBlock n f).msix = s.msix := rfl
@[simp] theorem State.updBlock_mbStatus (s : State) (n : Nat) (f : Block → Block) : (s.updBlock n f).mbStatus = s.mbStatus := rfl
@[simp] theorem State.updBlock_mbCode (s : State) (n : Nat) (f : Block → Block) : (s.updBlock n f).mbCode = s.mbCode := rfl
@[simp] theorem State.updBlock_mbBusy (s : State) (n : Nat) (f : Block → Block) : (s.updBlock n f).mbBusy = s.mbBusy := rfl
@[simp] theorem State.updBlock_mailbox (s : State) (n : Nat) (f : Block → Block) : (s.updBlock n f).mailbox = s.mailbox := rfl
@[simp] theorem State.updBlock_hbm (s : State) (n : Nat) (f : Block → Block) : (s.updBlock n f).hbm = s.hbm := rfl
@[simp] theorem State.updBlock_host (s : State) (n : Nat) (f : Block → Block) : (s.updBlock n f).host = s.host := rfl
@[simp] theorem State.updBlock_remote (s : State) (n : Nat) (f : Block → Block) : (s.updBlock n f).remote = s.remote := rfl
@[simp] theorem State.updBlock_backing (s : State) (n : Nat) (f : Block → Block) : (s.updBlock n f).backing = s.backing := rfl
@[simp] theorem State.updBlock_entries (s : State) (n : Nat) (f : Block → Block) : (s.updBlock n f).entries = s.entries := rfl
@[simp] theorem State.updBlock_sketches (s : State) (n : Nat) (f : Block → Block) : (s.updBlock n f).sketches = s.sketches := rfl
@[simp] theorem State.updBlock_hotLists (s : State) (n : Nat) (f : Block → Block) : (s.updBlock n f).hotLists = s.hotLists := rfl
@[simp] theorem State.updBlock_replicas (s : State) (n : Nat) (f : Block → Block) : (s.updBlock n f).replicas = s.replicas := rfl
@[simp] theorem State.updBlock_images (s : State) (n : Nat) (f : Block → Block) : (s.updBlock n f).images = s.images := rfl
@[simp] theorem State.updBlock_armings (s : State) (n : Nat) (f : Block → Block) : (s.updBlock n f).armings = s.armings := rfl
@[simp] theorem State.updBlock_nextArming (s : State) (n : Nat) (f : Block → Block) : (s.updBlock n f).nextArming = s.nextArming := rfl
@[simp] theorem State.updBlock_armRecords (s : State) (n : Nat) (f : Block → Block) : (s.updBlock n f).armRecords = s.armRecords := rfl
@[simp] theorem State.updBlock_gaz (s : State) (n : Nat) (f : Block → Block) : (s.updBlock n f).gaz = s.gaz := rfl
@[simp] theorem State.updBlock_seq (s : State) (n : Nat) (f : Block → Block) : (s.updBlock n f).seq = s.seq := rfl
@[simp] theorem State.updBlock_bootRing (s : State) (n : Nat) (f : Block → Block) : (s.updBlock n f).bootRing = s.bootRing := rfl
@[simp] theorem State.updBlock_leftOut (s : State) (n : Nat) (f : Block → Block) : (s.updBlock n f).leftOut = s.leftOut := rfl
@[simp] theorem State.updBlock_logRing (s : State) (n : Nat) (f : Block → Block) : (s.updBlock n f).logRing = s.logRing := rfl
@[simp] theorem State.updBlock_heldEvents (s : State) (n : Nat) (f : Block → Block) : (s.updBlock n f).heldEvents = s.heldEvents := rfl
@[simp] theorem State.updBlock_hintsDropped (s : State) (n : Nat) (f : Block → Block) : (s.updBlock n f).hintsDropped = s.hintsDropped := rfl
@[simp] theorem State.updBlock_eccCounts (s : State) (n : Nat) (f : Block → Block) : (s.updBlock n f).eccCounts = s.eccCounts := rfl
@[simp] theorem State.updBlock_pair (s : State) (n : Nat) (f : Block → Block) : (s.updBlock n f).pair = s.pair := rfl
@[simp] theorem State.updBlock_comms (s : State) (n : Nat) (f : Block → Block) : (s.updBlock n f).comms = s.comms := rfl
@[simp] theorem State.updBlock_contributions (s : State) (n : Nat) (f : Block → Block) : (s.updBlock n f).contributions = s.contributions := rfl
@[simp] theorem State.updBlock_podBars (s : State) (n : Nat) (f : Block → Block) : (s.updBlock n f).podBars = s.podBars := rfl
@[simp] theorem State.updBlock_queues (s : State) (n : Nat) (f : Block → Block) : (s.updBlock n f).queues = s.queues := rfl
@[simp] theorem State.updBlock_partitions (s : State) (n : Nat) (f : Block → Block) : (s.updBlock n f).partitions = s.partitions := rfl
@[simp] theorem State.updBlock_launches (s : State) (n : Nat) (f : Block → Block) : (s.updBlock n f).launches = s.launches := rfl
@[simp] theorem State.updBlock_nextLaunch (s : State) (n : Nat) (f : Block → Block) : (s.updBlock n f).nextLaunch = s.nextLaunch := rfl
@[simp] theorem State.updBlock_nextBlock (s : State) (n : Nat) (f : Block → Block) : (s.updBlock n f).nextBlock = s.nextBlock := rfl
@[simp] theorem State.updBlock_nextDispatch (s : State) (n : Nat) (f : Block → Block) : (s.updBlock n f).nextDispatch = s.nextDispatch := rfl
@[simp] theorem State.updBlock_cores (s : State) (n : Nat) (f : Block → Block) : (s.updBlock n f).cores = s.cores := rfl
@[simp] theorem State.updBlock_signatures (s : State) (n : Nat) (f : Block → Block) : (s.updBlock n f).signatures = s.signatures := rfl
@[simp] theorem State.updBlock_nextPeriod (s : State) (n : Nat) (f : Block → Block) : (s.updBlock n f).nextPeriod = s.nextPeriod := rfl
@[simp] theorem State.updBlock_nextHot (s : State) (n : Nat) (f : Block → Block) : (s.updBlock n f).nextHot = s.nextHot := rfl
@[simp] theorem State.updBlock_result (s : State) (n : Nat) (f : Block → Block) : (s.updBlock n f).result = s.result := rfl
@[simp] theorem State.updBlock_freeCount (s : State) (n : Nat) (f : Block → Block) : (s.updBlock n f).freeCount = s.freeCount := rfl
@[simp] theorem State.updBlock_inbox (s : State) (n : Nat) (f : Block → Block) : (s.updBlock n f).inbox = s.inbox := rfl
@[simp] theorem State.updBlock_subject (s : State) (n : Nat) (f : Block → Block) : (s.updBlock n f).subject = s.subject := rfl
@[simp] theorem State.updBlock_issue (s : State) (n : Nat) (f : Block → Block) : (s.updBlock n f).issue = s.issue := rfl
@[simp] theorem State.updBlock_second (s : State) (n : Nat) (f : Block → Block) : (s.updBlock n f).second = s.second := rfl
@[simp] theorem State.updBlock_turn (s : State) (n : Nat) (f : Block → Block) : (s.updBlock n f).turn = s.turn := rfl
@[simp] theorem State.updBlock_l2 (s : State) (n : Nat) (f : Block → Block) : (s.updBlock n f).l2 = s.l2 := rfl
@[simp] theorem State.updBlock_errors (s : State) (n : Nat) (f : Block → Block) : (s.updBlock n f).errors = s.errors := rfl
@[simp] theorem State.updBlock_soft (s : State) (n : Nat) (f : Block → Block) : (s.updBlock n f).soft = s.soft := rfl

/-! ### State.updGroup -/

@[simp] theorem State.updGroup_toPlat (s : State) (n g : Nat) (f : Group → Group) : (s.updGroup n g f).toPlat = s.toPlat := rfl
@[simp] theorem State.updGroup_gtime (s : State) (n g : Nat) (f : Group → Group) : (s.updGroup n g f).gtime = s.gtime := rfl
@[simp] theorem State.updGroup_clocks (s : State) (n g : Nat) (f : Group → Group) : (s.updGroup n g f).clocks = s.clocks := rfl
@[simp] theorem State.updGroup_fracs (s : State) (n g : Nat) (f : Group → Group) : (s.updGroup n g f).fracs = s.fracs := rfl
@[simp] theorem State.updGroup_phase (s : State) (n g : Nat) (f : Group → Group) : (s.updGroup n g f).phase = s.phase := rfl
@[simp] theorem State.updGroup_msix (s : State) (n g : Nat) (f : Group → Group) : (s.updGroup n g f).msix = s.msix := rfl
@[simp] theorem State.updGroup_mbStatus (s : State) (n g : Nat) (f : Group → Group) : (s.updGroup n g f).mbStatus = s.mbStatus := rfl
@[simp] theorem State.updGroup_mbCode (s : State) (n g : Nat) (f : Group → Group) : (s.updGroup n g f).mbCode = s.mbCode := rfl
@[simp] theorem State.updGroup_mbBusy (s : State) (n g : Nat) (f : Group → Group) : (s.updGroup n g f).mbBusy = s.mbBusy := rfl
@[simp] theorem State.updGroup_mailbox (s : State) (n g : Nat) (f : Group → Group) : (s.updGroup n g f).mailbox = s.mailbox := rfl
@[simp] theorem State.updGroup_hbm (s : State) (n g : Nat) (f : Group → Group) : (s.updGroup n g f).hbm = s.hbm := rfl
@[simp] theorem State.updGroup_host (s : State) (n g : Nat) (f : Group → Group) : (s.updGroup n g f).host = s.host := rfl
@[simp] theorem State.updGroup_remote (s : State) (n g : Nat) (f : Group → Group) : (s.updGroup n g f).remote = s.remote := rfl
@[simp] theorem State.updGroup_backing (s : State) (n g : Nat) (f : Group → Group) : (s.updGroup n g f).backing = s.backing := rfl
@[simp] theorem State.updGroup_entries (s : State) (n g : Nat) (f : Group → Group) : (s.updGroup n g f).entries = s.entries := rfl
@[simp] theorem State.updGroup_sketches (s : State) (n g : Nat) (f : Group → Group) : (s.updGroup n g f).sketches = s.sketches := rfl
@[simp] theorem State.updGroup_hotLists (s : State) (n g : Nat) (f : Group → Group) : (s.updGroup n g f).hotLists = s.hotLists := rfl
@[simp] theorem State.updGroup_replicas (s : State) (n g : Nat) (f : Group → Group) : (s.updGroup n g f).replicas = s.replicas := rfl
@[simp] theorem State.updGroup_images (s : State) (n g : Nat) (f : Group → Group) : (s.updGroup n g f).images = s.images := rfl
@[simp] theorem State.updGroup_armings (s : State) (n g : Nat) (f : Group → Group) : (s.updGroup n g f).armings = s.armings := rfl
@[simp] theorem State.updGroup_nextArming (s : State) (n g : Nat) (f : Group → Group) : (s.updGroup n g f).nextArming = s.nextArming := rfl
@[simp] theorem State.updGroup_armRecords (s : State) (n g : Nat) (f : Group → Group) : (s.updGroup n g f).armRecords = s.armRecords := rfl
@[simp] theorem State.updGroup_gaz (s : State) (n g : Nat) (f : Group → Group) : (s.updGroup n g f).gaz = s.gaz := rfl
@[simp] theorem State.updGroup_seq (s : State) (n g : Nat) (f : Group → Group) : (s.updGroup n g f).seq = s.seq := rfl
@[simp] theorem State.updGroup_bootRing (s : State) (n g : Nat) (f : Group → Group) : (s.updGroup n g f).bootRing = s.bootRing := rfl
@[simp] theorem State.updGroup_leftOut (s : State) (n g : Nat) (f : Group → Group) : (s.updGroup n g f).leftOut = s.leftOut := rfl
@[simp] theorem State.updGroup_logRing (s : State) (n g : Nat) (f : Group → Group) : (s.updGroup n g f).logRing = s.logRing := rfl
@[simp] theorem State.updGroup_heldEvents (s : State) (n g : Nat) (f : Group → Group) : (s.updGroup n g f).heldEvents = s.heldEvents := rfl
@[simp] theorem State.updGroup_hintsDropped (s : State) (n g : Nat) (f : Group → Group) : (s.updGroup n g f).hintsDropped = s.hintsDropped := rfl
@[simp] theorem State.updGroup_eccCounts (s : State) (n g : Nat) (f : Group → Group) : (s.updGroup n g f).eccCounts = s.eccCounts := rfl
@[simp] theorem State.updGroup_pair (s : State) (n g : Nat) (f : Group → Group) : (s.updGroup n g f).pair = s.pair := rfl
@[simp] theorem State.updGroup_comms (s : State) (n g : Nat) (f : Group → Group) : (s.updGroup n g f).comms = s.comms := rfl
@[simp] theorem State.updGroup_contributions (s : State) (n g : Nat) (f : Group → Group) : (s.updGroup n g f).contributions = s.contributions := rfl
@[simp] theorem State.updGroup_podBars (s : State) (n g : Nat) (f : Group → Group) : (s.updGroup n g f).podBars = s.podBars := rfl
@[simp] theorem State.updGroup_queues (s : State) (n g : Nat) (f : Group → Group) : (s.updGroup n g f).queues = s.queues := rfl
@[simp] theorem State.updGroup_partitions (s : State) (n g : Nat) (f : Group → Group) : (s.updGroup n g f).partitions = s.partitions := rfl
@[simp] theorem State.updGroup_launches (s : State) (n g : Nat) (f : Group → Group) : (s.updGroup n g f).launches = s.launches := rfl
@[simp] theorem State.updGroup_nextLaunch (s : State) (n g : Nat) (f : Group → Group) : (s.updGroup n g f).nextLaunch = s.nextLaunch := rfl
@[simp] theorem State.updGroup_nextBlock (s : State) (n g : Nat) (f : Group → Group) : (s.updGroup n g f).nextBlock = s.nextBlock := rfl
@[simp] theorem State.updGroup_nextDispatch (s : State) (n g : Nat) (f : Group → Group) : (s.updGroup n g f).nextDispatch = s.nextDispatch := rfl
@[simp] theorem State.updGroup_cores (s : State) (n g : Nat) (f : Group → Group) : (s.updGroup n g f).cores = s.cores := rfl
@[simp] theorem State.updGroup_signatures (s : State) (n g : Nat) (f : Group → Group) : (s.updGroup n g f).signatures = s.signatures := rfl
@[simp] theorem State.updGroup_nextPeriod (s : State) (n g : Nat) (f : Group → Group) : (s.updGroup n g f).nextPeriod = s.nextPeriod := rfl
@[simp] theorem State.updGroup_nextHot (s : State) (n g : Nat) (f : Group → Group) : (s.updGroup n g f).nextHot = s.nextHot := rfl
@[simp] theorem State.updGroup_result (s : State) (n g : Nat) (f : Group → Group) : (s.updGroup n g f).result = s.result := rfl
@[simp] theorem State.updGroup_freeCount (s : State) (n g : Nat) (f : Group → Group) : (s.updGroup n g f).freeCount = s.freeCount := rfl
@[simp] theorem State.updGroup_inbox (s : State) (n g : Nat) (f : Group → Group) : (s.updGroup n g f).inbox = s.inbox := rfl
@[simp] theorem State.updGroup_subject (s : State) (n g : Nat) (f : Group → Group) : (s.updGroup n g f).subject = s.subject := rfl
@[simp] theorem State.updGroup_issue (s : State) (n g : Nat) (f : Group → Group) : (s.updGroup n g f).issue = s.issue := rfl
@[simp] theorem State.updGroup_second (s : State) (n g : Nat) (f : Group → Group) : (s.updGroup n g f).second = s.second := rfl
@[simp] theorem State.updGroup_turn (s : State) (n g : Nat) (f : Group → Group) : (s.updGroup n g f).turn = s.turn := rfl
@[simp] theorem State.updGroup_l2 (s : State) (n g : Nat) (f : Group → Group) : (s.updGroup n g f).l2 = s.l2 := rfl
@[simp] theorem State.updGroup_errors (s : State) (n g : Nat) (f : Group → Group) : (s.updGroup n g f).errors = s.errors := rfl
@[simp] theorem State.updGroup_soft (s : State) (n g : Nat) (f : Group → Group) : (s.updGroup n g f).soft = s.soft := rfl

/-! ### State.updThread -/

@[simp] theorem State.updThread_toPlat (s : State) (n g l : Nat) (f : Thread → Thread) : (s.updThread n g l f).toPlat = s.toPlat := rfl
@[simp] theorem State.updThread_gtime (s : State) (n g l : Nat) (f : Thread → Thread) : (s.updThread n g l f).gtime = s.gtime := rfl
@[simp] theorem State.updThread_clocks (s : State) (n g l : Nat) (f : Thread → Thread) : (s.updThread n g l f).clocks = s.clocks := rfl
@[simp] theorem State.updThread_fracs (s : State) (n g l : Nat) (f : Thread → Thread) : (s.updThread n g l f).fracs = s.fracs := rfl
@[simp] theorem State.updThread_phase (s : State) (n g l : Nat) (f : Thread → Thread) : (s.updThread n g l f).phase = s.phase := rfl
@[simp] theorem State.updThread_msix (s : State) (n g l : Nat) (f : Thread → Thread) : (s.updThread n g l f).msix = s.msix := rfl
@[simp] theorem State.updThread_mbStatus (s : State) (n g l : Nat) (f : Thread → Thread) : (s.updThread n g l f).mbStatus = s.mbStatus := rfl
@[simp] theorem State.updThread_mbCode (s : State) (n g l : Nat) (f : Thread → Thread) : (s.updThread n g l f).mbCode = s.mbCode := rfl
@[simp] theorem State.updThread_mbBusy (s : State) (n g l : Nat) (f : Thread → Thread) : (s.updThread n g l f).mbBusy = s.mbBusy := rfl
@[simp] theorem State.updThread_mailbox (s : State) (n g l : Nat) (f : Thread → Thread) : (s.updThread n g l f).mailbox = s.mailbox := rfl
@[simp] theorem State.updThread_hbm (s : State) (n g l : Nat) (f : Thread → Thread) : (s.updThread n g l f).hbm = s.hbm := rfl
@[simp] theorem State.updThread_host (s : State) (n g l : Nat) (f : Thread → Thread) : (s.updThread n g l f).host = s.host := rfl
@[simp] theorem State.updThread_remote (s : State) (n g l : Nat) (f : Thread → Thread) : (s.updThread n g l f).remote = s.remote := rfl
@[simp] theorem State.updThread_backing (s : State) (n g l : Nat) (f : Thread → Thread) : (s.updThread n g l f).backing = s.backing := rfl
@[simp] theorem State.updThread_entries (s : State) (n g l : Nat) (f : Thread → Thread) : (s.updThread n g l f).entries = s.entries := rfl
@[simp] theorem State.updThread_sketches (s : State) (n g l : Nat) (f : Thread → Thread) : (s.updThread n g l f).sketches = s.sketches := rfl
@[simp] theorem State.updThread_hotLists (s : State) (n g l : Nat) (f : Thread → Thread) : (s.updThread n g l f).hotLists = s.hotLists := rfl
@[simp] theorem State.updThread_replicas (s : State) (n g l : Nat) (f : Thread → Thread) : (s.updThread n g l f).replicas = s.replicas := rfl
@[simp] theorem State.updThread_images (s : State) (n g l : Nat) (f : Thread → Thread) : (s.updThread n g l f).images = s.images := rfl
@[simp] theorem State.updThread_armings (s : State) (n g l : Nat) (f : Thread → Thread) : (s.updThread n g l f).armings = s.armings := rfl
@[simp] theorem State.updThread_nextArming (s : State) (n g l : Nat) (f : Thread → Thread) : (s.updThread n g l f).nextArming = s.nextArming := rfl
@[simp] theorem State.updThread_armRecords (s : State) (n g l : Nat) (f : Thread → Thread) : (s.updThread n g l f).armRecords = s.armRecords := rfl
@[simp] theorem State.updThread_gaz (s : State) (n g l : Nat) (f : Thread → Thread) : (s.updThread n g l f).gaz = s.gaz := rfl
@[simp] theorem State.updThread_seq (s : State) (n g l : Nat) (f : Thread → Thread) : (s.updThread n g l f).seq = s.seq := rfl
@[simp] theorem State.updThread_bootRing (s : State) (n g l : Nat) (f : Thread → Thread) : (s.updThread n g l f).bootRing = s.bootRing := rfl
@[simp] theorem State.updThread_leftOut (s : State) (n g l : Nat) (f : Thread → Thread) : (s.updThread n g l f).leftOut = s.leftOut := rfl
@[simp] theorem State.updThread_logRing (s : State) (n g l : Nat) (f : Thread → Thread) : (s.updThread n g l f).logRing = s.logRing := rfl
@[simp] theorem State.updThread_heldEvents (s : State) (n g l : Nat) (f : Thread → Thread) : (s.updThread n g l f).heldEvents = s.heldEvents := rfl
@[simp] theorem State.updThread_hintsDropped (s : State) (n g l : Nat) (f : Thread → Thread) : (s.updThread n g l f).hintsDropped = s.hintsDropped := rfl
@[simp] theorem State.updThread_eccCounts (s : State) (n g l : Nat) (f : Thread → Thread) : (s.updThread n g l f).eccCounts = s.eccCounts := rfl
@[simp] theorem State.updThread_pair (s : State) (n g l : Nat) (f : Thread → Thread) : (s.updThread n g l f).pair = s.pair := rfl
@[simp] theorem State.updThread_comms (s : State) (n g l : Nat) (f : Thread → Thread) : (s.updThread n g l f).comms = s.comms := rfl
@[simp] theorem State.updThread_contributions (s : State) (n g l : Nat) (f : Thread → Thread) : (s.updThread n g l f).contributions = s.contributions := rfl
@[simp] theorem State.updThread_podBars (s : State) (n g l : Nat) (f : Thread → Thread) : (s.updThread n g l f).podBars = s.podBars := rfl
@[simp] theorem State.updThread_queues (s : State) (n g l : Nat) (f : Thread → Thread) : (s.updThread n g l f).queues = s.queues := rfl
@[simp] theorem State.updThread_partitions (s : State) (n g l : Nat) (f : Thread → Thread) : (s.updThread n g l f).partitions = s.partitions := rfl
@[simp] theorem State.updThread_launches (s : State) (n g l : Nat) (f : Thread → Thread) : (s.updThread n g l f).launches = s.launches := rfl
@[simp] theorem State.updThread_nextLaunch (s : State) (n g l : Nat) (f : Thread → Thread) : (s.updThread n g l f).nextLaunch = s.nextLaunch := rfl
@[simp] theorem State.updThread_nextBlock (s : State) (n g l : Nat) (f : Thread → Thread) : (s.updThread n g l f).nextBlock = s.nextBlock := rfl
@[simp] theorem State.updThread_nextDispatch (s : State) (n g l : Nat) (f : Thread → Thread) : (s.updThread n g l f).nextDispatch = s.nextDispatch := rfl
@[simp] theorem State.updThread_cores (s : State) (n g l : Nat) (f : Thread → Thread) : (s.updThread n g l f).cores = s.cores := rfl
@[simp] theorem State.updThread_signatures (s : State) (n g l : Nat) (f : Thread → Thread) : (s.updThread n g l f).signatures = s.signatures := rfl
@[simp] theorem State.updThread_nextPeriod (s : State) (n g l : Nat) (f : Thread → Thread) : (s.updThread n g l f).nextPeriod = s.nextPeriod := rfl
@[simp] theorem State.updThread_nextHot (s : State) (n g l : Nat) (f : Thread → Thread) : (s.updThread n g l f).nextHot = s.nextHot := rfl
@[simp] theorem State.updThread_result (s : State) (n g l : Nat) (f : Thread → Thread) : (s.updThread n g l f).result = s.result := rfl
@[simp] theorem State.updThread_freeCount (s : State) (n g l : Nat) (f : Thread → Thread) : (s.updThread n g l f).freeCount = s.freeCount := rfl
@[simp] theorem State.updThread_inbox (s : State) (n g l : Nat) (f : Thread → Thread) : (s.updThread n g l f).inbox = s.inbox := rfl
@[simp] theorem State.updThread_subject (s : State) (n g l : Nat) (f : Thread → Thread) : (s.updThread n g l f).subject = s.subject := rfl
@[simp] theorem State.updThread_issue (s : State) (n g l : Nat) (f : Thread → Thread) : (s.updThread n g l f).issue = s.issue := rfl
@[simp] theorem State.updThread_second (s : State) (n g l : Nat) (f : Thread → Thread) : (s.updThread n g l f).second = s.second := rfl
@[simp] theorem State.updThread_turn (s : State) (n g l : Nat) (f : Thread → Thread) : (s.updThread n g l f).turn = s.turn := rfl
@[simp] theorem State.updThread_l2 (s : State) (n g l : Nat) (f : Thread → Thread) : (s.updThread n g l f).l2 = s.l2 := rfl
@[simp] theorem State.updThread_errors (s : State) (n g l : Nat) (f : Thread → Thread) : (s.updThread n g l f).errors = s.errors := rfl
@[simp] theorem State.updThread_soft (s : State) (n g l : Nat) (f : Thread → Thread) : (s.updThread n g l f).soft = s.soft := rfl

/-! ### State.setCore -/

@[simp] theorem State.setCore_toPlat (s : State) (c : Core) : (s.setCore c).toPlat = s.toPlat := rfl
@[simp] theorem State.setCore_gtime (s : State) (c : Core) : (s.setCore c).gtime = s.gtime := rfl
@[simp] theorem State.setCore_clocks (s : State) (c : Core) : (s.setCore c).clocks = s.clocks := rfl
@[simp] theorem State.setCore_fracs (s : State) (c : Core) : (s.setCore c).fracs = s.fracs := rfl
@[simp] theorem State.setCore_phase (s : State) (c : Core) : (s.setCore c).phase = s.phase := rfl
@[simp] theorem State.setCore_msix (s : State) (c : Core) : (s.setCore c).msix = s.msix := rfl
@[simp] theorem State.setCore_mbStatus (s : State) (c : Core) : (s.setCore c).mbStatus = s.mbStatus := rfl
@[simp] theorem State.setCore_mbCode (s : State) (c : Core) : (s.setCore c).mbCode = s.mbCode := rfl
@[simp] theorem State.setCore_mbBusy (s : State) (c : Core) : (s.setCore c).mbBusy = s.mbBusy := rfl
@[simp] theorem State.setCore_mailbox (s : State) (c : Core) : (s.setCore c).mailbox = s.mailbox := rfl
@[simp] theorem State.setCore_hbm (s : State) (c : Core) : (s.setCore c).hbm = s.hbm := rfl
@[simp] theorem State.setCore_host (s : State) (c : Core) : (s.setCore c).host = s.host := rfl
@[simp] theorem State.setCore_remote (s : State) (c : Core) : (s.setCore c).remote = s.remote := rfl
@[simp] theorem State.setCore_backing (s : State) (c : Core) : (s.setCore c).backing = s.backing := rfl
@[simp] theorem State.setCore_entries (s : State) (c : Core) : (s.setCore c).entries = s.entries := rfl
@[simp] theorem State.setCore_sketches (s : State) (c : Core) : (s.setCore c).sketches = s.sketches := rfl
@[simp] theorem State.setCore_hotLists (s : State) (c : Core) : (s.setCore c).hotLists = s.hotLists := rfl
@[simp] theorem State.setCore_replicas (s : State) (c : Core) : (s.setCore c).replicas = s.replicas := rfl
@[simp] theorem State.setCore_images (s : State) (c : Core) : (s.setCore c).images = s.images := rfl
@[simp] theorem State.setCore_armings (s : State) (c : Core) : (s.setCore c).armings = s.armings := rfl
@[simp] theorem State.setCore_nextArming (s : State) (c : Core) : (s.setCore c).nextArming = s.nextArming := rfl
@[simp] theorem State.setCore_armRecords (s : State) (c : Core) : (s.setCore c).armRecords = s.armRecords := rfl
@[simp] theorem State.setCore_gaz (s : State) (c : Core) : (s.setCore c).gaz = s.gaz := rfl
@[simp] theorem State.setCore_seq (s : State) (c : Core) : (s.setCore c).seq = s.seq := rfl
@[simp] theorem State.setCore_bootRing (s : State) (c : Core) : (s.setCore c).bootRing = s.bootRing := rfl
@[simp] theorem State.setCore_leftOut (s : State) (c : Core) : (s.setCore c).leftOut = s.leftOut := rfl
@[simp] theorem State.setCore_logRing (s : State) (c : Core) : (s.setCore c).logRing = s.logRing := rfl
@[simp] theorem State.setCore_heldEvents (s : State) (c : Core) : (s.setCore c).heldEvents = s.heldEvents := rfl
@[simp] theorem State.setCore_hintsDropped (s : State) (c : Core) : (s.setCore c).hintsDropped = s.hintsDropped := rfl
@[simp] theorem State.setCore_eccCounts (s : State) (c : Core) : (s.setCore c).eccCounts = s.eccCounts := rfl
@[simp] theorem State.setCore_pair (s : State) (c : Core) : (s.setCore c).pair = s.pair := rfl
@[simp] theorem State.setCore_comms (s : State) (c : Core) : (s.setCore c).comms = s.comms := rfl
@[simp] theorem State.setCore_contributions (s : State) (c : Core) : (s.setCore c).contributions = s.contributions := rfl
@[simp] theorem State.setCore_podBars (s : State) (c : Core) : (s.setCore c).podBars = s.podBars := rfl
@[simp] theorem State.setCore_queues (s : State) (c : Core) : (s.setCore c).queues = s.queues := rfl
@[simp] theorem State.setCore_partitions (s : State) (c : Core) : (s.setCore c).partitions = s.partitions := rfl
@[simp] theorem State.setCore_launches (s : State) (c : Core) : (s.setCore c).launches = s.launches := rfl
@[simp] theorem State.setCore_nextLaunch (s : State) (c : Core) : (s.setCore c).nextLaunch = s.nextLaunch := rfl
@[simp] theorem State.setCore_blocks (s : State) (c : Core) : (s.setCore c).blocks = s.blocks := rfl
@[simp] theorem State.setCore_nextBlock (s : State) (c : Core) : (s.setCore c).nextBlock = s.nextBlock := rfl
@[simp] theorem State.setCore_nextDispatch (s : State) (c : Core) : (s.setCore c).nextDispatch = s.nextDispatch := rfl
@[simp] theorem State.setCore_signatures (s : State) (c : Core) : (s.setCore c).signatures = s.signatures := rfl
@[simp] theorem State.setCore_nextPeriod (s : State) (c : Core) : (s.setCore c).nextPeriod = s.nextPeriod := rfl
@[simp] theorem State.setCore_nextHot (s : State) (c : Core) : (s.setCore c).nextHot = s.nextHot := rfl
@[simp] theorem State.setCore_result (s : State) (c : Core) : (s.setCore c).result = s.result := rfl
@[simp] theorem State.setCore_freeCount (s : State) (c : Core) : (s.setCore c).freeCount = s.freeCount := rfl
@[simp] theorem State.setCore_inbox (s : State) (c : Core) : (s.setCore c).inbox = s.inbox := rfl
@[simp] theorem State.setCore_subject (s : State) (c : Core) : (s.setCore c).subject = s.subject := rfl
@[simp] theorem State.setCore_issue (s : State) (c : Core) : (s.setCore c).issue = s.issue := rfl
@[simp] theorem State.setCore_second (s : State) (c : Core) : (s.setCore c).second = s.second := rfl
@[simp] theorem State.setCore_turn (s : State) (c : Core) : (s.setCore c).turn = s.turn := rfl
@[simp] theorem State.setCore_l2 (s : State) (c : Core) : (s.setCore c).l2 = s.l2 := rfl
@[simp] theorem State.setCore_errors (s : State) (c : Core) : (s.setCore c).errors = s.errors := rfl
@[simp] theorem State.setCore_soft (s : State) (c : Core) : (s.setCore c).soft = s.soft := rfl

/-! ### State.updCore -/

@[simp] theorem State.updCore_toPlat (s : State) (n : Nat) (f : Core → Core) : (s.updCore n f).toPlat = s.toPlat := rfl
@[simp] theorem State.updCore_gtime (s : State) (n : Nat) (f : Core → Core) : (s.updCore n f).gtime = s.gtime := rfl
@[simp] theorem State.updCore_clocks (s : State) (n : Nat) (f : Core → Core) : (s.updCore n f).clocks = s.clocks := rfl
@[simp] theorem State.updCore_fracs (s : State) (n : Nat) (f : Core → Core) : (s.updCore n f).fracs = s.fracs := rfl
@[simp] theorem State.updCore_phase (s : State) (n : Nat) (f : Core → Core) : (s.updCore n f).phase = s.phase := rfl
@[simp] theorem State.updCore_msix (s : State) (n : Nat) (f : Core → Core) : (s.updCore n f).msix = s.msix := rfl
@[simp] theorem State.updCore_mbStatus (s : State) (n : Nat) (f : Core → Core) : (s.updCore n f).mbStatus = s.mbStatus := rfl
@[simp] theorem State.updCore_mbCode (s : State) (n : Nat) (f : Core → Core) : (s.updCore n f).mbCode = s.mbCode := rfl
@[simp] theorem State.updCore_mbBusy (s : State) (n : Nat) (f : Core → Core) : (s.updCore n f).mbBusy = s.mbBusy := rfl
@[simp] theorem State.updCore_mailbox (s : State) (n : Nat) (f : Core → Core) : (s.updCore n f).mailbox = s.mailbox := rfl
@[simp] theorem State.updCore_hbm (s : State) (n : Nat) (f : Core → Core) : (s.updCore n f).hbm = s.hbm := rfl
@[simp] theorem State.updCore_host (s : State) (n : Nat) (f : Core → Core) : (s.updCore n f).host = s.host := rfl
@[simp] theorem State.updCore_remote (s : State) (n : Nat) (f : Core → Core) : (s.updCore n f).remote = s.remote := rfl
@[simp] theorem State.updCore_backing (s : State) (n : Nat) (f : Core → Core) : (s.updCore n f).backing = s.backing := rfl
@[simp] theorem State.updCore_entries (s : State) (n : Nat) (f : Core → Core) : (s.updCore n f).entries = s.entries := rfl
@[simp] theorem State.updCore_sketches (s : State) (n : Nat) (f : Core → Core) : (s.updCore n f).sketches = s.sketches := rfl
@[simp] theorem State.updCore_hotLists (s : State) (n : Nat) (f : Core → Core) : (s.updCore n f).hotLists = s.hotLists := rfl
@[simp] theorem State.updCore_replicas (s : State) (n : Nat) (f : Core → Core) : (s.updCore n f).replicas = s.replicas := rfl
@[simp] theorem State.updCore_images (s : State) (n : Nat) (f : Core → Core) : (s.updCore n f).images = s.images := rfl
@[simp] theorem State.updCore_armings (s : State) (n : Nat) (f : Core → Core) : (s.updCore n f).armings = s.armings := rfl
@[simp] theorem State.updCore_nextArming (s : State) (n : Nat) (f : Core → Core) : (s.updCore n f).nextArming = s.nextArming := rfl
@[simp] theorem State.updCore_armRecords (s : State) (n : Nat) (f : Core → Core) : (s.updCore n f).armRecords = s.armRecords := rfl
@[simp] theorem State.updCore_gaz (s : State) (n : Nat) (f : Core → Core) : (s.updCore n f).gaz = s.gaz := rfl
@[simp] theorem State.updCore_seq (s : State) (n : Nat) (f : Core → Core) : (s.updCore n f).seq = s.seq := rfl
@[simp] theorem State.updCore_bootRing (s : State) (n : Nat) (f : Core → Core) : (s.updCore n f).bootRing = s.bootRing := rfl
@[simp] theorem State.updCore_leftOut (s : State) (n : Nat) (f : Core → Core) : (s.updCore n f).leftOut = s.leftOut := rfl
@[simp] theorem State.updCore_logRing (s : State) (n : Nat) (f : Core → Core) : (s.updCore n f).logRing = s.logRing := rfl
@[simp] theorem State.updCore_heldEvents (s : State) (n : Nat) (f : Core → Core) : (s.updCore n f).heldEvents = s.heldEvents := rfl
@[simp] theorem State.updCore_hintsDropped (s : State) (n : Nat) (f : Core → Core) : (s.updCore n f).hintsDropped = s.hintsDropped := rfl
@[simp] theorem State.updCore_eccCounts (s : State) (n : Nat) (f : Core → Core) : (s.updCore n f).eccCounts = s.eccCounts := rfl
@[simp] theorem State.updCore_pair (s : State) (n : Nat) (f : Core → Core) : (s.updCore n f).pair = s.pair := rfl
@[simp] theorem State.updCore_comms (s : State) (n : Nat) (f : Core → Core) : (s.updCore n f).comms = s.comms := rfl
@[simp] theorem State.updCore_contributions (s : State) (n : Nat) (f : Core → Core) : (s.updCore n f).contributions = s.contributions := rfl
@[simp] theorem State.updCore_podBars (s : State) (n : Nat) (f : Core → Core) : (s.updCore n f).podBars = s.podBars := rfl
@[simp] theorem State.updCore_queues (s : State) (n : Nat) (f : Core → Core) : (s.updCore n f).queues = s.queues := rfl
@[simp] theorem State.updCore_partitions (s : State) (n : Nat) (f : Core → Core) : (s.updCore n f).partitions = s.partitions := rfl
@[simp] theorem State.updCore_launches (s : State) (n : Nat) (f : Core → Core) : (s.updCore n f).launches = s.launches := rfl
@[simp] theorem State.updCore_nextLaunch (s : State) (n : Nat) (f : Core → Core) : (s.updCore n f).nextLaunch = s.nextLaunch := rfl
@[simp] theorem State.updCore_blocks (s : State) (n : Nat) (f : Core → Core) : (s.updCore n f).blocks = s.blocks := rfl
@[simp] theorem State.updCore_nextBlock (s : State) (n : Nat) (f : Core → Core) : (s.updCore n f).nextBlock = s.nextBlock := rfl
@[simp] theorem State.updCore_nextDispatch (s : State) (n : Nat) (f : Core → Core) : (s.updCore n f).nextDispatch = s.nextDispatch := rfl
@[simp] theorem State.updCore_signatures (s : State) (n : Nat) (f : Core → Core) : (s.updCore n f).signatures = s.signatures := rfl
@[simp] theorem State.updCore_nextPeriod (s : State) (n : Nat) (f : Core → Core) : (s.updCore n f).nextPeriod = s.nextPeriod := rfl
@[simp] theorem State.updCore_nextHot (s : State) (n : Nat) (f : Core → Core) : (s.updCore n f).nextHot = s.nextHot := rfl
@[simp] theorem State.updCore_result (s : State) (n : Nat) (f : Core → Core) : (s.updCore n f).result = s.result := rfl
@[simp] theorem State.updCore_freeCount (s : State) (n : Nat) (f : Core → Core) : (s.updCore n f).freeCount = s.freeCount := rfl
@[simp] theorem State.updCore_inbox (s : State) (n : Nat) (f : Core → Core) : (s.updCore n f).inbox = s.inbox := rfl
@[simp] theorem State.updCore_subject (s : State) (n : Nat) (f : Core → Core) : (s.updCore n f).subject = s.subject := rfl
@[simp] theorem State.updCore_issue (s : State) (n : Nat) (f : Core → Core) : (s.updCore n f).issue = s.issue := rfl
@[simp] theorem State.updCore_second (s : State) (n : Nat) (f : Core → Core) : (s.updCore n f).second = s.second := rfl
@[simp] theorem State.updCore_turn (s : State) (n : Nat) (f : Core → Core) : (s.updCore n f).turn = s.turn := rfl
@[simp] theorem State.updCore_l2 (s : State) (n : Nat) (f : Core → Core) : (s.updCore n f).l2 = s.l2 := rfl
@[simp] theorem State.updCore_errors (s : State) (n : Nat) (f : Core → Core) : (s.updCore n f).errors = s.errors := rfl
@[simp] theorem State.updCore_soft (s : State) (n : Nat) (f : Core → Core) : (s.updCore n f).soft = s.soft := rfl

/-! ### State.updLaunch -/

@[simp] theorem State.updLaunch_toPlat (s : State) (n : Nat) (f : Launch → Launch) : (s.updLaunch n f).toPlat = s.toPlat := rfl
@[simp] theorem State.updLaunch_gtime (s : State) (n : Nat) (f : Launch → Launch) : (s.updLaunch n f).gtime = s.gtime := rfl
@[simp] theorem State.updLaunch_clocks (s : State) (n : Nat) (f : Launch → Launch) : (s.updLaunch n f).clocks = s.clocks := rfl
@[simp] theorem State.updLaunch_fracs (s : State) (n : Nat) (f : Launch → Launch) : (s.updLaunch n f).fracs = s.fracs := rfl
@[simp] theorem State.updLaunch_phase (s : State) (n : Nat) (f : Launch → Launch) : (s.updLaunch n f).phase = s.phase := rfl
@[simp] theorem State.updLaunch_msix (s : State) (n : Nat) (f : Launch → Launch) : (s.updLaunch n f).msix = s.msix := rfl
@[simp] theorem State.updLaunch_mbStatus (s : State) (n : Nat) (f : Launch → Launch) : (s.updLaunch n f).mbStatus = s.mbStatus := rfl
@[simp] theorem State.updLaunch_mbCode (s : State) (n : Nat) (f : Launch → Launch) : (s.updLaunch n f).mbCode = s.mbCode := rfl
@[simp] theorem State.updLaunch_mbBusy (s : State) (n : Nat) (f : Launch → Launch) : (s.updLaunch n f).mbBusy = s.mbBusy := rfl
@[simp] theorem State.updLaunch_mailbox (s : State) (n : Nat) (f : Launch → Launch) : (s.updLaunch n f).mailbox = s.mailbox := rfl
@[simp] theorem State.updLaunch_hbm (s : State) (n : Nat) (f : Launch → Launch) : (s.updLaunch n f).hbm = s.hbm := rfl
@[simp] theorem State.updLaunch_host (s : State) (n : Nat) (f : Launch → Launch) : (s.updLaunch n f).host = s.host := rfl
@[simp] theorem State.updLaunch_remote (s : State) (n : Nat) (f : Launch → Launch) : (s.updLaunch n f).remote = s.remote := rfl
@[simp] theorem State.updLaunch_backing (s : State) (n : Nat) (f : Launch → Launch) : (s.updLaunch n f).backing = s.backing := rfl
@[simp] theorem State.updLaunch_entries (s : State) (n : Nat) (f : Launch → Launch) : (s.updLaunch n f).entries = s.entries := rfl
@[simp] theorem State.updLaunch_sketches (s : State) (n : Nat) (f : Launch → Launch) : (s.updLaunch n f).sketches = s.sketches := rfl
@[simp] theorem State.updLaunch_hotLists (s : State) (n : Nat) (f : Launch → Launch) : (s.updLaunch n f).hotLists = s.hotLists := rfl
@[simp] theorem State.updLaunch_replicas (s : State) (n : Nat) (f : Launch → Launch) : (s.updLaunch n f).replicas = s.replicas := rfl
@[simp] theorem State.updLaunch_images (s : State) (n : Nat) (f : Launch → Launch) : (s.updLaunch n f).images = s.images := rfl
@[simp] theorem State.updLaunch_armings (s : State) (n : Nat) (f : Launch → Launch) : (s.updLaunch n f).armings = s.armings := rfl
@[simp] theorem State.updLaunch_nextArming (s : State) (n : Nat) (f : Launch → Launch) : (s.updLaunch n f).nextArming = s.nextArming := rfl
@[simp] theorem State.updLaunch_armRecords (s : State) (n : Nat) (f : Launch → Launch) : (s.updLaunch n f).armRecords = s.armRecords := rfl
@[simp] theorem State.updLaunch_gaz (s : State) (n : Nat) (f : Launch → Launch) : (s.updLaunch n f).gaz = s.gaz := rfl
@[simp] theorem State.updLaunch_seq (s : State) (n : Nat) (f : Launch → Launch) : (s.updLaunch n f).seq = s.seq := rfl
@[simp] theorem State.updLaunch_bootRing (s : State) (n : Nat) (f : Launch → Launch) : (s.updLaunch n f).bootRing = s.bootRing := rfl
@[simp] theorem State.updLaunch_leftOut (s : State) (n : Nat) (f : Launch → Launch) : (s.updLaunch n f).leftOut = s.leftOut := rfl
@[simp] theorem State.updLaunch_logRing (s : State) (n : Nat) (f : Launch → Launch) : (s.updLaunch n f).logRing = s.logRing := rfl
@[simp] theorem State.updLaunch_heldEvents (s : State) (n : Nat) (f : Launch → Launch) : (s.updLaunch n f).heldEvents = s.heldEvents := rfl
@[simp] theorem State.updLaunch_hintsDropped (s : State) (n : Nat) (f : Launch → Launch) : (s.updLaunch n f).hintsDropped = s.hintsDropped := rfl
@[simp] theorem State.updLaunch_eccCounts (s : State) (n : Nat) (f : Launch → Launch) : (s.updLaunch n f).eccCounts = s.eccCounts := rfl
@[simp] theorem State.updLaunch_pair (s : State) (n : Nat) (f : Launch → Launch) : (s.updLaunch n f).pair = s.pair := rfl
@[simp] theorem State.updLaunch_comms (s : State) (n : Nat) (f : Launch → Launch) : (s.updLaunch n f).comms = s.comms := rfl
@[simp] theorem State.updLaunch_contributions (s : State) (n : Nat) (f : Launch → Launch) : (s.updLaunch n f).contributions = s.contributions := rfl
@[simp] theorem State.updLaunch_podBars (s : State) (n : Nat) (f : Launch → Launch) : (s.updLaunch n f).podBars = s.podBars := rfl
@[simp] theorem State.updLaunch_queues (s : State) (n : Nat) (f : Launch → Launch) : (s.updLaunch n f).queues = s.queues := rfl
@[simp] theorem State.updLaunch_partitions (s : State) (n : Nat) (f : Launch → Launch) : (s.updLaunch n f).partitions = s.partitions := rfl
@[simp] theorem State.updLaunch_nextLaunch (s : State) (n : Nat) (f : Launch → Launch) : (s.updLaunch n f).nextLaunch = s.nextLaunch := rfl
@[simp] theorem State.updLaunch_blocks (s : State) (n : Nat) (f : Launch → Launch) : (s.updLaunch n f).blocks = s.blocks := rfl
@[simp] theorem State.updLaunch_nextBlock (s : State) (n : Nat) (f : Launch → Launch) : (s.updLaunch n f).nextBlock = s.nextBlock := rfl
@[simp] theorem State.updLaunch_nextDispatch (s : State) (n : Nat) (f : Launch → Launch) : (s.updLaunch n f).nextDispatch = s.nextDispatch := rfl
@[simp] theorem State.updLaunch_cores (s : State) (n : Nat) (f : Launch → Launch) : (s.updLaunch n f).cores = s.cores := rfl
@[simp] theorem State.updLaunch_signatures (s : State) (n : Nat) (f : Launch → Launch) : (s.updLaunch n f).signatures = s.signatures := rfl
@[simp] theorem State.updLaunch_nextPeriod (s : State) (n : Nat) (f : Launch → Launch) : (s.updLaunch n f).nextPeriod = s.nextPeriod := rfl
@[simp] theorem State.updLaunch_nextHot (s : State) (n : Nat) (f : Launch → Launch) : (s.updLaunch n f).nextHot = s.nextHot := rfl
@[simp] theorem State.updLaunch_result (s : State) (n : Nat) (f : Launch → Launch) : (s.updLaunch n f).result = s.result := rfl
@[simp] theorem State.updLaunch_freeCount (s : State) (n : Nat) (f : Launch → Launch) : (s.updLaunch n f).freeCount = s.freeCount := rfl
@[simp] theorem State.updLaunch_inbox (s : State) (n : Nat) (f : Launch → Launch) : (s.updLaunch n f).inbox = s.inbox := rfl
@[simp] theorem State.updLaunch_subject (s : State) (n : Nat) (f : Launch → Launch) : (s.updLaunch n f).subject = s.subject := rfl
@[simp] theorem State.updLaunch_issue (s : State) (n : Nat) (f : Launch → Launch) : (s.updLaunch n f).issue = s.issue := rfl
@[simp] theorem State.updLaunch_second (s : State) (n : Nat) (f : Launch → Launch) : (s.updLaunch n f).second = s.second := rfl
@[simp] theorem State.updLaunch_turn (s : State) (n : Nat) (f : Launch → Launch) : (s.updLaunch n f).turn = s.turn := rfl
@[simp] theorem State.updLaunch_l2 (s : State) (n : Nat) (f : Launch → Launch) : (s.updLaunch n f).l2 = s.l2 := rfl
@[simp] theorem State.updLaunch_errors (s : State) (n : Nat) (f : Launch → Launch) : (s.updLaunch n f).errors = s.errors := rfl
@[simp] theorem State.updLaunch_soft (s : State) (n : Nat) (f : Launch → Launch) : (s.updLaunch n f).soft = s.soft := rfl

/-! ### State.updQueue -/

@[simp] theorem State.updQueue_toPlat (s : State) (n : Nat) (f : Queue → Queue) : (s.updQueue n f).toPlat = s.toPlat := rfl
@[simp] theorem State.updQueue_gtime (s : State) (n : Nat) (f : Queue → Queue) : (s.updQueue n f).gtime = s.gtime := rfl
@[simp] theorem State.updQueue_clocks (s : State) (n : Nat) (f : Queue → Queue) : (s.updQueue n f).clocks = s.clocks := rfl
@[simp] theorem State.updQueue_fracs (s : State) (n : Nat) (f : Queue → Queue) : (s.updQueue n f).fracs = s.fracs := rfl
@[simp] theorem State.updQueue_phase (s : State) (n : Nat) (f : Queue → Queue) : (s.updQueue n f).phase = s.phase := rfl
@[simp] theorem State.updQueue_msix (s : State) (n : Nat) (f : Queue → Queue) : (s.updQueue n f).msix = s.msix := rfl
@[simp] theorem State.updQueue_mbStatus (s : State) (n : Nat) (f : Queue → Queue) : (s.updQueue n f).mbStatus = s.mbStatus := rfl
@[simp] theorem State.updQueue_mbCode (s : State) (n : Nat) (f : Queue → Queue) : (s.updQueue n f).mbCode = s.mbCode := rfl
@[simp] theorem State.updQueue_mbBusy (s : State) (n : Nat) (f : Queue → Queue) : (s.updQueue n f).mbBusy = s.mbBusy := rfl
@[simp] theorem State.updQueue_mailbox (s : State) (n : Nat) (f : Queue → Queue) : (s.updQueue n f).mailbox = s.mailbox := rfl
@[simp] theorem State.updQueue_hbm (s : State) (n : Nat) (f : Queue → Queue) : (s.updQueue n f).hbm = s.hbm := rfl
@[simp] theorem State.updQueue_host (s : State) (n : Nat) (f : Queue → Queue) : (s.updQueue n f).host = s.host := rfl
@[simp] theorem State.updQueue_remote (s : State) (n : Nat) (f : Queue → Queue) : (s.updQueue n f).remote = s.remote := rfl
@[simp] theorem State.updQueue_backing (s : State) (n : Nat) (f : Queue → Queue) : (s.updQueue n f).backing = s.backing := rfl
@[simp] theorem State.updQueue_entries (s : State) (n : Nat) (f : Queue → Queue) : (s.updQueue n f).entries = s.entries := rfl
@[simp] theorem State.updQueue_sketches (s : State) (n : Nat) (f : Queue → Queue) : (s.updQueue n f).sketches = s.sketches := rfl
@[simp] theorem State.updQueue_hotLists (s : State) (n : Nat) (f : Queue → Queue) : (s.updQueue n f).hotLists = s.hotLists := rfl
@[simp] theorem State.updQueue_replicas (s : State) (n : Nat) (f : Queue → Queue) : (s.updQueue n f).replicas = s.replicas := rfl
@[simp] theorem State.updQueue_images (s : State) (n : Nat) (f : Queue → Queue) : (s.updQueue n f).images = s.images := rfl
@[simp] theorem State.updQueue_armings (s : State) (n : Nat) (f : Queue → Queue) : (s.updQueue n f).armings = s.armings := rfl
@[simp] theorem State.updQueue_nextArming (s : State) (n : Nat) (f : Queue → Queue) : (s.updQueue n f).nextArming = s.nextArming := rfl
@[simp] theorem State.updQueue_armRecords (s : State) (n : Nat) (f : Queue → Queue) : (s.updQueue n f).armRecords = s.armRecords := rfl
@[simp] theorem State.updQueue_gaz (s : State) (n : Nat) (f : Queue → Queue) : (s.updQueue n f).gaz = s.gaz := rfl
@[simp] theorem State.updQueue_seq (s : State) (n : Nat) (f : Queue → Queue) : (s.updQueue n f).seq = s.seq := rfl
@[simp] theorem State.updQueue_bootRing (s : State) (n : Nat) (f : Queue → Queue) : (s.updQueue n f).bootRing = s.bootRing := rfl
@[simp] theorem State.updQueue_leftOut (s : State) (n : Nat) (f : Queue → Queue) : (s.updQueue n f).leftOut = s.leftOut := rfl
@[simp] theorem State.updQueue_logRing (s : State) (n : Nat) (f : Queue → Queue) : (s.updQueue n f).logRing = s.logRing := rfl
@[simp] theorem State.updQueue_heldEvents (s : State) (n : Nat) (f : Queue → Queue) : (s.updQueue n f).heldEvents = s.heldEvents := rfl
@[simp] theorem State.updQueue_hintsDropped (s : State) (n : Nat) (f : Queue → Queue) : (s.updQueue n f).hintsDropped = s.hintsDropped := rfl
@[simp] theorem State.updQueue_eccCounts (s : State) (n : Nat) (f : Queue → Queue) : (s.updQueue n f).eccCounts = s.eccCounts := rfl
@[simp] theorem State.updQueue_pair (s : State) (n : Nat) (f : Queue → Queue) : (s.updQueue n f).pair = s.pair := rfl
@[simp] theorem State.updQueue_comms (s : State) (n : Nat) (f : Queue → Queue) : (s.updQueue n f).comms = s.comms := rfl
@[simp] theorem State.updQueue_contributions (s : State) (n : Nat) (f : Queue → Queue) : (s.updQueue n f).contributions = s.contributions := rfl
@[simp] theorem State.updQueue_podBars (s : State) (n : Nat) (f : Queue → Queue) : (s.updQueue n f).podBars = s.podBars := rfl
@[simp] theorem State.updQueue_partitions (s : State) (n : Nat) (f : Queue → Queue) : (s.updQueue n f).partitions = s.partitions := rfl
@[simp] theorem State.updQueue_launches (s : State) (n : Nat) (f : Queue → Queue) : (s.updQueue n f).launches = s.launches := rfl
@[simp] theorem State.updQueue_nextLaunch (s : State) (n : Nat) (f : Queue → Queue) : (s.updQueue n f).nextLaunch = s.nextLaunch := rfl
@[simp] theorem State.updQueue_blocks (s : State) (n : Nat) (f : Queue → Queue) : (s.updQueue n f).blocks = s.blocks := rfl
@[simp] theorem State.updQueue_nextBlock (s : State) (n : Nat) (f : Queue → Queue) : (s.updQueue n f).nextBlock = s.nextBlock := rfl
@[simp] theorem State.updQueue_nextDispatch (s : State) (n : Nat) (f : Queue → Queue) : (s.updQueue n f).nextDispatch = s.nextDispatch := rfl
@[simp] theorem State.updQueue_cores (s : State) (n : Nat) (f : Queue → Queue) : (s.updQueue n f).cores = s.cores := rfl
@[simp] theorem State.updQueue_signatures (s : State) (n : Nat) (f : Queue → Queue) : (s.updQueue n f).signatures = s.signatures := rfl
@[simp] theorem State.updQueue_nextPeriod (s : State) (n : Nat) (f : Queue → Queue) : (s.updQueue n f).nextPeriod = s.nextPeriod := rfl
@[simp] theorem State.updQueue_nextHot (s : State) (n : Nat) (f : Queue → Queue) : (s.updQueue n f).nextHot = s.nextHot := rfl
@[simp] theorem State.updQueue_result (s : State) (n : Nat) (f : Queue → Queue) : (s.updQueue n f).result = s.result := rfl
@[simp] theorem State.updQueue_freeCount (s : State) (n : Nat) (f : Queue → Queue) : (s.updQueue n f).freeCount = s.freeCount := rfl
@[simp] theorem State.updQueue_inbox (s : State) (n : Nat) (f : Queue → Queue) : (s.updQueue n f).inbox = s.inbox := rfl
@[simp] theorem State.updQueue_subject (s : State) (n : Nat) (f : Queue → Queue) : (s.updQueue n f).subject = s.subject := rfl
@[simp] theorem State.updQueue_issue (s : State) (n : Nat) (f : Queue → Queue) : (s.updQueue n f).issue = s.issue := rfl
@[simp] theorem State.updQueue_second (s : State) (n : Nat) (f : Queue → Queue) : (s.updQueue n f).second = s.second := rfl
@[simp] theorem State.updQueue_turn (s : State) (n : Nat) (f : Queue → Queue) : (s.updQueue n f).turn = s.turn := rfl
@[simp] theorem State.updQueue_l2 (s : State) (n : Nat) (f : Queue → Queue) : (s.updQueue n f).l2 = s.l2 := rfl
@[simp] theorem State.updQueue_errors (s : State) (n : Nat) (f : Queue → Queue) : (s.updQueue n f).errors = s.errors := rfl
@[simp] theorem State.updQueue_soft (s : State) (n : Nat) (f : Queue → Queue) : (s.updQueue n f).soft = s.soft := rfl

/-! ### State.setQueue -/

@[simp] theorem State.setQueue_toPlat (s : State) (q : Queue) : (s.setQueue q).toPlat = s.toPlat := rfl
@[simp] theorem State.setQueue_gtime (s : State) (q : Queue) : (s.setQueue q).gtime = s.gtime := rfl
@[simp] theorem State.setQueue_clocks (s : State) (q : Queue) : (s.setQueue q).clocks = s.clocks := rfl
@[simp] theorem State.setQueue_fracs (s : State) (q : Queue) : (s.setQueue q).fracs = s.fracs := rfl
@[simp] theorem State.setQueue_phase (s : State) (q : Queue) : (s.setQueue q).phase = s.phase := rfl
@[simp] theorem State.setQueue_msix (s : State) (q : Queue) : (s.setQueue q).msix = s.msix := rfl
@[simp] theorem State.setQueue_mbStatus (s : State) (q : Queue) : (s.setQueue q).mbStatus = s.mbStatus := rfl
@[simp] theorem State.setQueue_mbCode (s : State) (q : Queue) : (s.setQueue q).mbCode = s.mbCode := rfl
@[simp] theorem State.setQueue_mbBusy (s : State) (q : Queue) : (s.setQueue q).mbBusy = s.mbBusy := rfl
@[simp] theorem State.setQueue_mailbox (s : State) (q : Queue) : (s.setQueue q).mailbox = s.mailbox := rfl
@[simp] theorem State.setQueue_hbm (s : State) (q : Queue) : (s.setQueue q).hbm = s.hbm := rfl
@[simp] theorem State.setQueue_host (s : State) (q : Queue) : (s.setQueue q).host = s.host := rfl
@[simp] theorem State.setQueue_remote (s : State) (q : Queue) : (s.setQueue q).remote = s.remote := rfl
@[simp] theorem State.setQueue_backing (s : State) (q : Queue) : (s.setQueue q).backing = s.backing := rfl
@[simp] theorem State.setQueue_entries (s : State) (q : Queue) : (s.setQueue q).entries = s.entries := rfl
@[simp] theorem State.setQueue_sketches (s : State) (q : Queue) : (s.setQueue q).sketches = s.sketches := rfl
@[simp] theorem State.setQueue_hotLists (s : State) (q : Queue) : (s.setQueue q).hotLists = s.hotLists := rfl
@[simp] theorem State.setQueue_replicas (s : State) (q : Queue) : (s.setQueue q).replicas = s.replicas := rfl
@[simp] theorem State.setQueue_l2 (s : State) (q : Queue) : (s.setQueue q).l2 = s.l2 := rfl
@[simp] theorem State.setQueue_errors (s : State) (q : Queue) : (s.setQueue q).errors = s.errors := rfl
@[simp] theorem State.setQueue_soft (s : State) (q : Queue) : (s.setQueue q).soft = s.soft := rfl
@[simp] theorem State.setQueue_images (s : State) (q : Queue) : (s.setQueue q).images = s.images := rfl
@[simp] theorem State.setQueue_armings (s : State) (q : Queue) : (s.setQueue q).armings = s.armings := rfl
@[simp] theorem State.setQueue_nextArming (s : State) (q : Queue) : (s.setQueue q).nextArming = s.nextArming := rfl
@[simp] theorem State.setQueue_armRecords (s : State) (q : Queue) : (s.setQueue q).armRecords = s.armRecords := rfl
@[simp] theorem State.setQueue_gaz (s : State) (q : Queue) : (s.setQueue q).gaz = s.gaz := rfl
@[simp] theorem State.setQueue_seq (s : State) (q : Queue) : (s.setQueue q).seq = s.seq := rfl
@[simp] theorem State.setQueue_bootRing (s : State) (q : Queue) : (s.setQueue q).bootRing = s.bootRing := rfl
@[simp] theorem State.setQueue_leftOut (s : State) (q : Queue) : (s.setQueue q).leftOut = s.leftOut := rfl
@[simp] theorem State.setQueue_logRing (s : State) (q : Queue) : (s.setQueue q).logRing = s.logRing := rfl
@[simp] theorem State.setQueue_heldEvents (s : State) (q : Queue) : (s.setQueue q).heldEvents = s.heldEvents := rfl
@[simp] theorem State.setQueue_hintsDropped (s : State) (q : Queue) : (s.setQueue q).hintsDropped = s.hintsDropped := rfl
@[simp] theorem State.setQueue_eccCounts (s : State) (q : Queue) : (s.setQueue q).eccCounts = s.eccCounts := rfl
@[simp] theorem State.setQueue_pair (s : State) (q : Queue) : (s.setQueue q).pair = s.pair := rfl
@[simp] theorem State.setQueue_comms (s : State) (q : Queue) : (s.setQueue q).comms = s.comms := rfl
@[simp] theorem State.setQueue_contributions (s : State) (q : Queue) : (s.setQueue q).contributions = s.contributions := rfl
@[simp] theorem State.setQueue_podBars (s : State) (q : Queue) : (s.setQueue q).podBars = s.podBars := rfl
@[simp] theorem State.setQueue_partitions (s : State) (q : Queue) : (s.setQueue q).partitions = s.partitions := rfl
@[simp] theorem State.setQueue_launches (s : State) (q : Queue) : (s.setQueue q).launches = s.launches := rfl
@[simp] theorem State.setQueue_nextLaunch (s : State) (q : Queue) : (s.setQueue q).nextLaunch = s.nextLaunch := rfl
@[simp] theorem State.setQueue_blocks (s : State) (q : Queue) : (s.setQueue q).blocks = s.blocks := rfl
@[simp] theorem State.setQueue_nextBlock (s : State) (q : Queue) : (s.setQueue q).nextBlock = s.nextBlock := rfl
@[simp] theorem State.setQueue_nextDispatch (s : State) (q : Queue) : (s.setQueue q).nextDispatch = s.nextDispatch := rfl
@[simp] theorem State.setQueue_cores (s : State) (q : Queue) : (s.setQueue q).cores = s.cores := rfl
@[simp] theorem State.setQueue_signatures (s : State) (q : Queue) : (s.setQueue q).signatures = s.signatures := rfl
@[simp] theorem State.setQueue_nextPeriod (s : State) (q : Queue) : (s.setQueue q).nextPeriod = s.nextPeriod := rfl
@[simp] theorem State.setQueue_nextHot (s : State) (q : Queue) : (s.setQueue q).nextHot = s.nextHot := rfl
@[simp] theorem State.setQueue_result (s : State) (q : Queue) : (s.setQueue q).result = s.result := rfl
@[simp] theorem State.setQueue_freeCount (s : State) (q : Queue) : (s.setQueue q).freeCount = s.freeCount := rfl
@[simp] theorem State.setQueue_inbox (s : State) (q : Queue) : (s.setQueue q).inbox = s.inbox := rfl
@[simp] theorem State.setQueue_subject (s : State) (q : Queue) : (s.setQueue q).subject = s.subject := rfl
@[simp] theorem State.setQueue_issue (s : State) (q : Queue) : (s.setQueue q).issue = s.issue := rfl
@[simp] theorem State.setQueue_second (s : State) (q : Queue) : (s.setQueue q).second = s.second := rfl
@[simp] theorem State.setQueue_turn (s : State) (q : Queue) : (s.setQueue q).turn = s.turn := rfl

/-! ### State.updPart -/

@[simp] theorem State.updPart_toPlat (s : State) (n : Nat) (f : Partition → Partition) : (s.updPart n f).toPlat = s.toPlat := rfl
@[simp] theorem State.updPart_gtime (s : State) (n : Nat) (f : Partition → Partition) : (s.updPart n f).gtime = s.gtime := rfl
@[simp] theorem State.updPart_clocks (s : State) (n : Nat) (f : Partition → Partition) : (s.updPart n f).clocks = s.clocks := rfl
@[simp] theorem State.updPart_fracs (s : State) (n : Nat) (f : Partition → Partition) : (s.updPart n f).fracs = s.fracs := rfl
@[simp] theorem State.updPart_phase (s : State) (n : Nat) (f : Partition → Partition) : (s.updPart n f).phase = s.phase := rfl
@[simp] theorem State.updPart_msix (s : State) (n : Nat) (f : Partition → Partition) : (s.updPart n f).msix = s.msix := rfl
@[simp] theorem State.updPart_mbStatus (s : State) (n : Nat) (f : Partition → Partition) : (s.updPart n f).mbStatus = s.mbStatus := rfl
@[simp] theorem State.updPart_mbCode (s : State) (n : Nat) (f : Partition → Partition) : (s.updPart n f).mbCode = s.mbCode := rfl
@[simp] theorem State.updPart_mbBusy (s : State) (n : Nat) (f : Partition → Partition) : (s.updPart n f).mbBusy = s.mbBusy := rfl
@[simp] theorem State.updPart_mailbox (s : State) (n : Nat) (f : Partition → Partition) : (s.updPart n f).mailbox = s.mailbox := rfl
@[simp] theorem State.updPart_hbm (s : State) (n : Nat) (f : Partition → Partition) : (s.updPart n f).hbm = s.hbm := rfl
@[simp] theorem State.updPart_host (s : State) (n : Nat) (f : Partition → Partition) : (s.updPart n f).host = s.host := rfl
@[simp] theorem State.updPart_remote (s : State) (n : Nat) (f : Partition → Partition) : (s.updPart n f).remote = s.remote := rfl
@[simp] theorem State.updPart_backing (s : State) (n : Nat) (f : Partition → Partition) : (s.updPart n f).backing = s.backing := rfl
@[simp] theorem State.updPart_entries (s : State) (n : Nat) (f : Partition → Partition) : (s.updPart n f).entries = s.entries := rfl
@[simp] theorem State.updPart_sketches (s : State) (n : Nat) (f : Partition → Partition) : (s.updPart n f).sketches = s.sketches := rfl
@[simp] theorem State.updPart_hotLists (s : State) (n : Nat) (f : Partition → Partition) : (s.updPart n f).hotLists = s.hotLists := rfl
@[simp] theorem State.updPart_replicas (s : State) (n : Nat) (f : Partition → Partition) : (s.updPart n f).replicas = s.replicas := rfl
@[simp] theorem State.updPart_images (s : State) (n : Nat) (f : Partition → Partition) : (s.updPart n f).images = s.images := rfl
@[simp] theorem State.updPart_armings (s : State) (n : Nat) (f : Partition → Partition) : (s.updPart n f).armings = s.armings := rfl
@[simp] theorem State.updPart_nextArming (s : State) (n : Nat) (f : Partition → Partition) : (s.updPart n f).nextArming = s.nextArming := rfl
@[simp] theorem State.updPart_armRecords (s : State) (n : Nat) (f : Partition → Partition) : (s.updPart n f).armRecords = s.armRecords := rfl
@[simp] theorem State.updPart_gaz (s : State) (n : Nat) (f : Partition → Partition) : (s.updPart n f).gaz = s.gaz := rfl
@[simp] theorem State.updPart_seq (s : State) (n : Nat) (f : Partition → Partition) : (s.updPart n f).seq = s.seq := rfl
@[simp] theorem State.updPart_bootRing (s : State) (n : Nat) (f : Partition → Partition) : (s.updPart n f).bootRing = s.bootRing := rfl
@[simp] theorem State.updPart_leftOut (s : State) (n : Nat) (f : Partition → Partition) : (s.updPart n f).leftOut = s.leftOut := rfl
@[simp] theorem State.updPart_logRing (s : State) (n : Nat) (f : Partition → Partition) : (s.updPart n f).logRing = s.logRing := rfl
@[simp] theorem State.updPart_heldEvents (s : State) (n : Nat) (f : Partition → Partition) : (s.updPart n f).heldEvents = s.heldEvents := rfl
@[simp] theorem State.updPart_hintsDropped (s : State) (n : Nat) (f : Partition → Partition) : (s.updPart n f).hintsDropped = s.hintsDropped := rfl
@[simp] theorem State.updPart_eccCounts (s : State) (n : Nat) (f : Partition → Partition) : (s.updPart n f).eccCounts = s.eccCounts := rfl
@[simp] theorem State.updPart_pair (s : State) (n : Nat) (f : Partition → Partition) : (s.updPart n f).pair = s.pair := rfl
@[simp] theorem State.updPart_comms (s : State) (n : Nat) (f : Partition → Partition) : (s.updPart n f).comms = s.comms := rfl
@[simp] theorem State.updPart_contributions (s : State) (n : Nat) (f : Partition → Partition) : (s.updPart n f).contributions = s.contributions := rfl
@[simp] theorem State.updPart_podBars (s : State) (n : Nat) (f : Partition → Partition) : (s.updPart n f).podBars = s.podBars := rfl
@[simp] theorem State.updPart_queues (s : State) (n : Nat) (f : Partition → Partition) : (s.updPart n f).queues = s.queues := rfl
@[simp] theorem State.updPart_launches (s : State) (n : Nat) (f : Partition → Partition) : (s.updPart n f).launches = s.launches := rfl
@[simp] theorem State.updPart_nextLaunch (s : State) (n : Nat) (f : Partition → Partition) : (s.updPart n f).nextLaunch = s.nextLaunch := rfl
@[simp] theorem State.updPart_blocks (s : State) (n : Nat) (f : Partition → Partition) : (s.updPart n f).blocks = s.blocks := rfl
@[simp] theorem State.updPart_nextBlock (s : State) (n : Nat) (f : Partition → Partition) : (s.updPart n f).nextBlock = s.nextBlock := rfl
@[simp] theorem State.updPart_nextDispatch (s : State) (n : Nat) (f : Partition → Partition) : (s.updPart n f).nextDispatch = s.nextDispatch := rfl
@[simp] theorem State.updPart_cores (s : State) (n : Nat) (f : Partition → Partition) : (s.updPart n f).cores = s.cores := rfl
@[simp] theorem State.updPart_signatures (s : State) (n : Nat) (f : Partition → Partition) : (s.updPart n f).signatures = s.signatures := rfl
@[simp] theorem State.updPart_nextPeriod (s : State) (n : Nat) (f : Partition → Partition) : (s.updPart n f).nextPeriod = s.nextPeriod := rfl
@[simp] theorem State.updPart_nextHot (s : State) (n : Nat) (f : Partition → Partition) : (s.updPart n f).nextHot = s.nextHot := rfl
@[simp] theorem State.updPart_result (s : State) (n : Nat) (f : Partition → Partition) : (s.updPart n f).result = s.result := rfl
@[simp] theorem State.updPart_freeCount (s : State) (n : Nat) (f : Partition → Partition) : (s.updPart n f).freeCount = s.freeCount := rfl
@[simp] theorem State.updPart_inbox (s : State) (n : Nat) (f : Partition → Partition) : (s.updPart n f).inbox = s.inbox := rfl
@[simp] theorem State.updPart_subject (s : State) (n : Nat) (f : Partition → Partition) : (s.updPart n f).subject = s.subject := rfl
@[simp] theorem State.updPart_issue (s : State) (n : Nat) (f : Partition → Partition) : (s.updPart n f).issue = s.issue := rfl
@[simp] theorem State.updPart_second (s : State) (n : Nat) (f : Partition → Partition) : (s.updPart n f).second = s.second := rfl
@[simp] theorem State.updPart_turn (s : State) (n : Nat) (f : Partition → Partition) : (s.updPart n f).turn = s.turn := rfl
@[simp] theorem State.updPart_l2 (s : State) (n : Nat) (f : Partition → Partition) : (s.updPart n f).l2 = s.l2 := rfl
@[simp] theorem State.updPart_errors (s : State) (n : Nat) (f : Partition → Partition) : (s.updPart n f).errors = s.errors := rfl
@[simp] theorem State.updPart_soft (s : State) (n : Nat) (f : Partition → Partition) : (s.updPart n f).soft = s.soft := rfl

/-! ### State.updEntry -/

@[simp] theorem State.updEntry_toPlat (s : State) (k : EntryKey) (f : Entry → Entry) : (s.updEntry k f).toPlat = s.toPlat := rfl
@[simp] theorem State.updEntry_gtime (s : State) (k : EntryKey) (f : Entry → Entry) : (s.updEntry k f).gtime = s.gtime := rfl
@[simp] theorem State.updEntry_clocks (s : State) (k : EntryKey) (f : Entry → Entry) : (s.updEntry k f).clocks = s.clocks := rfl
@[simp] theorem State.updEntry_fracs (s : State) (k : EntryKey) (f : Entry → Entry) : (s.updEntry k f).fracs = s.fracs := rfl
@[simp] theorem State.updEntry_phase (s : State) (k : EntryKey) (f : Entry → Entry) : (s.updEntry k f).phase = s.phase := rfl
@[simp] theorem State.updEntry_msix (s : State) (k : EntryKey) (f : Entry → Entry) : (s.updEntry k f).msix = s.msix := rfl
@[simp] theorem State.updEntry_mbStatus (s : State) (k : EntryKey) (f : Entry → Entry) : (s.updEntry k f).mbStatus = s.mbStatus := rfl
@[simp] theorem State.updEntry_mbCode (s : State) (k : EntryKey) (f : Entry → Entry) : (s.updEntry k f).mbCode = s.mbCode := rfl
@[simp] theorem State.updEntry_mbBusy (s : State) (k : EntryKey) (f : Entry → Entry) : (s.updEntry k f).mbBusy = s.mbBusy := rfl
@[simp] theorem State.updEntry_mailbox (s : State) (k : EntryKey) (f : Entry → Entry) : (s.updEntry k f).mailbox = s.mailbox := rfl
@[simp] theorem State.updEntry_hbm (s : State) (k : EntryKey) (f : Entry → Entry) : (s.updEntry k f).hbm = s.hbm := rfl
@[simp] theorem State.updEntry_host (s : State) (k : EntryKey) (f : Entry → Entry) : (s.updEntry k f).host = s.host := rfl
@[simp] theorem State.updEntry_remote (s : State) (k : EntryKey) (f : Entry → Entry) : (s.updEntry k f).remote = s.remote := rfl
@[simp] theorem State.updEntry_backing (s : State) (k : EntryKey) (f : Entry → Entry) : (s.updEntry k f).backing = s.backing := rfl
@[simp] theorem State.updEntry_sketches (s : State) (k : EntryKey) (f : Entry → Entry) : (s.updEntry k f).sketches = s.sketches := rfl
@[simp] theorem State.updEntry_hotLists (s : State) (k : EntryKey) (f : Entry → Entry) : (s.updEntry k f).hotLists = s.hotLists := rfl
@[simp] theorem State.updEntry_replicas (s : State) (k : EntryKey) (f : Entry → Entry) : (s.updEntry k f).replicas = s.replicas := rfl
@[simp] theorem State.updEntry_images (s : State) (k : EntryKey) (f : Entry → Entry) : (s.updEntry k f).images = s.images := rfl
@[simp] theorem State.updEntry_armings (s : State) (k : EntryKey) (f : Entry → Entry) : (s.updEntry k f).armings = s.armings := rfl
@[simp] theorem State.updEntry_nextArming (s : State) (k : EntryKey) (f : Entry → Entry) : (s.updEntry k f).nextArming = s.nextArming := rfl
@[simp] theorem State.updEntry_armRecords (s : State) (k : EntryKey) (f : Entry → Entry) : (s.updEntry k f).armRecords = s.armRecords := rfl
@[simp] theorem State.updEntry_gaz (s : State) (k : EntryKey) (f : Entry → Entry) : (s.updEntry k f).gaz = s.gaz := rfl
@[simp] theorem State.updEntry_seq (s : State) (k : EntryKey) (f : Entry → Entry) : (s.updEntry k f).seq = s.seq := rfl
@[simp] theorem State.updEntry_bootRing (s : State) (k : EntryKey) (f : Entry → Entry) : (s.updEntry k f).bootRing = s.bootRing := rfl
@[simp] theorem State.updEntry_leftOut (s : State) (k : EntryKey) (f : Entry → Entry) : (s.updEntry k f).leftOut = s.leftOut := rfl
@[simp] theorem State.updEntry_logRing (s : State) (k : EntryKey) (f : Entry → Entry) : (s.updEntry k f).logRing = s.logRing := rfl
@[simp] theorem State.updEntry_heldEvents (s : State) (k : EntryKey) (f : Entry → Entry) : (s.updEntry k f).heldEvents = s.heldEvents := rfl
@[simp] theorem State.updEntry_hintsDropped (s : State) (k : EntryKey) (f : Entry → Entry) : (s.updEntry k f).hintsDropped = s.hintsDropped := rfl
@[simp] theorem State.updEntry_eccCounts (s : State) (k : EntryKey) (f : Entry → Entry) : (s.updEntry k f).eccCounts = s.eccCounts := rfl
@[simp] theorem State.updEntry_pair (s : State) (k : EntryKey) (f : Entry → Entry) : (s.updEntry k f).pair = s.pair := rfl
@[simp] theorem State.updEntry_comms (s : State) (k : EntryKey) (f : Entry → Entry) : (s.updEntry k f).comms = s.comms := rfl
@[simp] theorem State.updEntry_contributions (s : State) (k : EntryKey) (f : Entry → Entry) : (s.updEntry k f).contributions = s.contributions := rfl
@[simp] theorem State.updEntry_podBars (s : State) (k : EntryKey) (f : Entry → Entry) : (s.updEntry k f).podBars = s.podBars := rfl
@[simp] theorem State.updEntry_queues (s : State) (k : EntryKey) (f : Entry → Entry) : (s.updEntry k f).queues = s.queues := rfl
@[simp] theorem State.updEntry_partitions (s : State) (k : EntryKey) (f : Entry → Entry) : (s.updEntry k f).partitions = s.partitions := rfl
@[simp] theorem State.updEntry_launches (s : State) (k : EntryKey) (f : Entry → Entry) : (s.updEntry k f).launches = s.launches := rfl
@[simp] theorem State.updEntry_nextLaunch (s : State) (k : EntryKey) (f : Entry → Entry) : (s.updEntry k f).nextLaunch = s.nextLaunch := rfl
@[simp] theorem State.updEntry_blocks (s : State) (k : EntryKey) (f : Entry → Entry) : (s.updEntry k f).blocks = s.blocks := rfl
@[simp] theorem State.updEntry_nextBlock (s : State) (k : EntryKey) (f : Entry → Entry) : (s.updEntry k f).nextBlock = s.nextBlock := rfl
@[simp] theorem State.updEntry_nextDispatch (s : State) (k : EntryKey) (f : Entry → Entry) : (s.updEntry k f).nextDispatch = s.nextDispatch := rfl
@[simp] theorem State.updEntry_cores (s : State) (k : EntryKey) (f : Entry → Entry) : (s.updEntry k f).cores = s.cores := rfl
@[simp] theorem State.updEntry_signatures (s : State) (k : EntryKey) (f : Entry → Entry) : (s.updEntry k f).signatures = s.signatures := rfl
@[simp] theorem State.updEntry_nextPeriod (s : State) (k : EntryKey) (f : Entry → Entry) : (s.updEntry k f).nextPeriod = s.nextPeriod := rfl
@[simp] theorem State.updEntry_nextHot (s : State) (k : EntryKey) (f : Entry → Entry) : (s.updEntry k f).nextHot = s.nextHot := rfl
@[simp] theorem State.updEntry_result (s : State) (k : EntryKey) (f : Entry → Entry) : (s.updEntry k f).result = s.result := rfl
@[simp] theorem State.updEntry_freeCount (s : State) (k : EntryKey) (f : Entry → Entry) : (s.updEntry k f).freeCount = s.freeCount := rfl
@[simp] theorem State.updEntry_inbox (s : State) (k : EntryKey) (f : Entry → Entry) : (s.updEntry k f).inbox = s.inbox := rfl
@[simp] theorem State.updEntry_subject (s : State) (k : EntryKey) (f : Entry → Entry) : (s.updEntry k f).subject = s.subject := rfl
@[simp] theorem State.updEntry_issue (s : State) (k : EntryKey) (f : Entry → Entry) : (s.updEntry k f).issue = s.issue := rfl
@[simp] theorem State.updEntry_second (s : State) (k : EntryKey) (f : Entry → Entry) : (s.updEntry k f).second = s.second := rfl
@[simp] theorem State.updEntry_turn (s : State) (k : EntryKey) (f : Entry → Entry) : (s.updEntry k f).turn = s.turn := rfl
@[simp] theorem State.updEntry_l2 (s : State) (k : EntryKey) (f : Entry → Entry) : (s.updEntry k f).l2 = s.l2 := rfl
@[simp] theorem State.updEntry_errors (s : State) (k : EntryKey) (f : Entry → Entry) : (s.updEntry k f).errors = s.errors := rfl
@[simp] theorem State.updEntry_soft (s : State) (k : EntryKey) (f : Entry → Entry) : (s.updEntry k f).soft = s.soft := rfl

/-! ### State.tickFree -/

@[simp] theorem State.tickFree_toPlat (s : State) : (s.tickFree).toPlat = s.toPlat := rfl
@[simp] theorem State.tickFree_gtime (s : State) : (s.tickFree).gtime = s.gtime := rfl
@[simp] theorem State.tickFree_clocks (s : State) : (s.tickFree).clocks = s.clocks := rfl
@[simp] theorem State.tickFree_fracs (s : State) : (s.tickFree).fracs = s.fracs := rfl
@[simp] theorem State.tickFree_phase (s : State) : (s.tickFree).phase = s.phase := rfl
@[simp] theorem State.tickFree_msix (s : State) : (s.tickFree).msix = s.msix := rfl
@[simp] theorem State.tickFree_mbStatus (s : State) : (s.tickFree).mbStatus = s.mbStatus := rfl
@[simp] theorem State.tickFree_mbCode (s : State) : (s.tickFree).mbCode = s.mbCode := rfl
@[simp] theorem State.tickFree_mbBusy (s : State) : (s.tickFree).mbBusy = s.mbBusy := rfl
@[simp] theorem State.tickFree_mailbox (s : State) : (s.tickFree).mailbox = s.mailbox := rfl
@[simp] theorem State.tickFree_hbm (s : State) : (s.tickFree).hbm = s.hbm := rfl
@[simp] theorem State.tickFree_host (s : State) : (s.tickFree).host = s.host := rfl
@[simp] theorem State.tickFree_remote (s : State) : (s.tickFree).remote = s.remote := rfl
@[simp] theorem State.tickFree_backing (s : State) : (s.tickFree).backing = s.backing := rfl
@[simp] theorem State.tickFree_entries (s : State) : (s.tickFree).entries = s.entries := rfl
@[simp] theorem State.tickFree_sketches (s : State) : (s.tickFree).sketches = s.sketches := rfl
@[simp] theorem State.tickFree_hotLists (s : State) : (s.tickFree).hotLists = s.hotLists := rfl
@[simp] theorem State.tickFree_replicas (s : State) : (s.tickFree).replicas = s.replicas := rfl
@[simp] theorem State.tickFree_images (s : State) : (s.tickFree).images = s.images := rfl
@[simp] theorem State.tickFree_armings (s : State) : (s.tickFree).armings = s.armings := rfl
@[simp] theorem State.tickFree_nextArming (s : State) : (s.tickFree).nextArming = s.nextArming := rfl
@[simp] theorem State.tickFree_armRecords (s : State) : (s.tickFree).armRecords = s.armRecords := rfl
@[simp] theorem State.tickFree_gaz (s : State) : (s.tickFree).gaz = s.gaz := rfl
@[simp] theorem State.tickFree_seq (s : State) : (s.tickFree).seq = s.seq := rfl
@[simp] theorem State.tickFree_bootRing (s : State) : (s.tickFree).bootRing = s.bootRing := rfl
@[simp] theorem State.tickFree_leftOut (s : State) : (s.tickFree).leftOut = s.leftOut := rfl
@[simp] theorem State.tickFree_logRing (s : State) : (s.tickFree).logRing = s.logRing := rfl
@[simp] theorem State.tickFree_heldEvents (s : State) : (s.tickFree).heldEvents = s.heldEvents := rfl
@[simp] theorem State.tickFree_hintsDropped (s : State) : (s.tickFree).hintsDropped = s.hintsDropped := rfl
@[simp] theorem State.tickFree_eccCounts (s : State) : (s.tickFree).eccCounts = s.eccCounts := rfl
@[simp] theorem State.tickFree_pair (s : State) : (s.tickFree).pair = s.pair := rfl
@[simp] theorem State.tickFree_comms (s : State) : (s.tickFree).comms = s.comms := rfl
@[simp] theorem State.tickFree_contributions (s : State) : (s.tickFree).contributions = s.contributions := rfl
@[simp] theorem State.tickFree_podBars (s : State) : (s.tickFree).podBars = s.podBars := rfl
@[simp] theorem State.tickFree_queues (s : State) : (s.tickFree).queues = s.queues := rfl
@[simp] theorem State.tickFree_partitions (s : State) : (s.tickFree).partitions = s.partitions := rfl
@[simp] theorem State.tickFree_launches (s : State) : (s.tickFree).launches = s.launches := rfl
@[simp] theorem State.tickFree_nextLaunch (s : State) : (s.tickFree).nextLaunch = s.nextLaunch := rfl
@[simp] theorem State.tickFree_blocks (s : State) : (s.tickFree).blocks = s.blocks := rfl
@[simp] theorem State.tickFree_nextBlock (s : State) : (s.tickFree).nextBlock = s.nextBlock := rfl
@[simp] theorem State.tickFree_nextDispatch (s : State) : (s.tickFree).nextDispatch = s.nextDispatch := rfl
@[simp] theorem State.tickFree_cores (s : State) : (s.tickFree).cores = s.cores := rfl
@[simp] theorem State.tickFree_signatures (s : State) : (s.tickFree).signatures = s.signatures := rfl
@[simp] theorem State.tickFree_nextPeriod (s : State) : (s.tickFree).nextPeriod = s.nextPeriod := rfl
@[simp] theorem State.tickFree_nextHot (s : State) : (s.tickFree).nextHot = s.nextHot := rfl
@[simp] theorem State.tickFree_result (s : State) : (s.tickFree).result = s.result := rfl
@[simp] theorem State.tickFree_inbox (s : State) : (s.tickFree).inbox = s.inbox := rfl
@[simp] theorem State.tickFree_subject (s : State) : (s.tickFree).subject = s.subject := rfl
@[simp] theorem State.tickFree_issue (s : State) : (s.tickFree).issue = s.issue := rfl
@[simp] theorem State.tickFree_second (s : State) : (s.tickFree).second = s.second := rfl
@[simp] theorem State.tickFree_turn (s : State) : (s.tickFree).turn = s.turn := rfl
@[simp] theorem State.tickFree_l2 (s : State) : (s.tickFree).l2 = s.l2 := rfl
@[simp] theorem State.tickFree_errors (s : State) : (s.tickFree).errors = s.errors := rfl
@[simp] theorem State.tickFree_soft (s : State) : (s.tickFree).soft = s.soft := rfl

/-! ### What is looked up after an update elsewhere -/

@[simp] theorem State.updBlock_core (s : State) (n : Nat) (f : Block → Block) (x : Nat) : (s.updBlock n f).core x = s.core x := rfl
@[simp] theorem State.updBlock_launchQ (s : State) (n : Nat) (f : Block → Block) (x : Nat) : (s.updBlock n f).launch? x = s.launch? x := rfl
@[simp] theorem State.updBlock_queueQ (s : State) (n : Nat) (f : Block → Block) (x : Nat) : (s.updBlock n f).queue? x = s.queue? x := rfl
@[simp] theorem State.updBlock_partQ (s : State) (n : Nat) (f : Block → Block) (x : Nat) : (s.updBlock n f).part? x = s.part? x := rfl
@[simp] theorem State.updBlock_entryQ (s : State) (n : Nat) (f : Block → Block) (x : EntryKey) : (s.updBlock n f).entry? x = s.entry? x := rfl
@[simp] theorem State.updGroup_core (s : State) (n g : Nat) (f : Group → Group) (x : Nat) : (s.updGroup n g f).core x = s.core x := rfl
@[simp] theorem State.updGroup_launchQ (s : State) (n g : Nat) (f : Group → Group) (x : Nat) : (s.updGroup n g f).launch? x = s.launch? x := rfl
@[simp] theorem State.updGroup_queueQ (s : State) (n g : Nat) (f : Group → Group) (x : Nat) : (s.updGroup n g f).queue? x = s.queue? x := rfl
@[simp] theorem State.updGroup_partQ (s : State) (n g : Nat) (f : Group → Group) (x : Nat) : (s.updGroup n g f).part? x = s.part? x := rfl
@[simp] theorem State.updGroup_entryQ (s : State) (n g : Nat) (f : Group → Group) (x : EntryKey) : (s.updGroup n g f).entry? x = s.entry? x := rfl
@[simp] theorem State.updThread_core (s : State) (n g l : Nat) (f : Thread → Thread) (x : Nat) : (s.updThread n g l f).core x = s.core x := rfl
@[simp] theorem State.updThread_launchQ (s : State) (n g l : Nat) (f : Thread → Thread) (x : Nat) : (s.updThread n g l f).launch? x = s.launch? x := rfl
@[simp] theorem State.updThread_queueQ (s : State) (n g l : Nat) (f : Thread → Thread) (x : Nat) : (s.updThread n g l f).queue? x = s.queue? x := rfl
@[simp] theorem State.updThread_partQ (s : State) (n g l : Nat) (f : Thread → Thread) (x : Nat) : (s.updThread n g l f).part? x = s.part? x := rfl
@[simp] theorem State.updThread_entryQ (s : State) (n g l : Nat) (f : Thread → Thread) (x : EntryKey) : (s.updThread n g l f).entry? x = s.entry? x := rfl
@[simp] theorem State.setCore_blockQ (s : State) (c : Core) (x : Nat) : (s.setCore c).block? x = s.block? x := rfl
@[simp] theorem State.setCore_groupQ (s : State) (c : Core) (x y : Nat) : (s.setCore c).group? x y = s.group? x y := rfl
@[simp] theorem State.setCore_threadQ (s : State) (c : Core) (x y z : Nat) : (s.setCore c).thread? x y z = s.thread? x y z := rfl
@[simp] theorem State.setCore_launchQ (s : State) (c : Core) (x : Nat) : (s.setCore c).launch? x = s.launch? x := rfl
@[simp] theorem State.setCore_queueQ (s : State) (c : Core) (x : Nat) : (s.setCore c).queue? x = s.queue? x := rfl
@[simp] theorem State.setCore_partQ (s : State) (c : Core) (x : Nat) : (s.setCore c).part? x = s.part? x := rfl
@[simp] theorem State.setCore_entryQ (s : State) (c : Core) (x : EntryKey) : (s.setCore c).entry? x = s.entry? x := rfl
@[simp] theorem State.updCore_blockQ (s : State) (n : Nat) (f : Core → Core) (x : Nat) : (s.updCore n f).block? x = s.block? x := rfl
@[simp] theorem State.updCore_groupQ (s : State) (n : Nat) (f : Core → Core) (x y : Nat) : (s.updCore n f).group? x y = s.group? x y := rfl
@[simp] theorem State.updCore_threadQ (s : State) (n : Nat) (f : Core → Core) (x y z : Nat) : (s.updCore n f).thread? x y z = s.thread? x y z := rfl
@[simp] theorem State.updCore_launchQ (s : State) (n : Nat) (f : Core → Core) (x : Nat) : (s.updCore n f).launch? x = s.launch? x := rfl
@[simp] theorem State.updCore_queueQ (s : State) (n : Nat) (f : Core → Core) (x : Nat) : (s.updCore n f).queue? x = s.queue? x := rfl
@[simp] theorem State.updCore_partQ (s : State) (n : Nat) (f : Core → Core) (x : Nat) : (s.updCore n f).part? x = s.part? x := rfl
@[simp] theorem State.updCore_entryQ (s : State) (n : Nat) (f : Core → Core) (x : EntryKey) : (s.updCore n f).entry? x = s.entry? x := rfl
@[simp] theorem State.updLaunch_blockQ (s : State) (n : Nat) (f : Launch → Launch) (x : Nat) : (s.updLaunch n f).block? x = s.block? x := rfl
@[simp] theorem State.updLaunch_groupQ (s : State) (n : Nat) (f : Launch → Launch) (x y : Nat) : (s.updLaunch n f).group? x y = s.group? x y := rfl
@[simp] theorem State.updLaunch_threadQ (s : State) (n : Nat) (f : Launch → Launch) (x y z : Nat) : (s.updLaunch n f).thread? x y z = s.thread? x y z := rfl
@[simp] theorem State.updLaunch_core (s : State) (n : Nat) (f : Launch → Launch) (x : Nat) : (s.updLaunch n f).core x = s.core x := rfl
@[simp] theorem State.updLaunch_queueQ (s : State) (n : Nat) (f : Launch → Launch) (x : Nat) : (s.updLaunch n f).queue? x = s.queue? x := rfl
@[simp] theorem State.updLaunch_partQ (s : State) (n : Nat) (f : Launch → Launch) (x : Nat) : (s.updLaunch n f).part? x = s.part? x := rfl
@[simp] theorem State.updLaunch_entryQ (s : State) (n : Nat) (f : Launch → Launch) (x : EntryKey) : (s.updLaunch n f).entry? x = s.entry? x := rfl
@[simp] theorem State.updQueue_blockQ (s : State) (n : Nat) (f : Queue → Queue) (x : Nat) : (s.updQueue n f).block? x = s.block? x := rfl
@[simp] theorem State.updQueue_groupQ (s : State) (n : Nat) (f : Queue → Queue) (x y : Nat) : (s.updQueue n f).group? x y = s.group? x y := rfl
@[simp] theorem State.updQueue_threadQ (s : State) (n : Nat) (f : Queue → Queue) (x y z : Nat) : (s.updQueue n f).thread? x y z = s.thread? x y z := rfl
@[simp] theorem State.updQueue_core (s : State) (n : Nat) (f : Queue → Queue) (x : Nat) : (s.updQueue n f).core x = s.core x := rfl
@[simp] theorem State.updQueue_launchQ (s : State) (n : Nat) (f : Queue → Queue) (x : Nat) : (s.updQueue n f).launch? x = s.launch? x := rfl
@[simp] theorem State.updQueue_partQ (s : State) (n : Nat) (f : Queue → Queue) (x : Nat) : (s.updQueue n f).part? x = s.part? x := rfl
@[simp] theorem State.updQueue_entryQ (s : State) (n : Nat) (f : Queue → Queue) (x : EntryKey) : (s.updQueue n f).entry? x = s.entry? x := rfl
@[simp] theorem State.updPart_blockQ (s : State) (n : Nat) (f : Partition → Partition) (x : Nat) : (s.updPart n f).block? x = s.block? x := rfl
@[simp] theorem State.updPart_groupQ (s : State) (n : Nat) (f : Partition → Partition) (x y : Nat) : (s.updPart n f).group? x y = s.group? x y := rfl
@[simp] theorem State.updPart_threadQ (s : State) (n : Nat) (f : Partition → Partition) (x y z : Nat) : (s.updPart n f).thread? x y z = s.thread? x y z := rfl
@[simp] theorem State.updPart_core (s : State) (n : Nat) (f : Partition → Partition) (x : Nat) : (s.updPart n f).core x = s.core x := rfl
@[simp] theorem State.updPart_launchQ (s : State) (n : Nat) (f : Partition → Partition) (x : Nat) : (s.updPart n f).launch? x = s.launch? x := rfl
@[simp] theorem State.updPart_queueQ (s : State) (n : Nat) (f : Partition → Partition) (x : Nat) : (s.updPart n f).queue? x = s.queue? x := rfl
@[simp] theorem State.updPart_entryQ (s : State) (n : Nat) (f : Partition → Partition) (x : EntryKey) : (s.updPart n f).entry? x = s.entry? x := rfl
@[simp] theorem State.updEntry_blockQ (s : State) (k : EntryKey) (f : Entry → Entry) (x : Nat) : (s.updEntry k f).block? x = s.block? x := rfl
@[simp] theorem State.updEntry_groupQ (s : State) (k : EntryKey) (f : Entry → Entry) (x y : Nat) : (s.updEntry k f).group? x y = s.group? x y := rfl
@[simp] theorem State.updEntry_threadQ (s : State) (k : EntryKey) (f : Entry → Entry) (x y z : Nat) : (s.updEntry k f).thread? x y z = s.thread? x y z := rfl
@[simp] theorem State.updEntry_core (s : State) (k : EntryKey) (f : Entry → Entry) (x : Nat) : (s.updEntry k f).core x = s.core x := rfl
@[simp] theorem State.updEntry_launchQ (s : State) (k : EntryKey) (f : Entry → Entry) (x : Nat) : (s.updEntry k f).launch? x = s.launch? x := rfl
@[simp] theorem State.updEntry_queueQ (s : State) (k : EntryKey) (f : Entry → Entry) (x : Nat) : (s.updEntry k f).queue? x = s.queue? x := rfl
@[simp] theorem State.updEntry_partQ (s : State) (k : EntryKey) (f : Entry → Entry) (x : Nat) : (s.updEntry k f).part? x = s.part? x := rfl
@[simp] theorem State.tickFree_blockQ (s : State) (x : Nat) : (s.tickFree).block? x = s.block? x := rfl
@[simp] theorem State.tickFree_groupQ (s : State) (x y : Nat) : (s.tickFree).group? x y = s.group? x y := rfl
@[simp] theorem State.tickFree_threadQ (s : State) (x y z : Nat) : (s.tickFree).thread? x y z = s.thread? x y z := rfl
@[simp] theorem State.tickFree_core (s : State) (x : Nat) : (s.tickFree).core x = s.core x := rfl
@[simp] theorem State.tickFree_launchQ (s : State) (x : Nat) : (s.tickFree).launch? x = s.launch? x := rfl
@[simp] theorem State.tickFree_queueQ (s : State) (x : Nat) : (s.tickFree).queue? x = s.queue? x := rfl
@[simp] theorem State.tickFree_partQ (s : State) (x : Nat) : (s.tickFree).part? x = s.part? x := rfl
@[simp] theorem State.tickFree_entryQ (s : State) (x : EntryKey) : (s.tickFree).entry? x = s.entry? x := rfl

/-! ### Thread.setV -/

@[simp] theorem Thread.setV_pc (t : Thread) (n : Nat) (x : Word) : (t.setV n x).pc = t.pc := rfl
@[simp] theorem Thread.setV_region (t : Thread) (n : Nat) (x : Word) : (t.setV n x).region = t.region := rfl
@[simp] theorem Thread.setV_st (t : Thread) (n : Nat) (x : Word) : (t.setV n x).st = t.st := rfl
@[simp] theorem Thread.setV_p (t : Thread) (n : Nat) (x : Word) : (t.setV n x).p = t.p := rfl
@[simp] theorem Thread.setV_fpenv (t : Thread) (n : Nat) (x : Word) : (t.setV n x).fpenv = t.fpenv := rfl
@[simp] theorem Thread.setV_fpflags (t : Thread) (n : Nat) (x : Word) : (t.setV n x).fpflags = t.fpflags := rfl
@[simp] theorem Thread.setV_starve (t : Thread) (n : Nat) (x : Word) : (t.setV n x).starve = t.starve := rfl
@[simp] theorem Thread.setV_horizon (t : Thread) (n : Nat) (x : Word) : (t.setV n x).horizon = t.horizon := rfl
@[simp] theorem Thread.setV_parkSet (t : Thread) (n : Nat) (x : Word) : (t.setV n x).parkSet = t.parkSet := rfl
@[simp] theorem Thread.setV_fetchPark (t : Thread) (n : Nat) (x : Word) : (t.setV n x).fetchPark = t.fetchPark := rfl
@[simp] theorem Thread.setV_denied (t : Thread) (n : Nat) (x : Word) : (t.setV n x).denied = t.denied := rfl
@[simp] theorem Thread.setV_trap (t : Thread) (n : Nat) (x : Word) : (t.setV n x).trap = t.trap := rfl
@[simp] theorem Thread.setV_last (t : Thread) (n : Nat) (x : Word) : (t.setV n x).last = t.last := rfl
@[simp] theorem Thread.setV_imprecise (t : Thread) (n : Nat) (x : Word) : (t.setV n x).imprecise = t.imprecise := rfl
@[simp] theorem Thread.setV_armRecord (t : Thread) (n : Nat) (x : Word) : (t.setV n x).armRecord = t.armRecord := rfl
@[simp] theorem Thread.setV_codeRanges (t : Thread) (n : Nat) (x : Word) : (t.setV n x).codeRanges = t.codeRanges := rfl

/-! ### Thread.setPair -/

@[simp] theorem Thread.setPair_pc (t : Thread) (n : Nat) (x : Dword) : (t.setPair n x).pc = t.pc := rfl
@[simp] theorem Thread.setPair_region (t : Thread) (n : Nat) (x : Dword) : (t.setPair n x).region = t.region := rfl
@[simp] theorem Thread.setPair_st (t : Thread) (n : Nat) (x : Dword) : (t.setPair n x).st = t.st := rfl
@[simp] theorem Thread.setPair_p (t : Thread) (n : Nat) (x : Dword) : (t.setPair n x).p = t.p := rfl
@[simp] theorem Thread.setPair_fpenv (t : Thread) (n : Nat) (x : Dword) : (t.setPair n x).fpenv = t.fpenv := rfl
@[simp] theorem Thread.setPair_fpflags (t : Thread) (n : Nat) (x : Dword) : (t.setPair n x).fpflags = t.fpflags := rfl
@[simp] theorem Thread.setPair_starve (t : Thread) (n : Nat) (x : Dword) : (t.setPair n x).starve = t.starve := rfl
@[simp] theorem Thread.setPair_horizon (t : Thread) (n : Nat) (x : Dword) : (t.setPair n x).horizon = t.horizon := rfl
@[simp] theorem Thread.setPair_parkSet (t : Thread) (n : Nat) (x : Dword) : (t.setPair n x).parkSet = t.parkSet := rfl
@[simp] theorem Thread.setPair_fetchPark (t : Thread) (n : Nat) (x : Dword) : (t.setPair n x).fetchPark = t.fetchPark := rfl
@[simp] theorem Thread.setPair_denied (t : Thread) (n : Nat) (x : Dword) : (t.setPair n x).denied = t.denied := rfl
@[simp] theorem Thread.setPair_trap (t : Thread) (n : Nat) (x : Dword) : (t.setPair n x).trap = t.trap := rfl
@[simp] theorem Thread.setPair_last (t : Thread) (n : Nat) (x : Dword) : (t.setPair n x).last = t.last := rfl
@[simp] theorem Thread.setPair_imprecise (t : Thread) (n : Nat) (x : Dword) : (t.setPair n x).imprecise = t.imprecise := rfl
@[simp] theorem Thread.setPair_armRecord (t : Thread) (n : Nat) (x : Dword) : (t.setPair n x).armRecord = t.armRecord := rfl
@[simp] theorem Thread.setPair_codeRanges (t : Thread) (n : Nat) (x : Dword) : (t.setPair n x).codeRanges = t.codeRanges := rfl

/-! ### Thread.setP -/

@[simp] theorem Thread.setP_pc (t : Thread) (n : Nat) (x : Bool) : (t.setP n x).pc = t.pc := by unfold Thread.setP; split <;> rfl
@[simp] theorem Thread.setP_region (t : Thread) (n : Nat) (x : Bool) : (t.setP n x).region = t.region := by unfold Thread.setP; split <;> rfl
@[simp] theorem Thread.setP_st (t : Thread) (n : Nat) (x : Bool) : (t.setP n x).st = t.st := by unfold Thread.setP; split <;> rfl
@[simp] theorem Thread.setP_v (t : Thread) (n : Nat) (x : Bool) : (t.setP n x).v = t.v := by unfold Thread.setP; split <;> rfl
@[simp] theorem Thread.setP_fpenv (t : Thread) (n : Nat) (x : Bool) : (t.setP n x).fpenv = t.fpenv := by unfold Thread.setP; split <;> rfl
@[simp] theorem Thread.setP_fpflags (t : Thread) (n : Nat) (x : Bool) : (t.setP n x).fpflags = t.fpflags := by unfold Thread.setP; split <;> rfl
@[simp] theorem Thread.setP_starve (t : Thread) (n : Nat) (x : Bool) : (t.setP n x).starve = t.starve := by unfold Thread.setP; split <;> rfl
@[simp] theorem Thread.setP_horizon (t : Thread) (n : Nat) (x : Bool) : (t.setP n x).horizon = t.horizon := by unfold Thread.setP; split <;> rfl
@[simp] theorem Thread.setP_parkSet (t : Thread) (n : Nat) (x : Bool) : (t.setP n x).parkSet = t.parkSet := by unfold Thread.setP; split <;> rfl
@[simp] theorem Thread.setP_fetchPark (t : Thread) (n : Nat) (x : Bool) : (t.setP n x).fetchPark = t.fetchPark := by unfold Thread.setP; split <;> rfl
@[simp] theorem Thread.setP_denied (t : Thread) (n : Nat) (x : Bool) : (t.setP n x).denied = t.denied := by unfold Thread.setP; split <;> rfl
@[simp] theorem Thread.setP_trap (t : Thread) (n : Nat) (x : Bool) : (t.setP n x).trap = t.trap := by unfold Thread.setP; split <;> rfl
@[simp] theorem Thread.setP_last (t : Thread) (n : Nat) (x : Bool) : (t.setP n x).last = t.last := by unfold Thread.setP; split <;> rfl
@[simp] theorem Thread.setP_imprecise (t : Thread) (n : Nat) (x : Bool) : (t.setP n x).imprecise = t.imprecise := by unfold Thread.setP; split <;> rfl
@[simp] theorem Thread.setP_armRecord (t : Thread) (n : Nat) (x : Bool) : (t.setP n x).armRecord = t.armRecord := by unfold Thread.setP; split <;> rfl
@[simp] theorem Thread.setP_codeRanges (t : Thread) (n : Nat) (x : Bool) : (t.setP n x).codeRanges = t.codeRanges := by unfold Thread.setP; split <;> rfl

/-! ### Thread.advance -/

@[simp] theorem Thread.advance_region (t : Thread) (n : Nat) : (t.advance n).region = t.region := rfl
@[simp] theorem Thread.advance_st (t : Thread) (n : Nat) : (t.advance n).st = t.st := rfl
@[simp] theorem Thread.advance_v (t : Thread) (n : Nat) : (t.advance n).v = t.v := rfl
@[simp] theorem Thread.advance_p (t : Thread) (n : Nat) : (t.advance n).p = t.p := rfl
@[simp] theorem Thread.advance_fpenv (t : Thread) (n : Nat) : (t.advance n).fpenv = t.fpenv := rfl
@[simp] theorem Thread.advance_fpflags (t : Thread) (n : Nat) : (t.advance n).fpflags = t.fpflags := rfl
@[simp] theorem Thread.advance_starve (t : Thread) (n : Nat) : (t.advance n).starve = t.starve := rfl
@[simp] theorem Thread.advance_horizon (t : Thread) (n : Nat) : (t.advance n).horizon = t.horizon := rfl
@[simp] theorem Thread.advance_parkSet (t : Thread) (n : Nat) : (t.advance n).parkSet = t.parkSet := rfl
@[simp] theorem Thread.advance_fetchPark (t : Thread) (n : Nat) : (t.advance n).fetchPark = t.fetchPark := rfl
@[simp] theorem Thread.advance_denied (t : Thread) (n : Nat) : (t.advance n).denied = t.denied := rfl
@[simp] theorem Thread.advance_trap (t : Thread) (n : Nat) : (t.advance n).trap = t.trap := rfl
@[simp] theorem Thread.advance_last (t : Thread) (n : Nat) : (t.advance n).last = t.last := rfl
@[simp] theorem Thread.advance_imprecise (t : Thread) (n : Nat) : (t.advance n).imprecise = t.imprecise := rfl
@[simp] theorem Thread.advance_armRecord (t : Thread) (n : Nat) : (t.advance n).armRecord = t.armRecord := rfl
@[simp] theorem Thread.advance_codeRanges (t : Thread) (n : Nat) : (t.advance n).codeRanges = t.codeRanges := rfl

/-! ### Thread.jump -/

@[simp] theorem Thread.jump_region (t : Thread) (x : Dword) : (t.jump x).region = t.region := rfl
@[simp] theorem Thread.jump_st (t : Thread) (x : Dword) : (t.jump x).st = t.st := rfl
@[simp] theorem Thread.jump_v (t : Thread) (x : Dword) : (t.jump x).v = t.v := rfl
@[simp] theorem Thread.jump_p (t : Thread) (x : Dword) : (t.jump x).p = t.p := rfl
@[simp] theorem Thread.jump_fpenv (t : Thread) (x : Dword) : (t.jump x).fpenv = t.fpenv := rfl
@[simp] theorem Thread.jump_fpflags (t : Thread) (x : Dword) : (t.jump x).fpflags = t.fpflags := rfl
@[simp] theorem Thread.jump_starve (t : Thread) (x : Dword) : (t.jump x).starve = t.starve := rfl
@[simp] theorem Thread.jump_horizon (t : Thread) (x : Dword) : (t.jump x).horizon = t.horizon := rfl
@[simp] theorem Thread.jump_parkSet (t : Thread) (x : Dword) : (t.jump x).parkSet = t.parkSet := rfl
@[simp] theorem Thread.jump_fetchPark (t : Thread) (x : Dword) : (t.jump x).fetchPark = t.fetchPark := rfl
@[simp] theorem Thread.jump_denied (t : Thread) (x : Dword) : (t.jump x).denied = t.denied := rfl
@[simp] theorem Thread.jump_trap (t : Thread) (x : Dword) : (t.jump x).trap = t.trap := rfl
@[simp] theorem Thread.jump_last (t : Thread) (x : Dword) : (t.jump x).last = t.last := rfl
@[simp] theorem Thread.jump_imprecise (t : Thread) (x : Dword) : (t.jump x).imprecise = t.imprecise := rfl
@[simp] theorem Thread.jump_armRecord (t : Thread) (x : Dword) : (t.jump x).armRecord = t.armRecord := rfl
@[simp] theorem Thread.jump_codeRanges (t : Thread) (x : Dword) : (t.jump x).codeRanges = t.codeRanges := rfl

/-! ### Thread.setState -/

@[simp] theorem Thread.setState_pc (t : Thread) (x : TState) : (t.setState x).pc = t.pc := rfl
@[simp] theorem Thread.setState_region (t : Thread) (x : TState) : (t.setState x).region = t.region := rfl
@[simp] theorem Thread.setState_v (t : Thread) (x : TState) : (t.setState x).v = t.v := rfl
@[simp] theorem Thread.setState_p (t : Thread) (x : TState) : (t.setState x).p = t.p := rfl
@[simp] theorem Thread.setState_fpenv (t : Thread) (x : TState) : (t.setState x).fpenv = t.fpenv := rfl
@[simp] theorem Thread.setState_fpflags (t : Thread) (x : TState) : (t.setState x).fpflags = t.fpflags := rfl
@[simp] theorem Thread.setState_starve (t : Thread) (x : TState) : (t.setState x).starve = t.starve := rfl
@[simp] theorem Thread.setState_horizon (t : Thread) (x : TState) : (t.setState x).horizon = t.horizon := rfl
@[simp] theorem Thread.setState_parkSet (t : Thread) (x : TState) : (t.setState x).parkSet = t.parkSet := rfl
@[simp] theorem Thread.setState_fetchPark (t : Thread) (x : TState) : (t.setState x).fetchPark = t.fetchPark := rfl
@[simp] theorem Thread.setState_denied (t : Thread) (x : TState) : (t.setState x).denied = t.denied := rfl
@[simp] theorem Thread.setState_trap (t : Thread) (x : TState) : (t.setState x).trap = t.trap := rfl
@[simp] theorem Thread.setState_last (t : Thread) (x : TState) : (t.setState x).last = t.last := rfl
@[simp] theorem Thread.setState_imprecise (t : Thread) (x : TState) : (t.setState x).imprecise = t.imprecise := rfl
@[simp] theorem Thread.setState_armRecord (t : Thread) (x : TState) : (t.setState x).armRecord = t.armRecord := rfl
@[simp] theorem Thread.setState_codeRanges (t : Thread) (x : TState) : (t.setState x).codeRanges = t.codeRanges := rfl

/-! ### Thread.setRegion -/

@[simp] theorem Thread.setRegion_pc (t : Thread) (x : Dword) : (t.setRegion x).pc = t.pc := rfl
@[simp] theorem Thread.setRegion_st (t : Thread) (x : Dword) : (t.setRegion x).st = t.st := rfl
@[simp] theorem Thread.setRegion_v (t : Thread) (x : Dword) : (t.setRegion x).v = t.v := rfl
@[simp] theorem Thread.setRegion_p (t : Thread) (x : Dword) : (t.setRegion x).p = t.p := rfl
@[simp] theorem Thread.setRegion_fpenv (t : Thread) (x : Dword) : (t.setRegion x).fpenv = t.fpenv := rfl
@[simp] theorem Thread.setRegion_fpflags (t : Thread) (x : Dword) : (t.setRegion x).fpflags = t.fpflags := rfl
@[simp] theorem Thread.setRegion_starve (t : Thread) (x : Dword) : (t.setRegion x).starve = t.starve := rfl
@[simp] theorem Thread.setRegion_horizon (t : Thread) (x : Dword) : (t.setRegion x).horizon = t.horizon := rfl
@[simp] theorem Thread.setRegion_parkSet (t : Thread) (x : Dword) : (t.setRegion x).parkSet = t.parkSet := rfl
@[simp] theorem Thread.setRegion_fetchPark (t : Thread) (x : Dword) : (t.setRegion x).fetchPark = t.fetchPark := rfl
@[simp] theorem Thread.setRegion_denied (t : Thread) (x : Dword) : (t.setRegion x).denied = t.denied := rfl
@[simp] theorem Thread.setRegion_trap (t : Thread) (x : Dword) : (t.setRegion x).trap = t.trap := rfl
@[simp] theorem Thread.setRegion_last (t : Thread) (x : Dword) : (t.setRegion x).last = t.last := rfl
@[simp] theorem Thread.setRegion_imprecise (t : Thread) (x : Dword) : (t.setRegion x).imprecise = t.imprecise := rfl
@[simp] theorem Thread.setRegion_armRecord (t : Thread) (x : Dword) : (t.setRegion x).armRecord = t.armRecord := rfl
@[simp] theorem Thread.setRegion_codeRanges (t : Thread) (x : Dword) : (t.setRegion x).codeRanges = t.codeRanges := rfl

/-! ### Thread.raiseFlags -/

@[simp] theorem Thread.raiseFlags_pc (t : Thread) (x : Flags) : (t.raiseFlags x).pc = t.pc := rfl
@[simp] theorem Thread.raiseFlags_region (t : Thread) (x : Flags) : (t.raiseFlags x).region = t.region := rfl
@[simp] theorem Thread.raiseFlags_st (t : Thread) (x : Flags) : (t.raiseFlags x).st = t.st := rfl
@[simp] theorem Thread.raiseFlags_v (t : Thread) (x : Flags) : (t.raiseFlags x).v = t.v := rfl
@[simp] theorem Thread.raiseFlags_p (t : Thread) (x : Flags) : (t.raiseFlags x).p = t.p := rfl
@[simp] theorem Thread.raiseFlags_fpenv (t : Thread) (x : Flags) : (t.raiseFlags x).fpenv = t.fpenv := rfl
@[simp] theorem Thread.raiseFlags_starve (t : Thread) (x : Flags) : (t.raiseFlags x).starve = t.starve := rfl
@[simp] theorem Thread.raiseFlags_horizon (t : Thread) (x : Flags) : (t.raiseFlags x).horizon = t.horizon := rfl
@[simp] theorem Thread.raiseFlags_parkSet (t : Thread) (x : Flags) : (t.raiseFlags x).parkSet = t.parkSet := rfl
@[simp] theorem Thread.raiseFlags_fetchPark (t : Thread) (x : Flags) : (t.raiseFlags x).fetchPark = t.fetchPark := rfl
@[simp] theorem Thread.raiseFlags_denied (t : Thread) (x : Flags) : (t.raiseFlags x).denied = t.denied := rfl
@[simp] theorem Thread.raiseFlags_trap (t : Thread) (x : Flags) : (t.raiseFlags x).trap = t.trap := rfl
@[simp] theorem Thread.raiseFlags_last (t : Thread) (x : Flags) : (t.raiseFlags x).last = t.last := rfl
@[simp] theorem Thread.raiseFlags_imprecise (t : Thread) (x : Flags) : (t.raiseFlags x).imprecise = t.imprecise := rfl
@[simp] theorem Thread.raiseFlags_armRecord (t : Thread) (x : Flags) : (t.raiseFlags x).armRecord = t.armRecord := rfl
@[simp] theorem Thread.raiseFlags_codeRanges (t : Thread) (x : Flags) : (t.raiseFlags x).codeRanges = t.codeRanges := rfl

/-! ### Thread.pass -/

@[simp] theorem Thread.pass_st (t : Thread) (n : Nat) : (t.pass n).st = t.st := rfl
@[simp] theorem Thread.pass_v (t : Thread) (n : Nat) : (t.pass n).v = t.v := rfl
@[simp] theorem Thread.pass_p (t : Thread) (n : Nat) : (t.pass n).p = t.p := rfl
@[simp] theorem Thread.pass_fpenv (t : Thread) (n : Nat) : (t.pass n).fpenv = t.fpenv := rfl
@[simp] theorem Thread.pass_fpflags (t : Thread) (n : Nat) : (t.pass n).fpflags = t.fpflags := rfl
@[simp] theorem Thread.pass_starve (t : Thread) (n : Nat) : (t.pass n).starve = t.starve := rfl
@[simp] theorem Thread.pass_horizon (t : Thread) (n : Nat) : (t.pass n).horizon = t.horizon := rfl
@[simp] theorem Thread.pass_parkSet (t : Thread) (n : Nat) : (t.pass n).parkSet = t.parkSet := rfl
@[simp] theorem Thread.pass_fetchPark (t : Thread) (n : Nat) : (t.pass n).fetchPark = t.fetchPark := rfl
@[simp] theorem Thread.pass_denied (t : Thread) (n : Nat) : (t.pass n).denied = t.denied := rfl
@[simp] theorem Thread.pass_trap (t : Thread) (n : Nat) : (t.pass n).trap = t.trap := rfl
@[simp] theorem Thread.pass_last (t : Thread) (n : Nat) : (t.pass n).last = t.last := rfl
@[simp] theorem Thread.pass_imprecise (t : Thread) (n : Nat) : (t.pass n).imprecise = t.imprecise := rfl
@[simp] theorem Thread.pass_armRecord (t : Thread) (n : Nat) : (t.pass n).armRecord = t.armRecord := rfl
@[simp] theorem Thread.pass_codeRanges (t : Thread) (n : Nat) : (t.pass n).codeRanges = t.codeRanges := rfl

/-! ### Group.setS -/

@[simp] theorem Group.setS_idx (g : Group) (n : Nat) (x : Word) : (g.setS n x).idx = g.idx := rfl
@[simp] theorem Group.setS_sched (g : Group) (n : Nat) (x : Word) : (g.setS n x).sched = g.sched := rfl
@[simp] theorem Group.setS_slot (g : Group) (n : Nat) (x : Word) : (g.setS n x).slot = g.slot := rfl
@[simp] theorem Group.setS_k (g : Group) (n : Nat) (x : Word) : (g.setS n x).k = g.k := rfl
@[simp] theorem Group.setS_vallot (g : Group) (n : Nat) (x : Word) : (g.setS n x).vallot = g.vallot := rfl
@[simp] theorem Group.setS_uallot (g : Group) (n : Nat) (x : Word) : (g.setS n x).uallot = g.uallot := rfl
@[simp] theorem Group.setS_acc (g : Group) (n : Nat) (x : Word) : (g.setS n x).acc = g.acc := rfl
@[simp] theorem Group.setS_mmaflags (g : Group) (n : Nat) (x : Word) : (g.setS n x).mmaflags = g.mmaflags := rfl
@[simp] theorem Group.setS_cb (g : Group) (n : Nat) (x : Word) : (g.setS n x).cb = g.cb := rfl
@[simp] theorem Group.setS_threads (g : Group) (n : Nat) (x : Word) : (g.setS n x).threads = g.threads := rfl
@[simp] theorem Group.setS_waits (g : Group) (n : Nat) (x : Word) : (g.setS n x).waits = g.waits := rfl
@[simp] theorem Group.setS_loads (g : Group) (n : Nat) (x : Word) : (g.setS n x).loads = g.loads := rfl
@[simp] theorem Group.setS_nextLoad (g : Group) (n : Nat) (x : Word) : (g.setS n x).nextLoad = g.nextLoad := rfl
@[simp] theorem Group.setS_flights (g : Group) (n : Nat) (x : Word) : (g.setS n x).flights = g.flights := rfl
@[simp] theorem Group.setS_latch (g : Group) (n : Nat) (x : Word) : (g.setS n x).latch = g.latch := rfl
@[simp] theorem Group.setS_arrival (g : Group) (n : Nat) (x : Word) : (g.setS n x).arrival = g.arrival := rfl
@[simp] theorem Group.setS_aph (g : Group) (n : Nat) (x : Word) : (g.setS n x).aph = g.aph := rfl
@[simp] theorem Group.setS_unchosen (g : Group) (n : Nat) (x : Word) : (g.setS n x).unchosen = g.unchosen := rfl
@[simp] theorem Group.setS_opportunities (g : Group) (n : Nat) (x : Word) : (g.setS n x).opportunities = g.opportunities := rfl
@[simp] theorem Group.setS_age (g : Group) (n : Nat) (x : Word) : (g.setS n x).age = g.age := rfl
@[simp] theorem Group.setS_parkedAt (g : Group) (n : Nat) (x : Word) : (g.setS n x).parkedAt = g.parkedAt := rfl
@[simp] theorem Group.setS_halted (g : Group) (n : Nat) (x : Word) : (g.setS n x).halted = g.halted := rfl
@[simp] theorem Group.setS_stepping (g : Group) (n : Nat) (x : Word) : (g.setS n x).stepping = g.stepping := rfl
@[simp] theorem Group.setS_stepped (g : Group) (n : Nat) (x : Word) : (g.setS n x).stepped = g.stepped := rfl
@[simp] theorem Group.setS_skipBreak (g : Group) (n : Nat) (x : Word) : (g.setS n x).skipBreak = g.skipBreak := rfl
@[simp] theorem Group.setS_interval (g : Group) (n : Nat) (x : Word) : (g.setS n x).interval = g.interval := rfl
@[simp] theorem Group.setS_known (g : Group) (n : Nat) (x : Word) : (g.setS n x).known = g.known := rfl
@[simp] theorem Group.setS_span (g : Group) (n : Nat) (x : Word) : (g.setS n x).span = g.span := rfl

/-! ### Group.setK -/

@[simp] theorem Group.setK_idx (g : Group) (n : Nat) (x : LaneSet) : (g.setK n x).idx = g.idx := rfl
@[simp] theorem Group.setK_sched (g : Group) (n : Nat) (x : LaneSet) : (g.setK n x).sched = g.sched := rfl
@[simp] theorem Group.setK_slot (g : Group) (n : Nat) (x : LaneSet) : (g.setK n x).slot = g.slot := rfl
@[simp] theorem Group.setK_s (g : Group) (n : Nat) (x : LaneSet) : (g.setK n x).s = g.s := rfl
@[simp] theorem Group.setK_vallot (g : Group) (n : Nat) (x : LaneSet) : (g.setK n x).vallot = g.vallot := rfl
@[simp] theorem Group.setK_uallot (g : Group) (n : Nat) (x : LaneSet) : (g.setK n x).uallot = g.uallot := rfl
@[simp] theorem Group.setK_acc (g : Group) (n : Nat) (x : LaneSet) : (g.setK n x).acc = g.acc := rfl
@[simp] theorem Group.setK_mmaflags (g : Group) (n : Nat) (x : LaneSet) : (g.setK n x).mmaflags = g.mmaflags := rfl
@[simp] theorem Group.setK_cb (g : Group) (n : Nat) (x : LaneSet) : (g.setK n x).cb = g.cb := rfl
@[simp] theorem Group.setK_threads (g : Group) (n : Nat) (x : LaneSet) : (g.setK n x).threads = g.threads := rfl
@[simp] theorem Group.setK_waits (g : Group) (n : Nat) (x : LaneSet) : (g.setK n x).waits = g.waits := rfl
@[simp] theorem Group.setK_loads (g : Group) (n : Nat) (x : LaneSet) : (g.setK n x).loads = g.loads := rfl
@[simp] theorem Group.setK_nextLoad (g : Group) (n : Nat) (x : LaneSet) : (g.setK n x).nextLoad = g.nextLoad := rfl
@[simp] theorem Group.setK_flights (g : Group) (n : Nat) (x : LaneSet) : (g.setK n x).flights = g.flights := rfl
@[simp] theorem Group.setK_latch (g : Group) (n : Nat) (x : LaneSet) : (g.setK n x).latch = g.latch := rfl
@[simp] theorem Group.setK_arrival (g : Group) (n : Nat) (x : LaneSet) : (g.setK n x).arrival = g.arrival := rfl
@[simp] theorem Group.setK_aph (g : Group) (n : Nat) (x : LaneSet) : (g.setK n x).aph = g.aph := rfl
@[simp] theorem Group.setK_unchosen (g : Group) (n : Nat) (x : LaneSet) : (g.setK n x).unchosen = g.unchosen := rfl
@[simp] theorem Group.setK_opportunities (g : Group) (n : Nat) (x : LaneSet) : (g.setK n x).opportunities = g.opportunities := rfl
@[simp] theorem Group.setK_age (g : Group) (n : Nat) (x : LaneSet) : (g.setK n x).age = g.age := rfl
@[simp] theorem Group.setK_parkedAt (g : Group) (n : Nat) (x : LaneSet) : (g.setK n x).parkedAt = g.parkedAt := rfl
@[simp] theorem Group.setK_halted (g : Group) (n : Nat) (x : LaneSet) : (g.setK n x).halted = g.halted := rfl
@[simp] theorem Group.setK_stepping (g : Group) (n : Nat) (x : LaneSet) : (g.setK n x).stepping = g.stepping := rfl
@[simp] theorem Group.setK_stepped (g : Group) (n : Nat) (x : LaneSet) : (g.setK n x).stepped = g.stepped := rfl
@[simp] theorem Group.setK_skipBreak (g : Group) (n : Nat) (x : LaneSet) : (g.setK n x).skipBreak = g.skipBreak := rfl
@[simp] theorem Group.setK_interval (g : Group) (n : Nat) (x : LaneSet) : (g.setK n x).interval = g.interval := rfl
@[simp] theorem Group.setK_known (g : Group) (n : Nat) (x : LaneSet) : (g.setK n x).known = g.known := rfl
@[simp] theorem Group.setK_span (g : Group) (n : Nat) (x : LaneSet) : (g.setK n x).span = g.span := rfl

/-! ### Group.updThread -/

@[simp] theorem Group.updThread_idx (g : Group) (n : Nat) (f : Thread → Thread) : (g.updThread n f).idx = g.idx := rfl
@[simp] theorem Group.updThread_sched (g : Group) (n : Nat) (f : Thread → Thread) : (g.updThread n f).sched = g.sched := rfl
@[simp] theorem Group.updThread_slot (g : Group) (n : Nat) (f : Thread → Thread) : (g.updThread n f).slot = g.slot := rfl
@[simp] theorem Group.updThread_k (g : Group) (n : Nat) (f : Thread → Thread) : (g.updThread n f).k = g.k := rfl
@[simp] theorem Group.updThread_s (g : Group) (n : Nat) (f : Thread → Thread) : (g.updThread n f).s = g.s := rfl
@[simp] theorem Group.updThread_vallot (g : Group) (n : Nat) (f : Thread → Thread) : (g.updThread n f).vallot = g.vallot := rfl
@[simp] theorem Group.updThread_uallot (g : Group) (n : Nat) (f : Thread → Thread) : (g.updThread n f).uallot = g.uallot := rfl
@[simp] theorem Group.updThread_acc (g : Group) (n : Nat) (f : Thread → Thread) : (g.updThread n f).acc = g.acc := rfl
@[simp] theorem Group.updThread_mmaflags (g : Group) (n : Nat) (f : Thread → Thread) : (g.updThread n f).mmaflags = g.mmaflags := rfl
@[simp] theorem Group.updThread_cb (g : Group) (n : Nat) (f : Thread → Thread) : (g.updThread n f).cb = g.cb := rfl
@[simp] theorem Group.updThread_waits (g : Group) (n : Nat) (f : Thread → Thread) : (g.updThread n f).waits = g.waits := rfl
@[simp] theorem Group.updThread_loads (g : Group) (n : Nat) (f : Thread → Thread) : (g.updThread n f).loads = g.loads := rfl
@[simp] theorem Group.updThread_nextLoad (g : Group) (n : Nat) (f : Thread → Thread) : (g.updThread n f).nextLoad = g.nextLoad := rfl
@[simp] theorem Group.updThread_flights (g : Group) (n : Nat) (f : Thread → Thread) : (g.updThread n f).flights = g.flights := rfl
@[simp] theorem Group.updThread_latch (g : Group) (n : Nat) (f : Thread → Thread) : (g.updThread n f).latch = g.latch := rfl
@[simp] theorem Group.updThread_arrival (g : Group) (n : Nat) (f : Thread → Thread) : (g.updThread n f).arrival = g.arrival := rfl
@[simp] theorem Group.updThread_aph (g : Group) (n : Nat) (f : Thread → Thread) : (g.updThread n f).aph = g.aph := rfl
@[simp] theorem Group.updThread_unchosen (g : Group) (n : Nat) (f : Thread → Thread) : (g.updThread n f).unchosen = g.unchosen := rfl
@[simp] theorem Group.updThread_opportunities (g : Group) (n : Nat) (f : Thread → Thread) : (g.updThread n f).opportunities = g.opportunities := rfl
@[simp] theorem Group.updThread_age (g : Group) (n : Nat) (f : Thread → Thread) : (g.updThread n f).age = g.age := rfl
@[simp] theorem Group.updThread_parkedAt (g : Group) (n : Nat) (f : Thread → Thread) : (g.updThread n f).parkedAt = g.parkedAt := rfl
@[simp] theorem Group.updThread_halted (g : Group) (n : Nat) (f : Thread → Thread) : (g.updThread n f).halted = g.halted := rfl
@[simp] theorem Group.updThread_stepping (g : Group) (n : Nat) (f : Thread → Thread) : (g.updThread n f).stepping = g.stepping := rfl
@[simp] theorem Group.updThread_stepped (g : Group) (n : Nat) (f : Thread → Thread) : (g.updThread n f).stepped = g.stepped := rfl
@[simp] theorem Group.updThread_skipBreak (g : Group) (n : Nat) (f : Thread → Thread) : (g.updThread n f).skipBreak = g.skipBreak := rfl
@[simp] theorem Group.updThread_interval (g : Group) (n : Nat) (f : Thread → Thread) : (g.updThread n f).interval = g.interval := rfl
@[simp] theorem Group.updThread_known (g : Group) (n : Nat) (f : Thread → Thread) : (g.updThread n f).known = g.known := rfl
@[simp] theorem Group.updThread_span (g : Group) (n : Nat) (f : Thread → Thread) : (g.updThread n f).span = g.span := rfl

end Sys2Proof.Machine
end

