-- ==== Sys2Proof/Laws/Waits.lean ====
section
/-! SUPPORT. Boundary instructions, and the waits of instructions that the whole set issues: what arriving does, and what the completion of
the wait does. -/

namespace Sys2Proof.Machine

open Sys2Proof

theorem waitEnds_iff {i : Instr} {s : State} {c : Sel} {f : Group → Group} :
    WaitEnds i s c f ↔ ∃ t u, exec i s = .next t ∧ OnlyGroup s t c.blk c.grp ∧ t.group? c.blk c.grp = some (c.waiting i)
    ∧ exec .memberWaitComplete { t with subject := .wait c.blk c.grp c.issue.pc } = .next u
    ∧ OnlyGroup { t with subject := .wait c.blk c.grp c.issue.pc } u c.blk c.grp
    ∧ u.group? c.blk c.grp = some ((f (c.waiting i)).resumed c.issue.lanes (Instr.len i)) := by
  unfold WaitEnds
  exact Iff.rfl

theorem boundaryEnds_iff {i : Instr} {s : State} {c : Sel} {f : Group → Group} :
    BoundaryEnds i s c f ↔ ∃ t, exec i s = .next t ∧ OnlyGroup s t c.blk c.grp
    ∧ t.group? c.blk c.grp = some ((if c.guarded i = [] then c.g else f c.g).passedBy c i) := by
  unfold BoundaryEnds
  exact Iff.rfl

/-- What the set holds of the state. -/
theorem sel_parts {s : State} {c : Sel} (h : s.sel = some c) :
    s.issue = some c.issue ∧ s.block? c.blk = some c.b ∧ c.b.groups[c.grp]? = some c.g ∧ s.group? c.blk c.grp = some c.g
      ∧ s.launch? c.b.launch = some c.l := by
  unfold State.sel at h
  simp only [Option.bind_eq_some_iff, Option.map_eq_some_iff] at h
  obtain ⟨i, hi, b, hb, g, hg, l, hl, rfl⟩ := h
  exact ⟨hi, hb, hg, by simp [State.group?, Sel.blk, Sel.grp, hb, hg], hl⟩

theorem OnlyGroup.trans {s t u : State} {blk grp : Nat} (h : OnlyGroup s t blk grp) (k : OnlyGroup t u blk grp) :
    OnlyGroup s u blk grp := by
  refine ⟨?_, fun b ne => ?_, k.2.2.1.trans h.2.2.1, fun x ne => ?_⟩
  · have a := h.1
    have b := k.1
    rw [OnlyBlocks] at a b ⊢
    rw [b, a]
  · rw [k.2.1 b ne, h.2.1 b ne]
  · rw [k.2.2.2 x ne, h.2.2.2 x ne]

theorem group?_updGroup_self {s : State} {blk grp : Nat} {g : Group} (f : Group → Group) (h : s.group? blk grp = some g) :
    (s.updGroup blk grp f).group? blk grp = some (f g) := by
  rw [group?_updGroup]
  simp [h]

theorem updGroup_group (s : State) (blk grp : Nat) (f g : Group → Group) {x : Group} (h : s.group? blk grp = some x) :
    ((s.updGroup blk grp f).updGroup blk grp g).group? blk grp = some (g (f x)) :=
  group?_updGroup_self g (group?_updGroup_self f h)

theorem block?_updGroup_self {s : State} {blk grp : Nat} {b : Block} (f : Group → Group) (h : s.block? blk = some b) :
    (s.updGroup blk grp f).block? blk = some { b with groups := b.groups.modify grp f } := by
  rw [block?_updGroup, h]
  simp [block?_id h]

theorem laneSubset_refl (a : LaneSet) : laneSubset a a = true := by
  simp only [laneSubset, beq_iff_eq]
  ext i hi
  simp

/-! ## Boundary instructions -/

theorem mapIdx_same {α : Type} (l : List α) (f : Nat → α → α) (h : ∀ i a, l[i]? = some a → f i a = a) : l.mapIdx f = l := by
  apply List.ext_getElem?
  intro i
  rw [List.getElem?_mapIdx]
  cases ha : l[i]? with
  | none => rfl
  | some a => simp [h i a ha]

theorem mapIdx_eq {α β : Type} (l : List α) (f g : Nat → α → β) (h : ∀ i a, l[i]? = some a → f i a = g i a) :
    l.mapIdx f = l.mapIdx g := by
  apply List.ext_getElem?
  intro i
  rw [List.getElem?_mapIdx, List.getElem?_mapIdx]
  cases ha : l[i]? with
  | none => rfl
  | some a => simp [h i a ha]

theorem Sel.thread_of {c : Sel} {l : Nat} {t : Thread} (h : c.g.threads[l]? = some t) : c.thread l = t := by
  simp [Sel.thread, Group.thread, List.getD_eq_getElem?_getD, h]

theorem mem_guarded {c : Sel} {i : Instr} {l : Nat} :
    l ∈ c.guarded i ↔ c.issue.lanes.getLsbD l = true ∧ guardOk (instrMods i) (c.thread l) = true := by
  simp [Sel.guarded, Sel.lanes, mem_lanesOf]

/-- A boundary instruction performs its act in the region that it opens, where no lane waits for a load or fails its check. -/
theorem runChecked_next {i : Instr} {s : State} {c : Sel} {check : Sel → Nat → Option Fail} (f : Sel → State → State) (h : Issues s c i)
    (hl : NoLoads c i) (hk : ∀ l ∈ c.guarded i, check c l = none) :
    runChecked i s check f = .next { f c (c.enterRegion s (c.guarded i)) with toPlat := s.toPlat } := by
  have hbad : (c.guarded i).filterMap (fun l => (check c l).map fun e => (l, e)) = [] := by
    simpa [List.filterMap_eq_nil_iff] using hk
  have hany : ((c.guarded i).any fun l => c.g.loading l) = false := by
    simpa [List.any_eq_false] using hl
  unfold runChecked
  rw [runSet_next _ h]
  have hf : (c.guarded i).filter (fun l => !List.any ([] : List (Nat × Fail)) fun x => x.1 == l) = c.guarded i := by simp
  simp only [hbad, hf, hany, Bool.false_eq_true, if_false]

/-- A mask operation, whose effect leaves the threads as they are and does not see their region entries. -/
theorem maskOp_ends {i : Instr} {s : State} {c : Sel} {f : LaneSet → Group → Group} (h : Issues s c i) (hl : NoLoads c i)
    (hx : exec i s = maskOp i s f)
    (hf : ∀ m g (r : Nat → Bool), f m { g with threads := g.threads.mapIdx fun l t => if r l then t.setRegion c.issue.pc else t }
      = { f m g with threads := g.threads.mapIdx fun l t => if r l then t.setRegion c.issue.pc else t })
    (ht : ∀ m g, (f m g).threads = g.threads) :
    BoundaryEnds i s c (f (laneSet (c.guarded i))) := by
  have hg := (sel_parts h.1).2.2.2.1
  rw [boundaryEnds_iff, hx]
  unfold maskOp runBoundary
  rw [runChecked_next _ h hl fun _ _ => rfl]
  unfold Sel.enterRegion
  cases hc : c.guarded i with
  | nil =>
    refine ⟨_, rfl, (onlyGroup_updGroup s c.blk c.grp _).trans (onlyGroup_updGroup _ c.blk c.grp _), ?_⟩
    refine (group?_updGroup_self _ (group?_updGroup_self _ hg)).trans ?_
    simp only [if_true, Group.passedBy, Option.some.injEq]
    congr 1
    rw [mapIdx_same c.g.threads _ (by simp)]
    exact mapIdx_eq _ _ _ fun l t ht => by rw [Sel.thread_of ht]
  | cons a r =>
    refine ⟨_, rfl, ((onlyGroup_updGroup s c.blk c.grp _).trans (onlyGroup_updGroup _ c.blk c.grp _)).trans
      (onlyGroup_updGroup _ c.blk c.grp _), ?_⟩
    refine (group?_updGroup_self _ (group?_updGroup_self _ (group?_updGroup_self _ hg))).trans ?_
    rw [hf]
    simp only [reduceCtorEq, if_false, Group.passedBy, Option.some.injEq, List.mapIdx_mapIdx, ht]
    congr 1
    refine mapIdx_eq _ _ _ fun l t hlt => ?_
    simp only [Function.comp]
    rw [Sel.thread_of hlt]
    by_cases h1 : c.issue.lanes.getLsbD l = true
    · by_cases h2 : guardOk (instrMods i) t = true
      · simp only [h1, h2, if_true]
        split <;> rfl
      · have : (a :: r).contains l = false := by
          rw [← hc]
          have := not_congr (mem_guarded (c := c) (i := i) (l := l))
          simp only [List.contains_eq_mem, decide_eq_false_iff_not]
          rw [this, Sel.thread_of hlt]
          simp [h2]
        simp only [h1, h2, this, Bool.false_eq_true, if_false, if_true]
    · have : (a :: r).contains l = false := by
        rw [← hc]
        have := not_congr (mem_guarded (c := c) (i := i) (l := l))
        simp only [List.contains_eq_mem, decide_eq_false_iff_not]
        rw [this]
        simp [h1]
      simp only [h1, this, Bool.false_eq_true, if_false]

/-! ## The waits of the whole set (R87, R90) -/

/-- The wait that the whole set opens. -/
def Sel.ownWait (c : Sel) (i : Instr) : MemberWait := ⟨c.issue.pc, i, c.issue.lanes, c.issue.lanes, laneSet (c.guarded i)⟩

/-- The state in which the whole set waits. -/
def State.setWaits (s : State) (c : Sel) (i : Instr) : State := c.join (c.enterRegion s c.lanes) i (.inr c.issue.lanes)

theorem arriveTested_opens {u s : State} {c : Sel} {i : Instr} {mask : Option LaneSet} (w : MemberSet u c)
    (hm : mask.getD c.g.liveLanes = c.issue.lanes) : c.arriveTested s i mask = c.join s i (.inr c.issue.lanes) := by
  have htr : (c.lanes.any fun l => (c.thread l).trapped) = false := by
    simpa [List.any_eq_false] using w.untrapped
  have hopen : ∀ named, c.g.openWait c.issue.pc named = none := by
    simp [Group.openWait, w.waits]
  have hl := w.live
  unfold Sel.arriveTested
  simp only [htr, hopen, Bool.and_false, Bool.false_eq_true, if_false]
  cases mask with
  | none => simp [show c.g.liveLanes = c.issue.lanes from hm, laneSubset_refl]
  | some m => simp [show m = c.issue.lanes from hm, hl, laneSubset_refl]

theorem crossLane_arrives {i : Instr} {s : State} {c : Sel} {c8 : BitVec 8} (h : Issues s c i) (w : MemberSet s c)
    (hx : exec i s = crossLane i s c8) (hm : (if c8.getLsbD 4 then c.g.kr (c8.toNat % 16) else c.g.liveLanes) = c.issue.lanes) :
    exec i s = .next (s.setWaits c i) := by
  have hld : (c.lanes.any fun l => c.g.loading l) = false := by
    simpa [List.any_eq_false] using w.loads
  rw [hx]
  unfold crossLane
  rw [runSet_next _ h]
  simp only [hld, Bool.false_eq_true, if_false]
  rw [arriveTested_opens w (by rw [← hm]; split <;> rfl)]
  rfl

theorem wholeGroup_arrives {i : Instr} {s : State} {c : Sel} (h : Issues s c i) (w : WholeSet s c)
    (hx : exec i s = wholeGroup i s) : exec i s = .next (s.setWaits c i) := by
  have htr : (c.lanes.any fun l => (c.thread l).trapped) = false := by
    simpa [List.any_eq_false] using w.untrapped
  have hld : (c.lanes.any fun l => c.g.loading l) = false := by
    simpa [List.any_eq_false] using w.loads
  rw [hx]
  unfold wholeGroup
  rw [runSet_next _ h]
  simp only [htr, hld, Bool.false_eq_true, if_false]
  rw [arriveTested_opens (mask := none) w.toMemberSet w.lanes.symm]
  rfl

theorem setWaits_only (s : State) (c : Sel) (i : Instr) : OnlyGroup s (s.setWaits c i) c.blk c.grp :=
  (onlyGroup_updGroup s c.blk c.grp _).trans (onlyGroup_updGroup _ c.blk c.grp _)

theorem setWaits_group {s : State} {c : Sel} {i : Instr} (h : Issues s c i) (w : MemberSet s c) :
    (s.setWaits c i).group? c.blk c.grp = some (c.waiting i) := by
  have hg := (sel_parts h.1).2.2.2.1
  refine (group?_updGroup_self _ (group?_updGroup_self _ hg)).trans ?_
  simp only [Sel.waiting, w.waits, List.nil_append, Option.some.injEq, List.mapIdx_mapIdx]
  congr 1
  refine mapIdx_eq _ _ _ fun l t _ => ?_
  simp only [Function.comp, List.contains_eq_mem, Sel.lanes, mem_lanesOf]
  by_cases hl : c.issue.lanes.getLsbD l = true <;> simp [hl, Thread.setState, Thread.setRegion]

theorem setWaits_block {s : State} {c : Sel} {i : Instr} (h : Issues s c i) :
    ∃ gs, (s.setWaits c i).block? c.blk = some { c.b with groups := gs } := by
  have hb := (sel_parts h.1).2.1
  have h2 : (c.enterRegion s c.lanes).block? c.blk = some _ := block?_updGroup_self _ hb
  have h3 : (s.setWaits c i).block? c.blk = some _ := block?_updGroup_self _ h2
  exact ⟨_, h3⟩

/-- A wait that closes without a fault only changes its group. -/
theorem closeWait_nil (s : State) (blk grp : Nat) (w : MemberWait) (f : Group → Group) :
    s.closeWait blk grp w f [] = s.updGroup blk grp fun g => ((f g).releaseWait w w.arrived).refuseWait 0 := by
  have e : w.arrived &&& ~~~(0 : LaneSet) = w.arrived := by
    have : ~~~(0 : LaneSet) = BitVec.allOnes 64 := by decide
    rw [this, BitVec.and_allOnes]
  simp only [State.closeWait, List.map_nil, laneSet, List.foldl_nil, e]
  split
  · rw [raise_nil]
  · rfl

/-- And nobody of it stays behind. -/
theorem closeWait_wholly {s : State} {blk grp : Nat} {w : MemberWait} {f : Group → Group} {g : Group} (hg : s.group? blk grp = some g) :
    (s.closeWait blk grp w f []).wholly blk grp w.arrived = some (s.closeWait blk grp w f []) := by
  have no : ((lanesOf w.arrived).any fun l => ((s.closeWait blk grp w f []).thread? blk grp l).any Thread.holds) = false := by
    rw [List.any_eq_false]
    intro l hl
    rw [closeWait_nil, State.thread?, group?_updGroup_self _ hg]
    simp only [Option.bind_some, Group.refuseWait, Group.releaseWait, List.mapIdx_mapIdx, List.getElem?_mapIdx]
    cases (f g).threads[l]? with
    | none => simp
    | some x =>
      simp [Function.comp, mem_lanesOf.mp hl, Thread.holds, Thread.setState, Thread.pass]
  rw [State.wholly, no]
  rfl

/-- Where the completion's own effect is a change of the group, the wait ends with it. -/
theorem wait_ends {i : Instr} {s : State} {c : Sel} {f : Group → Group} (h : Issues s c i) (w : MemberSet s c)
    (hx : exec i s = .next (s.setWaits c i))
    (hf : ∀ (t : State) (b : Block), b.id = c.blk → b.launch = c.b.launch →
      t.completeWait b c.l (c.waiting i) (c.ownWait i) = some (t.closeWait b.id c.grp (c.ownWait i) f []))
    (hw : (f (c.waiting i)).waits = [c.ownWait i]) :
    WaitEnds i s c f := by
  obtain ⟨gs, hb⟩ := setWaits_block h
  have hg := setWaits_group h w
  have hid := block?_id (sel_parts h.1).2.1
  have hsel := sel_parts h.1
  have hsub : ∀ x : Subject, ({ s.setWaits c i with subject := x }).block? c.blk = some { c.b with groups := gs } := fun _ => hb
  have hsubg : ∀ x : Subject, ({ s.setWaits c i with subject := x }).group? c.blk c.grp = some (c.waiting i) := fun _ => hg
  have hla : ({ s.setWaits c i with subject := .wait c.blk c.grp c.issue.pc }).launch? c.b.launch = some c.l := by
    have : (s.setWaits c i).launches = s.launches := rfl
    have hl := hsel.2.2.2.2
    unfold State.launch? at *
    simp only [this]
    exact hl
  have hcomp : (c.ownWait i).complete = true := by
    have := w.some
    simp only [MemberWait.complete, Sel.ownWait, laneSubset_refl, Bool.true_and, bne_iff_ne, ne_eq]
    exact this
  have hfind : (c.waiting i).waits.find? (fun x => x.pc == c.issue.pc && x.complete) = some (c.ownWait i) := by
    have : (c.waiting i).waits = [c.ownWait i] := rfl
    have hpc : (c.ownWait i).pc = c.issue.pc := rfl
    rw [this]
    simp only [List.find?, hcomp, hpc, beq_self_eq_true, Bool.and_self]
  refine waitEnds_iff.mpr ⟨_, ({ s.setWaits c i with subject := .wait c.blk c.grp c.issue.pc }).closeWait c.blk c.grp (c.ownWait i) f [],
    hx, setWaits_only s c i, hg, ?_, ?_, ?_⟩
  · have key : ∀ (u : State) (b : Block), u.subject = .wait c.blk c.grp c.issue.pc → u.block? c.blk = some b → b.st = .resident →
        b.id = c.blk → b.launch = c.b.launch → u.group? c.blk c.grp = some (c.waiting i) → u.launch? c.b.launch = some c.l →
        exec .memberWaitComplete u = .next (u.closeWait c.blk c.grp (c.ownWait i) f []) := by
      intro u b hu hub hst hbi hbl hug hul
      rw [exec_memberWaitComplete]
      unfold execMemberWaitComplete
      have hh : (c.waiting i).halted = false := w.going
      simp only [hu, hub, hug, hst, hbl, hh, bne_self_eq_false, Bool.or_self, Bool.false_eq_true, if_false, hfind, hul]
      rw [hf u b hbi hbl, Option.bind_some, hbi, show (c.ownWait i).arrived = (c.ownWait i).arrived from rfl, closeWait_wholly hug, runEvent_next]
      simp only [closeWait_nil]
      rfl
    exact key _ _ rfl (hsub _) w.resident hid rfl (hsubg _) hla
  · rw [closeWait_nil]
    exact onlyGroup_updGroup _ c.blk c.grp _
  · rw [closeWait_nil]
    refine (group?_updGroup_self _ (hsubg _)).trans ?_
    simp only [Option.some.injEq, Group.refuseWait, Group.releaseWait, Group.resumed, hw, List.mapIdx_mapIdx]
    congr 1
    · refine mapIdx_eq _ _ _ fun l t _ => ?_
      have hz : BitVec.getLsbD (0 : LaneSet) l = false := BitVec.getLsbD_zero
      simp only [Function.comp, Sel.ownWait, hz, Bool.false_eq_true, if_false]
      rfl
    · simp

end Sys2Proof.Machine
end

