-- ==== Sys2Proof/Laws/Log.lean ====
section
/-! SUPPORT. The Meridian's log and the entry of a fault: what logging an event changes, what it leaves, and what delivering a record does to its thread. -/

namespace Sys2Proof.Machine

open Sys2Proof

/-! ## Logging (R432-R435) -/

/-- An access at a controller that no partition pays for changes the controller's counts alone. -/
theorem accessHbm_none (s : State) (a n : Nat) :
    s.accessHbm none a n = { s with sketches := (s.accessHbm none a n).sketches, soft := (s.accessHbm none a n).soft,
                                    eccCounts := (s.accessHbm none a n).eccCounts } := rfl
/-- What storing an event leaves: the log, and the counts of the ring's controller. -/
theorem storeEvent_eq (s : State) (e : Event) :
    s.storeEvent e = { s with logRing := (s.storeEvent e).logRing, seq := s.seq + 1, hbm := (s.storeEvent e).hbm, msix := (s.storeEvent e).msix,
                              bootRing := (s.storeEvent e).bootRing, leftOut := (s.storeEvent e).leftOut, sketches := (s.storeEvent e).sketches,
                              soft := (s.storeEvent e).soft, eccCounts := (s.storeEvent e).eccCounts } := by
  unfold State.storeEvent
  split
  · dsimp only
    rw [accessHbm_none]
  · split <;> rfl
/-- Where no ring is placed, the event goes to the boot ring or is left out. -/
theorem storeEvent_none {s : State} (e : Event) (h : s.logRing = none) :
    s.storeEvent e = { s with seq := s.seq + 1, bootRing := (s.storeEvent e).bootRing, leftOut := (s.storeEvent e).leftOut } := by
  unfold State.storeEvent
  rw [h]
  dsimp only
  split <;> rfl
theorem Event.bytes_length (e : Event) : e.bytes.length = 32 := bytesLE_length 32 _
/-- A placed ring takes the event as its next record. -/
theorem storeEvent_some {s : State} {r : LogRing} (e : Event) (h : s.logRing = some r) :
    (s.storeEvent e).hbm = s.hbm.writeBytes (r.slot 0) e.bytes ∧ (s.storeEvent e).bootRing = s.bootRing ∧ (s.storeEvent e).leftOut = s.leftOut
      ∧ ∃ hints, (s.storeEvent e).logRing = some { r with writeIdx := r.writeIdx + 1, hints := hints } := by
  unfold State.storeEvent
  rw [h]
  dsimp only
  rw [accessHbm_none]
  exact ⟨rfl, rfl, rfl, _, rfl⟩
theorem storeEvent_seq (s : State) (e : Event) : (s.storeEvent e).seq = s.seq + 1 := by
  rw [storeEvent_eq]
theorem storeEvent_held (s : State) (e : Event) : (s.storeEvent e).heldEvents = s.heldEvents := by
  rw [storeEvent_eq]
theorem storeEvent_blocks (s : State) (e : Event) : (s.storeEvent e).blocks = s.blocks := by
  rw [storeEvent_eq]

/-- The next event's number is one more. -/
theorem log_nextSeq (s : State) (ty : BitVec 8) (p q : Nat) (x : Word) (y : Dword) : (s.log ty p q x y).nextSeq = s.nextSeq + 1 := by
  unfold State.log
  dsimp only
  split
  · simp [State.nextSeq, Nat.add_assoc]
  · simp [State.nextSeq, storeEvent_seq, storeEvent_held, Nat.add_right_comm]

/-- Memory that stays as it is, with the ring. -/
theorem LogMem.same {s t : State} (hm : t.hbm = s.hbm) (hr : t.logRing = s.logRing) : LogMem s t := by
  unfold LogMem
  rw [hm, hr]
  cases s.logRing with
  | none => exact ⟨rfl, rfl⟩
  | some r => exact ⟨0, r.hints, rfl, fun w => ⟨w, fun _ _ => rfl⟩⟩
/-- The records of two stretches of the log are those of both together. -/
theorem LogMem.then {s t u : State} (h : LogMem s t) (k : LogMem t u) : LogMem s u := by
  unfold LogMem at h ⊢
  cases hs : s.logRing with
  | none =>
    rw [hs] at h
    rw [LogMem, h.1] at k
    exact ⟨k.1, k.2.trans h.2⟩
  | some r =>
    rw [hs] at h
    obtain ⟨n, x, hr, hm⟩ := h
    rw [LogMem, hr] at k
    obtain ⟨m, y, hk, km⟩ := k
    refine ⟨n + m, y, by rw [hk, Nat.add_assoc], fun w => ?_⟩
    obtain ⟨w', hold⟩ := hm w
    refine ⟨(km w').1, fun a ha => ?_⟩
    rw [(km w').2 a fun i hi => ?_, hold a fun i hi => ha i (by omega)]
    have := ha (n + i) (by omega)
    rwa [LogRing.slot, ← Nat.add_assoc] at this

theorem OnlyLog.refl (s : State) : OnlyLog s s := by
  refine ⟨.same rfl rfl, ?_⟩
  split <;> rfl
theorem OnlyLog.trans {s t u : State} (h : OnlyLog s t) (k : OnlyLog t u) : OnlyLog s u := by
  refine ⟨h.1.then k.1, ?_⟩
  have hm := h.1
  rw [LogMem] at hm
  cases hs : s.logRing with
  | none =>
    rw [hs] at hm
    have h2 := h.2
    have k2 := k.2
    rw [hs] at h2
    rw [hm.1] at k2
    dsimp only at h2 k2 ⊢
    rw [k2, h2]
  | some r =>
    rw [hs] at hm
    obtain ⟨n, x, hr, -⟩ := hm
    have h2 := h.2
    have k2 := k.2
    rw [hs] at h2
    rw [hr] at k2
    dsimp only at h2 k2 ⊢
    rw [k2, h2]
theorem OnlyBlocks.onlyLog {s t : State} (h : OnlyBlocks s t) : OnlyLog s t := by
  rw [OnlyBlocks] at h
  refine ⟨.same (by rw [h]) (by rw [h]), ?_⟩
  split <;> rw [h]

/-- Storing an event changes nothing but the log. -/
theorem storeEvent_onlyLog (s : State) (e : Event) : OnlyLog s (s.storeEvent e) := by
  cases hs : s.logRing with
  | none =>
    have eq := storeEvent_none e hs
    refine ⟨.same (by rw [eq]) (by rw [eq]), ?_⟩
    rw [hs]
    dsimp only
    rw [storeEvent_held, storeEvent_seq, storeEvent_blocks]
    rw [hs] at eq
    exact eq
  | some r =>
    obtain ⟨hm, hb, hl, hints, hr⟩ := storeEvent_some e hs
    constructor
    · rw [LogMem, hs]
      refine ⟨1, hints, hr, fun w => ⟨hm ▸ writeBytes_wf w _ _, fun a ha => ?_⟩⟩
      have out := ha 0 Nat.one_pos
      rw [hm, read_writeBytes w, Event.bytes_length, if_neg (by omega)]
    · rw [hs]
      dsimp only
      have eq := storeEvent_eq s e
      rw [hb, hl] at eq
      rw [storeEvent_held, storeEvent_seq, storeEvent_blocks]
      exact eq
/-- Logging an event changes nothing but the log. -/
theorem log_onlyLog (s : State) (ty : BitVec 8) (p q : Nat) (x : Word) (y : Dword) : OnlyLog s (s.log ty p q x y) := by
  unfold State.log
  dsimp only
  split
  · refine ⟨.same rfl rfl, ?_⟩
    split <;> rfl
  · exact storeEvent_onlyLog s _

theorem storeEvent_toPlat (s : State) (e : Event) : (s.storeEvent e).toPlat = s.toPlat := by
  rw [storeEvent_eq]
@[simp] theorem log_blocks (s : State) (ty : BitVec 8) (p q : Nat) (x : Word) (y : Dword) : (s.log ty p q x y).blocks = s.blocks := by
  unfold State.log
  dsimp only
  split
  · rfl
  · exact storeEvent_blocks s _
@[simp] theorem log_toPlat (s : State) (ty : BitVec 8) (p q : Nat) (x : Word) (y : Dword) : (s.log ty p q x y).toPlat = s.toPlat := by
  unfold State.log
  dsimp only
  split
  · rfl
  · exact storeEvent_toPlat s _
@[simp] theorem log_blockQ (s : State) (ty : BitVec 8) (p q : Nat) (x : Word) (y : Dword) (b : Nat) : (s.log ty p q x y).block? b = s.block? b := by
  unfold State.block?
  rw [log_blocks]
@[simp] theorem log_groupQ (s : State) (ty : BitVec 8) (p q : Nat) (x : Word) (y : Dword) (b g : Nat) : (s.log ty p q x y).group? b g = s.group? b g := by
  unfold State.group?
  rw [log_blockQ]
@[simp] theorem log_threadQ (s : State) (ty : BitVec 8) (p q : Nat) (x : Word) (y : Dword) (b g l : Nat) :
    (s.log ty p q x y).thread? b g l = s.thread? b g l := by
  unfold State.thread?
  rw [log_groupQ]
/-- Where no ring is placed, no memory changes (R435). -/
theorem log_mem (s : State) (ty : BitVec 8) (p q : Nat) (x : Word) (y : Dword) (h : s.logRing = none) :
    SameMem s (s.log ty p q x y) ∧ (s.log ty p q x y).logRing = none := by
  have o := (log_onlyLog s ty p q x y).2
  rw [h] at o
  dsimp only at o
  rw [o]
  exact ⟨⟨rfl, rfl, rfl, rfl⟩, rfl⟩

/-! ## Delivery (R443, R446, R449) -/

/-- A thread outside a handler enters the one of its launch. -/
theorem deliver_enters {s : State} {blk grp lane : Nat} {resume : Dword} {r : FaultRec} {b : Block} {l : Launch} {t : Thread} (hb : s.block? blk = some b)
    (hl : s.launch? b.launch = some l) (ht : s.thread? blk grp lane = some t) (hh : l.lr.handler ≠ 0) (hn : t.trap = none) :
    s.deliver blk grp lane resume r =
      s.updGroup blk grp fun g => { g.updThread lane (fun t => t.enterTrap l.lr.handler resume r) with latch := none } := by
  have e : (l.lr.handler == 0) = false := beq_eq_false_iff_ne.mpr hh
  simp only [State.deliver, hb, hl, ht, Thread.trapped, hn, e, Option.isSome_none, Bool.or_self, Bool.false_eq_true, if_false]
/-- Without a handler, or in one, its block is killed. -/
theorem deliver_kills {s : State} {blk grp lane : Nat} {resume : Dword} {r : FaultRec} {b : Block} {l : Launch} {t : Thread} (hb : s.block? blk = some b)
    (hl : s.launch? b.launch = some l) (ht : s.thread? blk grp lane = some t) (hh : l.lr.handler = 0 ∨ t.trap.isSome = true) :
    s.deliver blk grp lane resume r = s.killBlock blk := by
  rcases hh with h | h <;> simp [State.deliver, hb, hl, ht, Thread.trapped, h]
/-- A return undoes an entry: PC and region come back from the trap state (R446, R454). -/
theorem leaveTrap_enterTrap (t : Thread) (handler resume : Dword) (r : FaultRec) :
    (t.enterTrap handler resume r).leaveTrap =
      some { t with trap := none, last := some r, st := .runnable, pc := resume, region := t.region, armRecord := none } := rfl

/-! ## Commands (R436, R464) -/

/-- A command that the mailbox does not take changes nothing. -/
theorem command_discarded {s : State} {code : Nat} {run : Command} (h : s.takes code = false) : s.command code run = s := by
  simp [State.command, h]
/-- One that fails changes nothing but the log and the mailbox. -/
theorem command_fails {s : State} {code e : Nat} {run : Command} (h : s.takes code = true) (hr : run s = .error e) :
    s.command code run = (s.logCmd code e).reply code e [] := by
  simp [State.command, h, hr]
/-- One that succeeds logs its event, then does what it does. -/
theorem command_ok {s t : State} {code : Nat} {run : Command} {u : State × List Nat} {res : List Nat} (h : s.takes code = true) (hr : run s = .ok u)
    (ht : run (s.logCmd code 0) = .ok (t, res)) : s.command code run = t.reply code 0 res := by
  simp [State.command, h, hr, ht]

end Sys2Proof.Machine
end

