-- ==== Sys2Proof/Laws/Traps.lean ====
section
/-! SUPPORT. The faults of one instruction: what raising them in some lanes of the set does. -/

namespace Sys2Proof.Machine

open Sys2Proof

/-! ## Logging their records (R434, R441) -/

theorem LogRoom.notFull {s : State} {n : Nat} (h : LogRoom s (n + 1)) : s.logFull = false := by
  unfold State.logFull
  cases hr : s.logRing with
  | none => rfl
  | some r =>
    have := h r hr
    simp only [decide_eq_false_iff_not]
    omega
theorem LogRoom.log {s : State} {n : Nat} (h : LogRoom s (n + 1)) (ty : BitVec 8) (p q : Nat) (x : Word) (y : Dword) :
    LogRoom (s.log ty p q x y) n := by
  intro r hr
  unfold State.log at hr
  dsimp only at hr
  split at hr
  · have := h r hr
    omega
  · cases hs : s.logRing with
    | none =>
      rw [storeEvent_none _ hs] at hr
      simp [hs] at hr
    | some k =>
      obtain ⟨-, -, -, hints, hk⟩ := storeEvent_some (s := s) _ hs
      rw [hk] at hr
      have := h k hs
      cases hr
      simp only [LogRing.used] at *
      omega

/-- The region of a lane, for its record. -/
def State.regionAt (s : State) (blk grp lane : Nat) : Dword := match s.thread? blk grp lane with | some t => t.region | none => 0

/-- Where the log has room, every fault is logged, in order. -/
theorem logFails_room {b : Block} {l : Launch} {grp : Nat} {pc : Dword} : ∀ (fs : List LaneFail) (s : State), (∀ f ∈ fs, f.late = false) →
    LogRoom s fs.length → ∃ t, s.logFails b l grp pc fs =
        (t, fs.mapIdx fun k f => (f, { s.record b l grp f.lane pc (s.regionAt b.id grp f.lane) f.fail with seql := nat32 (s.nextSeq + k) }))
      ∧ OnlyLog s t ∧ t.blocks = s.blocks ∧ t.nextSeq = s.nextSeq + fs.length ∧ t.toPlat = s.toPlat
  | [], s, _, _ => ⟨s, rfl, .refl s, rfl, rfl, rfl⟩
  | f :: r, s, hp, hr => by
    have hf : f.late = false := hp f List.mem_cons_self
    have go : ∀ (s1 : State), s1 = s.logRecord evFAULT l (s.record b l grp f.lane pc (s.regionAt b.id grp f.lane) f.fail) →
        s1.blocks = s.blocks → LogRoom s1 r.length → OnlyLog s s1 → s1.nextSeq = s.nextSeq + 1 → s1.toPlat = s.toPlat →
        ∃ t, s.logFails b l grp pc (f :: r) = (t, (f :: r).mapIdx fun k f =>
            (f, { s.record b l grp f.lane pc (s.regionAt b.id grp f.lane) f.fail with seql := nat32 (s.nextSeq + k) }))
          ∧ OnlyLog s t ∧ t.blocks = s.blocks ∧ t.nextSeq = s.nextSeq + (f :: r).length ∧ t.toPlat = s.toPlat := by
      intro s1 e1 hb hroom ho hn hpl
      obtain ⟨t, ht, h1, h2, h3, h4⟩ := logFails_room r s1 (fun x hx => hp x (List.mem_cons_of_mem _ hx)) hroom
      refine ⟨t, ?_, ho.trans h1, h2.trans hb, by rw [h3, hn, List.length_cons]; omega, h4.trans hpl⟩
      have hreg : ∀ lane, s1.regionAt b.id grp lane = s.regionAt b.id grp lane := by
        intro lane
        simp only [State.regionAt, State.thread?, State.group?, State.block?, hb]
      have hstep : s.logFails b l grp pc (f :: r) = ((s1.logFails b l grp pc r).1,
          (f, s.record b l grp f.lane pc (s.regionAt b.id grp f.lane) f.fail) :: (s1.logFails b l grp pc r).2) := by
        rw [e1]
        simp only [State.logFails, hr.notFull, hf, Bool.false_and, Bool.false_eq_true, if_false]
        rfl
      rw [hstep, ht, List.mapIdx_cons]
      refine congrArg (Prod.mk t) (congrArg (List.cons _) (mapIdx_eq _ _ _ fun k x _ => ?_))
      simp only [State.record, hreg, hn, Nat.add_assoc, Nat.add_comm 1 k]
    exact go _ rfl (log_blocks ..) (LogRoom.log hr _ _ _ _ _) (log_onlyLog ..) (log_nextSeq ..) (log_toPlat ..)

/-! ## Delivering them (R443, R446) -/

/-- What the fold over logged records finds for a lane. -/
def recordFor (xs : List (LaneFail × FaultRec)) (lane : Nat) : Option (LaneFail × FaultRec) := xs.find? fun x => x.1.lane == lane

theorem enter_thread (s : State) (blk grp lane n : Nat) (f : Thread → Thread) :
    (s.updGroup blk grp fun g => { g.updThread lane f with latch := none }).thread? blk grp n
      = (s.thread? blk grp n).map fun t => if n = lane then f t else t := by
  unfold State.thread?
  rw [group?_updGroup]
  simp only [and_self, if_true]
  cases s.group? blk grp with
  | none => rfl
  | some g =>
    simp only [Option.map_some, Option.bind_some, Group.updThread, List.getElem?_modify]
    cases g.threads[n]? with
    | none => simp
    | some t =>
      by_cases h : n = lane
      · simp [h]
      · simp [h, Ne.symm h]

/-- Records of distinct lanes outside a handler are delivered each to its thread, which enters the handler; the operand latch is empty after
it, and nothing else changes. -/
theorem deliver_all {blk grp : Nat} {l : Launch} (hh : l.lr.handler ≠ 0) : ∀ (xs : List (LaneFail × FaultRec)) (s : State) (b : Block),
    s.block? blk = some b → s.launch? b.launch = some l → (∀ x ∈ xs, x.1.late = false) → (xs.map fun x => x.1.lane).Nodup →
    (∀ x ∈ xs, ∃ t, s.thread? blk grp x.1.lane = some t ∧ t.trap = none) →
    ∃ t, xs.foldl (fun s x => if x.1.late then s.keepRecord blk grp x.1.lane x.2 else s.deliver blk grp x.1.lane x.1.resume x.2) s = t
      ∧ OnlyGroup s t blk grp
      ∧ (t.group? blk grp).map (fun g => { g with threads := [], latch := none })
          = (s.group? blk grp).map (fun g => { g with threads := [], latch := none })
      ∧ ∀ lane th, s.thread? blk grp lane = some th → t.thread? blk grp lane =
          some (match recordFor xs lane with | some x => th.enterTrap l.lr.handler x.1.resume x.2 | none => th)
  | [], s, _, _, _, _, _, _ => ⟨s, rfl, ⟨rfl, fun _ _ => rfl, rfl, fun _ _ => rfl⟩, rfl, fun _ _ h => h⟩
  | x :: r, s, b, hb, hl, hp, hd, ht => by
    obtain ⟨th0, h0, hn⟩ := ht x List.mem_cons_self
    have hx : x.1.late = false := hp x List.mem_cons_self
    simp only [List.map_cons, List.nodup_cons, List.mem_map, not_exists, not_and] at hd
    let f (t : Thread) : Thread := t.enterTrap l.lr.handler x.1.resume x.2
    let s1 := s.updGroup blk grp fun g => { g.updThread x.1.lane f with latch := none }
    have e1 : s.deliver blk grp x.1.lane x.1.resume x.2 = s1 := deliver_enters hb hl h0 hh hn
    have th1 (n : Nat) : s1.thread? blk grp n = (s.thread? blk grp n).map fun t => if n = x.1.lane then f t else t :=
      enter_thread s blk grp x.1.lane n f
    obtain ⟨t, e, o, hg, hth⟩ := deliver_all hh r s1 _ (block?_updGroup_self _ hb) hl (fun y hy => hp y (List.mem_cons_of_mem _ hy)) hd.2
      fun y hy => by
        obtain ⟨t, h1, h2⟩ := ht y (List.mem_cons_of_mem _ hy)
        exact ⟨t, by rw [th1, h1, Option.map_some, if_neg (hd.1 y hy)], h2⟩
    refine ⟨t, ?_, (onlyGroup_updGroup s blk grp _).trans o, ?_, fun lane th h => ?_⟩
    · rw [List.foldl_cons, hx, if_neg Bool.false_ne_true, e1, e]
    · rw [hg, group?_updGroup]
      simp only [and_self, if_true, Option.map_map]
      rfl
    · have h1 : s1.thread? blk grp lane = some (if lane = x.1.lane then f th else th) := by rw [th1, h, Option.map_some]
      rw [hth _ _ h1]
      unfold recordFor
      by_cases hlane : lane = x.1.lane
      · subst hlane
        have : r.find? (fun y => y.1.lane == x.1.lane) = none :=
          List.find?_eq_none.mpr fun y hy hyx => hd.1 y hy (by simpa using hyx)
        simp [List.find?, this, f]
      · rw [List.find?_cons_of_neg (p := fun y : LaneFail × FaultRec => y.1.lane == lane) fun h => hlane (beq_iff_eq.mp h).symm, if_neg hlane]

/-! ## Both -/

theorem recordFor_at {fs : List LaneFail} {g : Nat → LaneFail → FaultRec} (hd : (fs.map LaneFail.lane).Nodup) {k : Nat} {f : LaneFail}
    (hk : fs[k]? = some f) : recordFor (fs.mapIdx fun k f => (f, g k f)) f.lane = some (f, g k f) := by
  unfold recordFor
  have hlen : k < (fs.mapIdx fun k f => (f, g k f)).length := by
    rw [List.length_mapIdx]
    exact (List.getElem?_eq_some_iff.mp hk).1
  have hget : (fs.mapIdx fun k f => (f, g k f))[k] = (f, g k f) := by
    obtain ⟨h, e⟩ := List.getElem?_eq_some_iff.mp hk
    rw [List.getElem_mapIdx, e]
  have hu : ∀ x ∈ fs.mapIdx fun k f => (f, g k f), x.1.lane = f.lane → x = (f, g k f) := by
    intro x hx e
    obtain ⟨j, hj, rfl⟩ := List.mem_iff_getElem.mp hx
    rw [List.length_mapIdx] at hj
    rw [List.getElem_mapIdx] at e
    obtain ⟨h, ek⟩ := List.getElem?_eq_some_iff.mp hk
    have : j = k := by
      refine (List.getElem_inj (xs := fs.map LaneFail.lane) (h₀ := by simpa using hj) (h₁ := by simpa using h) hd).mp ?_
      simpa [ek] using e
    subst this
    rw [List.getElem_mapIdx, ek]
  obtain ⟨x, hx⟩ : ∃ x, (fs.mapIdx fun k f => (f, g k f)).find? (fun x => x.1.lane == f.lane) = some x := by
    rw [← Option.isSome_iff_exists, List.find?_isSome]
    exact ⟨_, List.getElem_mem hlen, by rw [hget]; simp⟩
  rw [hx, hu x (List.mem_of_find?_eq_some hx) (by simpa using List.find?_some hx)]

theorem OnlyLog.launches {s t : State} (h : OnlyLog s t) : t.launches = s.launches := by
  have h2 := h.2
  split at h2 <;> rw [h2]

/-- Precise faults of distinct lanes outside a handler, where there is one and the log has room: each thread enters the handler with its
record, the others stay as they are, and nothing else changes but the log and the group's operand latch. -/
theorem raise_traps {s u : State} {c : Sel} {fs : List LaneFail} (hs : s.sel = some c) (hu : OnlyThreads s u c.blk c.grp)
    (hp : ∀ f ∈ fs, f.late = false) (hd : (fs.map LaneFail.lane).Nodup) (hh : c.l.lr.handler ≠ 0)
    (ht : ∀ f ∈ fs, ∃ t, u.thread? c.blk c.grp f.lane = some t ∧ t.trap = none) (hroom : LogRoom s fs.length) :
    let t := c.raise u fs
    OnlyLog s t ∧ t.nextSeq = s.nextSeq + fs.length ∧ t.toPlat = s.toPlat ∧ (∀ b, b ≠ c.blk → t.block? b = s.block? b)
      ∧ (∀ g, g ≠ c.grp → t.group? c.blk g = s.group? c.blk g)
      ∧ (t.group? c.blk c.grp).map (fun g => { g with threads := [], latch := none })
          = (s.group? c.blk c.grp).map (fun g => { g with threads := [], latch := none })
      ∧ (∀ (k : Nat) f th, fs[k]? = some f → u.thread? c.blk c.grp f.lane = some th → t.thread? c.blk c.grp f.lane =
          some (th.enterTrap c.l.lr.handler f.resume (c.recordOf s k f.lane th.region f.fail)))
      ∧ ∀ lane th, lane ∉ fs.map LaneFail.lane → u.thread? c.blk c.grp lane = some th → t.thread? c.blk c.grp lane = some th := by
  obtain ⟨-, hb, -, -, hl⟩ := sel_parts hs
  have hid : c.b.id = c.blk := block?_id hb
  obtain ⟨bu, hub, hul⟩ : ∃ b, u.block? c.blk = some b ∧ b.launch = c.b.launch := by
    have h := hu.1.2.2.1
    rw [hb] at h
    cases e : u.block? c.blk with
    | none => rw [e] at h; cases h
    | some b =>
      rw [e, Option.map_some, Option.map_some, Option.some.injEq] at h
      have hlaunch := congrArg Block.launch h
      exact ⟨b, rfl, hlaunch⟩
  have eu : u = { s with blocks := u.blocks } := hu.1.1
  have hroomU : LogRoom u fs.length := by rw [eu]; exact hroom
  obtain ⟨v, ev, ho, hvb, hvn, hvp⟩ := logFails_room (b := c.b) (l := c.l) (grp := c.grp) (pc := c.issue.pc) fs u hp hroomU
  have hvl (n : Nat) : v.launch? n = s.launch? n := by
    unfold State.launch?
    rw [ho.launches, eu]
  have hvq (n : Nat) : v.block? n = u.block? n := by unfold State.block?; rw [hvb]
  have hvg (b g : Nat) : v.group? b g = u.group? b g := by unfold State.group?; rw [hvq]
  have hvt (b g n : Nat) : v.thread? b g n = u.thread? b g n := by unfold State.thread?; rw [hvg]
  let rec_ (k : Nat) (f : LaneFail) : FaultRec :=
    { u.record c.b c.l c.grp f.lane c.issue.pc (u.regionAt c.b.id c.grp f.lane) f.fail with seql := nat32 (u.nextSeq + k) }
  have hmap : (fs.mapIdx fun k f => (f, rec_ k f)).map (fun x => x.1.lane) = fs.map LaneFail.lane := by
    apply List.ext_getElem?
    intro i
    simp only [List.getElem?_map, List.getElem?_mapIdx, Option.map_map]
    rfl
  have hmem : ∀ x ∈ fs.mapIdx fun k f => (f, rec_ k f), x.1 ∈ fs := by
    intro x hx
    obtain ⟨j, hj, rfl⟩ := List.mem_iff_getElem.mp hx
    rw [List.getElem_mapIdx]
    exact List.getElem_mem _
  obtain ⟨t, et, og, hg, hth⟩ := deliver_all (blk := c.blk) (grp := c.grp) hh (fs.mapIdx fun k f => (f, rec_ k f)) v bu (by rw [hvq]; exact hub)
    (by rw [hul, hvl]; exact hl) (fun x hx => hp _ (hmem x hx)) (by rw [hmap]; exact hd)
    fun x hx => by
      obtain ⟨t, h1, h2⟩ := ht _ (hmem x hx)
      exact ⟨t, by rw [hvt]; exact h1, h2⟩
  have er : c.raise u fs = t := by
    unfold Sel.raise
    rw [ev]
    exact et
  have ou : OnlyLog s u := hu.1.1.onlyLog
  dsimp only
  rw [er]
  refine ⟨(ou.trans ho).trans og.1.onlyLog, ?_, ?_, fun b hb => ?_, fun g hgr => ?_, ?_, fun k f th hk h => ?_, fun lane th hn h => ?_⟩
  · have : t.nextSeq = v.nextSeq := by rw [og.1]; rfl
    rw [this, hvn, eu]
    rfl
  · have : t.toPlat = v.toPlat := by rw [og.1]
    rw [this, hvp, eu]
  · rw [og.2.1 b hb, hvq, hu.1.2.1 b hb]
  · rw [og.2.2.2 g hgr, hvg, hu.1.2.2.2 g hgr]
  · rw [hg, hvg]
    have := congrArg (Option.map fun g : Group => { g with latch := none }) hu.2
    simp only [Option.map_map] at this
    exact this
  · rw [hth _ _ (by rw [hvt]; exact h), recordFor_at hd hk]
    have hreg : u.regionAt c.b.id c.grp f.lane = th.region := by
      unfold State.regionAt
      rw [hid, h]
    have hn : u.nextSeq = s.nextSeq := by rw [eu]; rfl
    simp only [rec_, hreg, hn]
    rfl
  · rw [hth _ _ (by rw [hvt]; exact h)]
    have : recordFor (fs.mapIdx fun k f => (f, rec_ k f)) lane = none := by
      unfold recordFor
      rw [List.find?_eq_none]
      intro x hx e
      exact hn (List.mem_map.mpr ⟨x.1, hmem x hx, by simpa using e⟩)
    rw [this]

theorem trapsFrom_iff {i : Instr} {s : State} {c : Sel} {ls : List Nat} {f : Nat → Fail} {resume : Dword} {others : Nat → Thread → Thread}
    {region : Thread → Dword} : TrapsFrom i s c ls f resume others region ↔
    ∃ t, exec i s = .next t ∧ OnlyLog s t ∧ t.nextSeq = s.nextSeq + ls.length
    ∧ (∀ b, b ≠ c.blk → t.block? b = s.block? b) ∧ (∀ g, g ≠ c.grp → t.group? c.blk g = s.group? c.blk g)
    ∧ (t.group? c.blk c.grp).map (fun g => { g with threads := [], latch := none })
        = (s.group? c.blk c.grp).map (fun g => { g with threads := [], latch := none })
    ∧ ∀ lane th, s.thread? c.blk c.grp lane = some th → t.thread? c.blk c.grp lane = some (
        if lane ∈ ls then
          let r := c.recordOf s (ls.idxOf lane) lane (region th) (f lane)
          { th with trap := some { resume := resume, region := region th, record := r }, last := some r,
                    pc := c.l.lr.handler, region := c.l.lr.handler, armRecord := none }
        else others lane th) := by
  unfold TrapsFrom
  exact Iff.rfl

/-- A lane that is runnable exists. -/
theorem thread_exists {s : State} {c : Sel} (h : s.sel = some c) {lane : Nat} (hr : (c.thread lane).st = .runnable) :
    s.thread? c.blk c.grp lane = some (c.thread lane) := by
  have hg := (sel_parts h).2.2.2.1
  unfold State.thread?
  rw [hg, Option.bind_some]
  cases e : c.g.threads[lane]? with
  | some t => rw [Sel.thread_of e]
  | none =>
    rw [Sel.thread, Group.thread, List.getD_eq_getElem?_getD, e] at hr
    cases hr

/-- An instruction whose only act on the state is that of `f` on the threads of its group, and that then raises the faults of some lanes, ends
as TrapsFrom says. -/
theorem apply_traps {i : Instr} {s : State} {c : Sel} {ls : List Nat} {f : Nat → Fail} {resume : Dword} {F others : Nat → Thread → Thread}
    {region : Thread → Dword} (h : s.sel = some c) (hr : TrapReady s c ls) (hd : ls.Nodup)
    (hF : ∀ l ∈ ls, F l (c.thread l) = { c.thread l with region := region (c.thread l) })
    (ho : ∀ l, l ∉ ls → ∀ th, s.thread? c.blk c.grp l = some th → F l th = others l th)
    (hx : exec i s = .next { c.raise (s.updGroup c.blk c.grp fun g => { g with threads := g.threads.mapIdx F })
      (ls.map fun l => { lane := l, fail := f l, resume := resume }) with toPlat := s.toPlat }) :
    TrapsFrom i s c ls f resume others region := by
  have hu := onlyThreads_mapIdx s c.blk c.grp F
  have hut (lane : Nat) := thread?_mapIdx s c.blk c.grp F lane
  have hlanes : (ls.map fun l => ({ lane := l, fail := f l, resume := resume } : LaneFail)).map LaneFail.lane = ls := by
    rw [List.map_map]
    exact List.map_id ls
  have run (l : Nat) (hl : l ∈ ls) := thread_exists h (hr.runnable l hl)
  have key := raise_traps (fs := ls.map fun l => { lane := l, fail := f l, resume := resume }) h hu (by simp) (by rw [hlanes]; exact hd)
    hr.handler (fun x hx => by
      obtain ⟨l, hl, rfl⟩ := List.mem_map.mp hx
      refine ⟨F l (c.thread l), by rw [hut, run l hl]; rfl, ?_⟩
      rw [hF l hl]
      have := hr.untrapped l hl
      simpa [Thread.trapped] using this) (by rw [List.length_map]; exact hr.room)
  obtain ⟨k1, k2, k3, k4, k5, k6, k7, k8⟩ := key
  rw [List.length_map] at k2
  refine trapsFrom_iff.mpr ⟨_, hx, ?_⟩
  rw [← k3]
  refine ⟨k1, k2, k4, k5, k6, fun lane th ht => ?_⟩
  split
  · rename_i hm
    have hk := List.idxOf_lt_length_iff.mpr hm
    have at_ : (ls.map fun l => ({ lane := l, fail := f l, resume := resume } : LaneFail))[ls.idxOf lane]?
        = some { lane := lane, fail := f lane, resume := resume } := by
      rw [List.getElem?_map, List.getElem?_eq_getElem hk, List.getElem_idxOf hk]
      rfl
    have e : th = c.thread lane := by
      have := run lane hm
      rw [ht] at this
      exact Option.some.inj this
    have st : th.st = .runnable := e ▸ hr.runnable lane hm
    rw [k7 _ _ (F lane th) at_ (by rw [hut, ht]; rfl), e, hF lane hm, ← e]
    simp only [Thread.enterTrap, ← st]
  · rename_i hm
    rw [← ho lane hm th ht]
    exact k8 _ _ (by rw [hlanes]; exact hm) (by rw [hut, ht]; rfl)

end Sys2Proof.Machine
end

