-- ==== Sys2Proof/Laws/Fp.lean ====
section
/-! SUPPORT. One lemma for each shape of the floating-point instructions: they end with their result and flags, or with FPTRAP. -/

namespace Sys2Proof.Machine

open Sys2Proof

/-- The enabled traps are FPENV bits 13:8 (R164). -/
theorem trapsOn_eq (x : Word) (fl : Flags) : trapsOn x fl = (fl &&& x.extractLsb' 8 6 != 0) := by
  have e : (x >>> 8).setWidth 6 = x.extractLsb' 8 6 := by
    ext i hi
    simp
  rw [trapsOn, e]
/-- With no trap enabled no flag raises FPTRAP (R164). -/
theorem fpDone_noTraps {t : Thread} (h : t.fpenv.extractLsb' 8 6 = 0) (t' : Thread) (fl : Flags) :
    fpDone t t' fl = .done (t'.raiseFlags fl) := by
  simp [fpDone, trapsOn_eq, h]

theorem filterMap_if {α β : Type} (l : List α) (q : α → Bool) (f : α → β) (g : α → Option β)
    (h : ∀ x ∈ l, g x = if q x then some (f x) else none) : l.filterMap g = (l.filter q).map f := by
  induction l with
  | nil => rfl
  | cons x r ih =>
    have := h x List.mem_cons_self
    rw [List.filterMap_cons, this, ih fun y hy => h y (List.mem_cons_of_mem _ hy)]
    by_cases hq : q x = true <;> simp [hq]

/-- A lane instruction that ends in fpDone. -/
theorem fpLane_ends {i : Instr} {s : State} {c : Sel} (f : Group → Thread → Thread × Flags) (h : Issues s c i)
    (hx : exec i s = perLane i s fun g _ t => fpDone t (f g t).1 (f g t).2) : FpEnds i s c (f c.g) := by
  refine ⟨fun nt => perLane_ends (fun g _ t => fpDone t (f g t).1 (f g t).2) _ h hx fun lane hl _ => fpDone_noTraps (nt lane hl) _ _, ?_⟩
  intro ls hls hr
  let bad (l : Nat) : Bool := (f c.g (c.thread l)).2 &&& (c.thread l).fpenv.extractLsb' 8 6 != 0
  let step := c.laneStep i fun _ t => (fpDone t (f c.g t).1 (f c.g t).2).pass (Instr.len i)
  have mem {l : Nat} : l ∈ ls ↔ (c.issue.lanes.getLsbD l = true ∧ guardOk (instrMods i) (c.thread l) = true) ∧ bad l = true := by
    rw [hls, List.mem_filter, mem_guarded]
  have hstep (l : Nat) : step l (c.thread l) = if l ∈ ls then .raise ⟨0x10, 0, (f c.g (c.thread l)).2.setWidth 32⟩
      else .done (c.after i (fun _ t => (f c.g t).1.raiseFlags (f c.g t).2) l (c.thread l)) := by
    have hm := mem (l := l)
    simp only [step, Sel.laneStep, Sel.after]
    by_cases h1 : c.issue.lanes.getLsbD l = true
    · by_cases h2 : guardOk (instrMods i) (c.thread l) = true
      · by_cases h3 : bad l = true
        · have ht : trapsOn (c.thread l).fpenv (f c.g (c.thread l)).2 = true := (trapsOn_eq ..).trans h3
          rw [if_pos h1, if_pos h2, if_pos (hm.mpr ⟨⟨h1, h2⟩, h3⟩), fpDone, if_pos ht]
          simp only [LaneOut.pass, mkFail, nat32, cFPTRAP]
          congr 2
          exact BitVec.ofNat_toNat _ _
        · have ht : trapsOn (c.thread l).fpenv (f c.g (c.thread l)).2 = false := (trapsOn_eq ..).trans (Bool.eq_false_iff.mpr h3)
          rw [if_pos h1, if_pos h2, if_neg (fun x => h3 (hm.mp x).2), fpDone, ht]
          simp [LaneOut.pass, h1, h2]
      · rw [if_pos h1, if_neg h2, if_neg (fun x => h2 (hm.mp x).1.2)]
        simp [h1, h2]
    · rw [if_neg h1, if_neg (fun x => h1 (hm.mp x).1.1)]
      simp [h1]
  refine apply_traps (F := fun l t => (step l t).apply t) h.1 hr ?_ ?_ ?_ ?_
  · rw [hls]
    exact ((List.nodup_range.filter _).filter _).filter _
  · intro l hl
    rw [hstep, if_pos hl]
    rfl
  · intro l hl th ht
    rw [← sel_thread h.1 ht, hstep, if_neg hl]
    rfl
  · rw [hx]
    unfold perLane
    rw [runSet_next _ h]
    have : c.fails step = ls.map fun l =>
        { lane := l, fail := ⟨0x10, 0, (f c.g (c.thread l)).2.setWidth 32⟩, resume := c.issue.pc } := by
      have hq : ls = c.lanes.filter fun l => bad l && guardOk (instrMods i) (c.thread l) := by
        rw [hls, Sel.guarded, List.filter_filter]
      rw [hq]
      refine filterMap_if _ _ _ _ fun l hl => ?_
      rw [Sel.lanes, mem_lanesOf] at hl
      rw [hstep]
      by_cases h1 : l ∈ ls
      · have := mem.mp h1
        simp [LaneOut.fail, h1, this.1.2, this.2]
      · have : ¬(bad l && guardOk (instrMods i) (c.thread l)) = true := fun x => by
          rw [Bool.and_eq_true] at x
          exact h1 (mem.mpr ⟨⟨hl, x.2⟩, x.1⟩)
        simp only [h1, if_false, LaneOut.fail, Option.map_none, this, Bool.false_eq_true]
    rw [← this]
    rfl

theorem f32Lane_ends {i : Instr} {s : State} {c : Sel} {d : RegNum} {m : Option Mods} {f : Group → Thread → FpEnv → FpOut}
    (h : Issues s c i) (hx : exec i s = f32Lane i s d m f) :
    FpEnds i s c fun t => t.writeFp d (f c.g t (fpEnvOf t.fpenv (modsOf m))) :=
  fpLane_ends (fun g t => t.writeFp d (f g t (fpEnvOf t.fpenv (modsOf m)))) h hx

theorem f64Lane_ends {i : Instr} {s : State} {c : Sel} {d : RegNum} {m : Option Mods} {f : Group → Thread → FpEnv → FpOut}
    (h : Issues s c i) (hx : exec i s = f64Lane i s d m f) :
    FpEnds i s c fun t => t.writeFp64 d (f c.g t (fpEnvOf t.fpenv (modsOf m))) :=
  fpLane_ends (fun g t => t.writeFp64 d (f g t (fpEnvOf t.fpenv (modsOf m)))) h hx

theorem f32Binary_ends {i : Instr} {o : OpR} {s : State} {c : Sel} {f : FpEnv → Mods → Nat → Nat → FpOut} (h : Issues s c i)
    (hx : exec i s = f32Binary i o s f) : FpEnds i s c fun t => t.writeFp o.d
      (f (fpEnvOf t.fpenv (modsOf o.m)) (modsOf o.m) (t.vr o.a.toNat).toNat (operandB c.g t o.bk o.b).toNat) :=
  f32Lane_ends (f := fun g t env => f env (modsOf o.m) (t.vr o.a.toNat).toNat (operandB g t o.bk o.b).toNat) h hx

theorem f32Unary_ends {i : Instr} {o : OpU} {s : State} {c : Sel} {f : FpEnv → Mods → Nat → FpOut} (h : Issues s c i)
    (hx : exec i s = f32Unary i o s f) : FpEnds i s c fun t => t.writeFp o.d
      (f (fpEnvOf t.fpenv (modsOf o.m)) (modsOf o.m) (operandB c.g t o.bk o.b).toNat) :=
  f32Lane_ends (f := fun g t env => f env (modsOf o.m) (operandB g t o.bk o.b).toNat) h hx

theorem f32Compact_ends {i : Instr} {o : OpC} {s : State} {c : Sel} {f : FpEnv → Mods → Nat → Nat → FpOut} (h : Issues s c i)
    (hx : exec i s = f32Compact i o s f) : FpEnds i s c fun t => t.writeFp (BitVec.ofNat 7 o.d.toNat)
      (f (fpEnvOf t.fpenv Mods.default) Mods.default (t.vr o.d.toNat).toNat (t.vr o.b.toNat).toNat) :=
  f32Lane_ends (m := none) (f := fun _ t env => f env Mods.default (t.vr o.d.toNat).toNat (t.vr o.b.toNat).toNat) h hx

theorem f64Binary_ends {i : Instr} {o : OpR} {s : State} {c : Sel} {f : FpEnv → Mods → Nat → Nat → FpOut} (h : Issues s c i)
    (hx : exec i s = f64Binary i o s f) : FpEnds i s c fun t => t.writeFp64 o.d
      (f (fpEnvOf t.fpenv (modsOf o.m)) (modsOf o.m) (t.vPair o.a.toNat).toNat (pairB c.g t o.bk o.b).toNat) :=
  f64Lane_ends (f := fun g t env => f env (modsOf o.m) (t.vPair o.a.toNat).toNat (pairB g t o.bk o.b).toNat) h hx

theorem f64Unary_ends {i : Instr} {o : OpU} {s : State} {c : Sel} {f : FpEnv → Mods → Nat → FpOut} (h : Issues s c i)
    (hx : exec i s = f64Unary i o s f) : FpEnds i s c fun t => t.writeFp64 o.d
      (f (fpEnvOf t.fpenv (modsOf o.m)) (modsOf o.m) (pairB c.g t o.bk o.b).toNat) :=
  f64Lane_ends (f := fun g t env => f env (modsOf o.m) (pairB g t o.bk o.b).toNat) h hx

end Sys2Proof.Machine
end

