-- ==== Sys2Proof/Laws/Words.lean ====
section
/-! SUPPORT. The words of instructions: bytes to halfwords and words, the fields of each layout (R43) and the modifier word (R47) back from
their encodings, and what `decode` makes of an encoded base word. -/

namespace Sys2Proof

/-! ## Bytes -/

theorem takeHalf_halfBytes (h : Half) (rest : List Byte) : takeHalf (halfBytes h ++ rest) = some (h, rest) := by
  simp only [halfBytes, List.cons_append, List.nil_append, takeHalf, Option.some.injEq, Prod.mk.injEq, and_true]
  exact BitVec.extractLsb'_append_extractLsb'_eq_extractLsb' (x := h) (by omega) |>.trans (by simp)

theorem word_halves (w : Word) : (w.extractLsb' 16 16 ++ w.extractLsb' 0 16 : Word) = w :=
  (BitVec.extractLsb'_append_extractLsb'_eq_extractLsb' (x := w) (by omega)).trans (by simp)

/-- A halfword's 16 bits as the low half of a word's. -/
theorem getLsbD_half (w : Word) (i : Nat) (h : i < 16) : (w.extractLsb' 0 16).getLsbD i = w.getLsbD i := by
  simp [h]

/-! ## The base word (R43) -/

/-- The base word that `encodeBase` lays out. -/
def baseWord (op : Nat) (top : BitVec 22) (e : Bool) : Word := top ++ BitVec.ofNat 8 op ++ BitVec.ofBool e ++ (1 : BitVec 1)

theorem baseWord_low (op : Nat) (top : BitVec 22) (e : Bool) : (baseWord op top e).getLsbD 0 = true := by
  simp only [baseWord, BitVec.getLsbD_append]
  rfl
theorem baseWord_ext (op : Nat) (top : BitVec 22) (e : Bool) : (baseWord op top e).getLsbD 1 = e := by
  simp only [baseWord, BitVec.getLsbD_append]
  cases e <;> rfl
theorem opBits_baseWord (op : Nat) (top : BitVec 22) (e : Bool) : opBits (baseWord op top e) = BitVec.ofNat 8 op := by
  ext i hi
  simp only [opBits, baseWord, BitVec.getElem_extractLsb', BitVec.getLsbD_append]
  have h1 : ¬(2 + i < 1) := by omega
  have h2 : ¬(2 + i - 1 < 1) := by omega
  have h3 : 2 + i - 1 - 1 = i := by omega
  simp only [h1, h2, h3, hi]
  simp [hi]
theorem topBits_baseWord (op : Nat) (top : BitVec 22) (e : Bool) : topBits (baseWord op top e) = top := by
  ext i hi
  simp only [topBits, baseWord, BitVec.getElem_extractLsb', BitVec.getLsbD_append]
  have h1 : ¬(10 + i < 1) := by omega
  have h2 : ¬(10 + i - 1 < 1) := by omega
  have h3 : ¬(10 + i - 1 - 1 < 8) := by omega
  have h4 : 10 + i - 1 - 1 - 8 = i := by omega
  simp only [h1, h2, h3, h4]
  exact BitVec.getLsbD_eq_getElem hi

/-- The bytes of a base word and of the word that may follow it, read from the head of a list. -/
theorem decode_encodeBase (op : Nat) (top : BitVec 22) (ext : Option Word) (rest : List Byte) :
    decode (encodeBase op top ext ++ rest) = decodeBase (baseWord op top ext.isSome) ext := by
  have e : encodeBase op top ext ++ rest = halfBytes ((baseWord op top ext.isSome).extractLsb' 0 16)
      ++ (halfBytes ((baseWord op top ext.isSome).extractLsb' 16 16) ++ ((match ext with | none => [] | some x => wordBytes x) ++ rest)) := by
    simp only [encodeBase, wordBytes, baseWord, List.append_assoc] <;>
    rfl
  rw [e]
  unfold decode
  rw [takeHalf_halfBytes]
  simp only [getLsbD_half _ 0 (by omega), baseWord_low, if_true]
  rw [takeHalf_halfBytes]
  simp only [word_halves, baseWord_ext]
  cases ext with
  | none => simp
  | some x =>
    simp only [Option.isSome_some, if_true, wordBytes, List.append_assoc]
    rw [takeHalf_halfBytes]
    simp only
    rw [takeHalf_halfBytes]
    simp only [word_halves]

theorem halfBytes_length (h : Half) : (halfBytes h).length = 2 := rfl
theorem wordBytes_length (w : Word) : (wordBytes w).length = 4 := rfl
theorem encodeBase_length (op : Nat) (top : BitVec 22) (ext : Option Word) : (encodeBase op top ext).length = if ext.isSome then 8 else 4 := by
  cases ext <;> simp [encodeBase, wordBytes_length]

/-! ## The modifier word (R47) -/

/-- The part of a concatenation that lies in its upper operand, and in its lower one. -/
theorem ext_hi {w v : Nat} (x : BitVec w) (y : BitVec v) {s n : Nat} (h : v ≤ s) : (x ++ y).extractLsb' s n = x.extractLsb' (s - v) n :=
  BitVec.extractLsb'_append_eq_of_le h
theorem ext_lo {w v : Nat} (x : BitVec w) (y : BitVec v) {s n : Nat} (h : s + n ≤ v) : (x ++ y).extractLsb' s n = y.extractLsb' s n :=
  BitVec.extractLsb'_append_eq_of_add_le h
theorem bit_hi {w v : Nat} (x : BitVec w) (y : BitVec v) {s : Nat} (h : v ≤ s) : (x ++ y).getLsbD s = x.getLsbD (s - v) := by
  rw [BitVec.getLsbD_append]; simp [Nat.not_lt.mpr h]
theorem bit_lo {w v : Nat} (x : BitVec w) (y : BitVec v) {s : Nat} (h : s < v) : (x ++ y).getLsbD s = y.getLsbD s := by
  rw [BitVec.getLsbD_append]; simp [h]
theorem ext_self {w : Nat} (x : BitVec w) {s : Nat} (h : s = 0) : x.extractLsb' s w = x := by
  rw [h]; exact BitVec.extractLsb'_eq_self
theorem bit_ofBool (b : Bool) {s : Nat} (h : s = 0) : (BitVec.ofBool b).getLsbD s = b := by
  rw [h]; cases b <;> rfl

theorem decodeMods_encodeMods (m : Mods) : decodeMods (encodeMods m) = some m := by
  obtain ⟨rnd, scale, abs, neg, clamp, sat, gneg, guard, c⟩ := m
  simp (disch := omega) only [decodeMods, encodeMods, ext_hi, ext_lo, bit_hi, bit_lo, bit_ofBool, ext_self]
  rfl

/-! ## The fields of a layout (R43) -/

theorem rFields_topR (o : OpR) : rFields (topR o) o.m = o := by
  obtain ⟨b, bk, a, d, m⟩ := o
  simp (disch := omega) only [rFields, topR, ext_hi, ext_lo, bit_hi, bit_lo, bit_ofBool, ext_self]
theorem uFields_topU (f : Nat) (o : OpU) : uFields (topU f o) o.m = o := by
  obtain ⟨b, bk, d, m⟩ := o
  simp (disch := omega) only [uFields, topU, ext_hi, ext_lo, bit_hi, bit_lo, bit_ofBool, ext_self]
theorem iFields_topI (o : OpI) : iFields (topI o) o.m = o := by
  obtain ⟨imm, a, d, m⟩ := o
  simp (disch := omega) only [iFields, topI, ext_hi, ext_lo, ext_self]
theorem tFields_topT (o : OpT) : tFields (topT o) o.m = o := by
  obtain ⟨dt, st, a, d, m⟩ := o
  simp (disch := omega) only [tFields, topT, ext_hi, ext_lo, ext_self]
theorem siFields_topSI (k : Nat) (o : OpSI) : siFields (topSI k o) o.m = o := by
  obtain ⟨imm, a, d, m⟩ := o
  simp (disch := omega) only [siFields, topSI, ext_hi, ext_lo, ext_self]
theorem f8Fields_topF8 (f : Nat) (o : OpF8) : f8Fields (topF8 f o) o.m = o := by
  obtain ⟨a, d, m⟩ := o
  simp (disch := omega) only [f8Fields, topF8, ext_hi, ext_lo, ext_self]
theorem uFunc_topU {f : Nat} (h : f < 128) (o : OpU) : uFunc (topU f o) = f := by
  simp (disch := omega) only [uFunc, topU, ext_hi, ext_lo, ext_self, BitVec.toNat_ofNat]
  omega
theorem siSub_topSI {k : Nat} (h : k < 8) (o : OpSI) : siSub (topSI k o) = k := by
  simp (disch := omega) only [siSub, topSI, ext_hi, ext_self, BitVec.toNat_ofNat]
  omega
theorem f8Func_topF8 {f : Nat} (h : f < 256) (o : OpF8) : f8Func (topF8 f o) = f := by
  simp (disch := omega) only [f8Func, topF8, ext_hi, ext_self, BitVec.toNat_ofNat]
  omega

/-! ## What an encoded instruction decodes to -/

/-- An opcode other than 0x01 with its fields and its modifiers, if there are any. -/
theorem decode_op {op : Nat} {top : BitVec 22} {m : Option Mods} {i : Instr} (rest : List Byte) (h : op < 256) (h1 : op ≠ 1)
    (hd : decodeOp top m op = some i) (hw : i.wf = true) :
    decode (encodeBase op top (m.map encodeMods) ++ rest) = .ok (i, (encodeBase op top (m.map encodeMods)).length) := by
  have ho : (BitVec.ofNat 8 op).toNat = op := by simp; omega
  have hn : (BitVec.ofNat 8 op == 1) = false := by
    rw [beq_eq_false_iff_ne]
    intro e
    have := congrArg BitVec.toNat e
    rw [ho] at this
    exact h1 this
  rw [decode_encodeBase, encodeBase_length]
  unfold decodeBase
  rw [opBits_baseWord, hn, topBits_baseWord]
  cases m with
  | none => simp [ho, hd, checked, hw]
  | some m => simp [ho, hd, checked, hw, decodeMods_encodeMods]

/-- OP 0x01 with its literal (R50). -/
theorem decode_literal {file : BitVec 7} {o : OpL} {i : Instr} (rest : List Byte)
    (hd : decodeLiteral (topR ⟨0, false, file, o.d, none⟩) o.lit = some i) (hw : i.wf = true) :
    decode (encodeL file o ++ rest) = .ok (i, (encodeL file o).length) := by
  unfold encodeL
  rw [decode_encodeBase, encodeBase_length]
  unfold decodeBase
  rw [opBits_baseWord, topBits_baseWord]
  simp only [hd, checked, hw, if_true]
  rfl

/-- A compact halfword (R39). -/
theorem decode_compact {h : Half} {i : Instr} (rest : List Byte) (hb : h.getLsbD 0 = false) (hz : h ≠ 0) (hd : decodeCompact h = some i)
    (hw : i.wf = true) : decode (halfBytes h ++ rest) = .ok (i, (halfBytes h).length) := by
  unfold decode
  rw [takeHalf_halfBytes]
  have hz' : (h == 0) = false := by simpa using hz
  simp only [hb, hz', hd, checked, hw, if_true, Bool.false_eq_true, if_false, halfBytes_length]

end Sys2Proof
end

