-- ==== Sys2Proof/Laws/PerInstr.lean ====
section
/-! SUPPORT. One lemma per constructor of Instr for the family RoundTrip: decoding the bytes of a well-formed instruction gives it back, with its
length, whatever follows. An event or a command has no bytes. -/

namespace Sys2Proof.Laws.RoundTrip

open Sys2Proof

/-- Decoding what `encode` gives for a well-formed instruction gives the instruction (R39-R54). -/
def Statement (i : Instr) : Prop :=
  ∀ bs rest : List Byte, i.wf = true → encode i = some bs → decode (bs ++ rest) = .ok (i, bs.length)

/-! The lemmas by layout (R43). -/

theorem ofR {op : Nat} (k : OpR → Instr) (o : OpR) (h : op < 256) (h1 : op ≠ 1) (he : encode (k o) = some (encodeR op o))
    (hd : (k o).wf = true → decodeOp (topR o) o.m op = some (k (rFields (topR o) o.m))) : Statement (k o) := by
  intro bs rest hw hb
  rw [he, Option.some.injEq] at hb
  rw [← hb]
  exact decode_op rest h h1 (by rw [hd hw, rFields_topR]) hw
theorem ofI {op : Nat} (k : OpI → Instr) (o : OpI) (h : op < 256) (h1 : op ≠ 1) (he : encode (k o) = some (encodeI op o))
    (hd : decodeOp (topI o) o.m op = some (k (iFields (topI o) o.m))) : Statement (k o) := by
  intro bs rest hw hb
  rw [he, Option.some.injEq] at hb
  rw [← hb]
  exact decode_op rest h h1 (by rw [hd, iFields_topI]) hw
theorem ofT {op : Nat} (k : OpT → Instr) (o : OpT) (h : op < 256) (h1 : op ≠ 1) (he : encode (k o) = some (encodeT op o))
    (hd : decodeOp (topT o) o.m op = some (k (tFields (topT o) o.m))) : Statement (k o) := by
  intro bs rest hw hb
  rw [he, Option.some.injEq] at hb
  rw [← hb]
  exact decode_op rest h h1 (by rw [hd, tFields_topT]) hw
theorem ofJ {op : Nat} (k : OpJ → Instr) (o : OpJ) (h : op < 256) (h1 : op ≠ 1) (he : encode (k o) = some (encodeJ op o))
    (hd : decodeOp o.off o.m op = some (k o)) : Statement (k o) := by
  intro bs rest hw hb
  rw [he, Option.some.injEq] at hb
  rw [← hb]
  exact decode_op rest h h1 hd hw
theorem ofZ {op : Nat} (k : OpZ → Instr) (o : OpZ) (h : op < 256) (h1 : op ≠ 1) (he : encode (k o) = some (encodeZ op o))
    (hd : decodeOp 0 o.m op = some (k o)) : Statement (k o) := by
  intro bs rest hw hb
  rw [he, Option.some.injEq] at hb
  rw [← hb]
  exact decode_op rest h h1 hd hw
theorem ofBare {op : Nat} (i : Instr) (h : op < 256) (h1 : op ≠ 1) (he : encode i = some (encodeBase op 0 none))
    (hd : decodeOp 0 none op = some i) : Statement i := by
  intro bs rest hw hb
  rw [he, Option.some.injEq] at hb
  rw [← hb]
  exact decode_op (m := none) rest h h1 hd hw
/-- Layouts whose function or sub-operation is a field: `sub` reads it. -/
theorem ofU {op f : Nat} (k : OpU → Instr) (sub : BitVec 22 → Option Mods → Nat → Option Instr) (o : OpU) (h : op < 256) (h1 : op ≠ 1) (hf : f < 128)
    (he : encode (k o) = some (encodeU op f o)) (hs : ∀ t m, decodeOp t m op = sub t m (uFunc t))
    (hd : ∀ t m, sub t m f = some (k (uFields t m))) : Statement (k o) := by
  intro bs rest hw hb
  rw [he, Option.some.injEq] at hb
  rw [← hb]
  exact decode_op rest h h1 (by rw [hs, uFunc_topU hf, hd, uFields_topU]) hw
theorem ofSI {op f : Nat} (k : OpSI → Instr) (sub : BitVec 22 → Option Mods → Nat → Option Instr) (o : OpSI) (h : op < 256) (h1 : op ≠ 1) (hf : f < 8)
    (he : encode (k o) = some (encodeSI op f o)) (hs : ∀ t m, decodeOp t m op = sub t m (siSub t))
    (hd : ∀ t m, sub t m f = some (k (siFields t m))) : Statement (k o) := by
  intro bs rest hw hb
  rw [he, Option.some.injEq] at hb
  rw [← hb]
  exact decode_op rest h h1 (by rw [hs, siSub_topSI hf, hd, siFields_topSI]) hw
theorem ofF8 {op f : Nat} (k : OpF8 → Instr) (o : OpF8) (h : op < 256) (h1 : op ≠ 1) (hf : f < 256)
    (he : encode (k o) = some (encodeF8 op f o)) (hs : ∀ t m, decodeOp t m op = decodeUniform t m (f8Func t))
    (hd : ∀ t m, decodeUniform t m f = some (k (f8Fields t m))) : Statement (k o) := by
  intro bs rest hw hb
  rw [he, Option.some.injEq] at hb
  rw [← hb]
  exact decode_op rest h h1 (by rw [hs, f8Func_topF8 hf, hd, f8Fields_topF8]) hw
theorem ofL {file : BitVec 7} (k : OpL → Instr) (o : OpL) (he : encode (k o) = some (encodeL file o))
    (hd : decodeLiteral (topR ⟨0, false, file, o.d, none⟩) o.lit = some (k o)) : Statement (k o) := by
  intro bs rest hw hb
  rw [he, Option.some.injEq] at hb
  rw [← hb]
  exact decode_literal rest hd hw
/-- A compact code, of which only code 0 can make a zero halfword. -/
theorem ofC {code : Nat} (k : OpC → Instr) (o : OpC) (hc : code < 16) (he : encode (k o) = some (encodeC code o))
    (hz : (k o).wf = true → code ≠ 0 ∨ o.b ≠ 0 ∨ o.d ≠ 0) (hd : ∀ b d off, decodeCode b d off code = some (k ⟨b, d⟩)) : Statement (k o) := by
  intro bs rest hw hb
  rw [he, Option.some.injEq] at hb
  rw [← hb]
  have e1 : (o.b ++ o.d ++ BitVec.ofNat 4 code ++ (0 : BitVec 1) : Half).extractLsb' 11 5 = o.b := by
    simp (disch := omega) only [ext_hi, ext_lo, ext_self]
  have e2 : (o.b ++ o.d ++ BitVec.ofNat 4 code ++ (0 : BitVec 1) : Half).extractLsb' 5 6 = o.d := by
    simp (disch := omega) only [ext_hi, ext_lo, ext_self]
  have e3 : ((o.b ++ o.d ++ BitVec.ofNat 4 code ++ (0 : BitVec 1) : Half).extractLsb' 1 4) = BitVec.ofNat 4 code := by
    simp (disch := omega) only [ext_hi, ext_lo, ext_self]
  have e4 : (BitVec.ofNat 4 code).toNat = code := by simp; omega
  refine decode_compact rest ?_ ?_ ?_ hw
  · rw [bit_lo _ _ (by omega)]; rfl
  · intro h
    rw [h] at e1 e2 e3
    rcases hz hw with h | h | h
    · have := congrArg BitVec.toNat e3
      rw [e4] at this
      exact h this.symm
    · exact h e1.symm
    · exact h e2.symm
  · rw [decodeCompact, e1, e2, e3, e4, hd]
/-- OP 0x8F and OP 0x90: the operation is in D. -/
theorem ofCctl {k : Nat} (c : OpR → Instr) (o : OpR) (he : encode (c o) = some (encodeR 0x8F o))
    (hd : ∀ t m, decodeCctl t m k = some (c (rFields t m))) (hw : (c o).wf = true → o.d.toNat = k) : Statement (c o) :=
  ofR c o (by decide) (by decide) he fun h => by
    have e : decodeOp (topR o) o.m 0x8F = decodeCctl (topR o) o.m (rFields (topR o) o.m).d.toNat := rfl
    rw [e, ← hd, rFields_topR, hw h]
theorem ofFence {k : Nat} (c : OpR → Instr) (o : OpR) (he : encode (c o) = some (encodeR 0x90 o))
    (hd : ∀ t m, decodeFence t m k = some (c (rFields t m))) (hw : (c o).wf = true → o.d.toNat / 8 = k) : Statement (c o) :=
  ofR c o (by decide) (by decide) he fun h => by
    have e : decodeOp (topR o) o.m 0x90 = decodeFence (topR o) o.m ((rFields (topR o) o.m).d.toNat / 8) := rfl
    rw [e, ← hd, rFields_topR, hw h]
theorem ofEvent (i : Instr) (he : encode i = none) : Statement i := by
  intro bs rest _ hb
  rw [he] at hb
  exact absurd hb (by simp)

end Sys2Proof.Laws.RoundTrip

open Sys2Proof

theorem Sys2Proof.Laws.RoundTrip.cMov (o : OpC) : Sys2Proof.Laws.RoundTrip.Statement (.cMov o) := by
  refine Sys2Proof.Laws.RoundTrip.ofC .cMov o (by decide) rfl (fun h => ?_) fun _ _ _ => rfl
  simp only [Instr.wf, Bool.not_eq_true', Bool.and_eq_false_iff, beq_eq_false_iff_ne] at h
  exact .inr h
theorem Sys2Proof.Laws.RoundTrip.cMovi (o : OpC) : Sys2Proof.Laws.RoundTrip.Statement (.cMovi o) := Sys2Proof.Laws.RoundTrip.ofC .cMovi o (by decide) rfl (fun h => .inl (by decide)) fun _ _ _ => rfl
theorem Sys2Proof.Laws.RoundTrip.cIadd (o : OpC) : Sys2Proof.Laws.RoundTrip.Statement (.cIadd o) := Sys2Proof.Laws.RoundTrip.ofC .cIadd o (by decide) rfl (fun h => .inl (by decide)) fun _ _ _ => rfl
theorem Sys2Proof.Laws.RoundTrip.cIaddImm (o : OpC) : Sys2Proof.Laws.RoundTrip.Statement (.cIaddImm o) := Sys2Proof.Laws.RoundTrip.ofC .cIaddImm o (by decide) rfl (fun h => .inl (by decide)) fun _ _ _ => rfl
theorem Sys2Proof.Laws.RoundTrip.cIsub (o : OpC) : Sys2Proof.Laws.RoundTrip.Statement (.cIsub o) := Sys2Proof.Laws.RoundTrip.ofC .cIsub o (by decide) rfl (fun h => .inl (by decide)) fun _ _ _ => rfl
theorem Sys2Proof.Laws.RoundTrip.cImul (o : OpC) : Sys2Proof.Laws.RoundTrip.Statement (.cImul o) := Sys2Proof.Laws.RoundTrip.ofC .cImul o (by decide) rfl (fun h => .inl (by decide)) fun _ _ _ => rfl
theorem Sys2Proof.Laws.RoundTrip.cAnd (o : OpC) : Sys2Proof.Laws.RoundTrip.Statement (.cAnd o) := Sys2Proof.Laws.RoundTrip.ofC .cAnd o (by decide) rfl (fun h => .inl (by decide)) fun _ _ _ => rfl
theorem Sys2Proof.Laws.RoundTrip.cOr (o : OpC) : Sys2Proof.Laws.RoundTrip.Statement (.cOr o) := Sys2Proof.Laws.RoundTrip.ofC .cOr o (by decide) rfl (fun h => .inl (by decide)) fun _ _ _ => rfl
theorem Sys2Proof.Laws.RoundTrip.cXor (o : OpC) : Sys2Proof.Laws.RoundTrip.Statement (.cXor o) := Sys2Proof.Laws.RoundTrip.ofC .cXor o (by decide) rfl (fun h => .inl (by decide)) fun _ _ _ => rfl
theorem Sys2Proof.Laws.RoundTrip.cShl (o : OpC) : Sys2Proof.Laws.RoundTrip.Statement (.cShl o) := Sys2Proof.Laws.RoundTrip.ofC .cShl o (by decide) rfl (fun h => .inl (by decide)) fun _ _ _ => rfl
theorem Sys2Proof.Laws.RoundTrip.cShr (o : OpC) : Sys2Proof.Laws.RoundTrip.Statement (.cShr o) := Sys2Proof.Laws.RoundTrip.ofC .cShr o (by decide) rfl (fun h => .inl (by decide)) fun _ _ _ => rfl
theorem Sys2Proof.Laws.RoundTrip.cFadd (o : OpC) : Sys2Proof.Laws.RoundTrip.Statement (.cFadd o) := Sys2Proof.Laws.RoundTrip.ofC .cFadd o (by decide) rfl (fun h => .inl (by decide)) fun _ _ _ => rfl
theorem Sys2Proof.Laws.RoundTrip.cFsub (o : OpC) : Sys2Proof.Laws.RoundTrip.Statement (.cFsub o) := Sys2Proof.Laws.RoundTrip.ofC .cFsub o (by decide) rfl (fun h => .inl (by decide)) fun _ _ _ => rfl
theorem Sys2Proof.Laws.RoundTrip.cFmul (o : OpC) : Sys2Proof.Laws.RoundTrip.Statement (.cFmul o) := Sys2Proof.Laws.RoundTrip.ofC .cFmul o (by decide) rfl (fun h => .inl (by decide)) fun _ _ _ => rfl
theorem Sys2Proof.Laws.RoundTrip.cFmax (o : OpC) : Sys2Proof.Laws.RoundTrip.Statement (.cFmax o) := Sys2Proof.Laws.RoundTrip.ofC .cFmax o (by decide) rfl (fun h => .inl (by decide)) fun _ _ _ => rfl
theorem Sys2Proof.Laws.RoundTrip.cBra (o : OpCB) : Sys2Proof.Laws.RoundTrip.Statement (.cBra o) := by
  intro bs rest hw hb
  have he : encode (.cBra o) = some (encodeCB o) := rfl
  rw [he, Option.some.injEq] at hb
  rw [← hb]
  have e1 : (o.off ++ (15 : BitVec 4) ++ (0 : BitVec 1) : Half).extractLsb' 5 11 = o.off := by
    simp (disch := omega) only [ext_hi, ext_lo, ext_self]
  have e3 : (o.off ++ (15 : BitVec 4) ++ (0 : BitVec 1) : Half).extractLsb' 1 4 = 15 := by
    simp (disch := omega) only [ext_hi, ext_lo, ext_self]
  refine decode_compact rest ?_ ?_ ?_ hw
  · rw [bit_lo _ _ (by omega)]; rfl
  · intro h
    rw [h] at e3
    exact absurd e3 (by decide)
  · rw [decodeCompact, e1, e3]; rfl
theorem Sys2Proof.Laws.RoundTrip.mov (o : OpU) : Sys2Proof.Laws.RoundTrip.Statement (.mov o) := Sys2Proof.Laws.RoundTrip.ofU .mov decodeUnary o (by decide) (by decide) (by decide) rfl (fun _ _ => rfl) fun _ _ => rfl
theorem Sys2Proof.Laws.RoundTrip.not (o : OpU) : Sys2Proof.Laws.RoundTrip.Statement (.not o) := Sys2Proof.Laws.RoundTrip.ofU .not decodeUnary o (by decide) (by decide) (by decide) rfl (fun _ _ => rfl) fun _ _ => rfl
theorem Sys2Proof.Laws.RoundTrip.popc (o : OpU) : Sys2Proof.Laws.RoundTrip.Statement (.popc o) := Sys2Proof.Laws.RoundTrip.ofU .popc decodeUnary o (by decide) (by decide) (by decide) rfl (fun _ _ => rfl) fun _ _ => rfl
theorem Sys2Proof.Laws.RoundTrip.clz (o : OpU) : Sys2Proof.Laws.RoundTrip.Statement (.clz o) := Sys2Proof.Laws.RoundTrip.ofU .clz decodeUnary o (by decide) (by decide) (by decide) rfl (fun _ _ => rfl) fun _ _ => rfl
theorem Sys2Proof.Laws.RoundTrip.ctz (o : OpU) : Sys2Proof.Laws.RoundTrip.Statement (.ctz o) := Sys2Proof.Laws.RoundTrip.ofU .ctz decodeUnary o (by decide) (by decide) (by decide) rfl (fun _ _ => rfl) fun _ _ => rfl
theorem Sys2Proof.Laws.RoundTrip.brev (o : OpU) : Sys2Proof.Laws.RoundTrip.Statement (.brev o) := Sys2Proof.Laws.RoundTrip.ofU .brev decodeUnary o (by decide) (by decide) (by decide) rfl (fun _ _ => rfl) fun _ _ => rfl
theorem Sys2Proof.Laws.RoundTrip.p2v (o : OpU) : Sys2Proof.Laws.RoundTrip.Statement (.p2v o) := Sys2Proof.Laws.RoundTrip.ofU .p2v decodeUnary o (by decide) (by decide) (by decide) rfl (fun _ _ => rfl) fun _ _ => rfl
theorem Sys2Proof.Laws.RoundTrip.v2p (o : OpU) : Sys2Proof.Laws.RoundTrip.Statement (.v2p o) := Sys2Proof.Laws.RoundTrip.ofU .v2p decodeUnary o (by decide) (by decide) (by decide) rfl (fun _ _ => rfl) fun _ _ => rfl
theorem Sys2Proof.Laws.RoundTrip.smov (o : OpU) : Sys2Proof.Laws.RoundTrip.Statement (.smov o) := Sys2Proof.Laws.RoundTrip.ofU .smov decodeUnary o (by decide) (by decide) (by decide) rfl (fun _ _ => rfl) fun _ _ => rfl
theorem Sys2Proof.Laws.RoundTrip.movi (o : OpL) : Sys2Proof.Laws.RoundTrip.Statement (.movi o) := by
  refine Sys2Proof.Laws.RoundTrip.ofL .movi o rfl ?_
  unfold decodeLiteral
  have e := fun f => rFields_topR ⟨0, false, f, o.d, none⟩
  simp only [e]
  rfl
theorem Sys2Proof.Laws.RoundTrip.smovi (o : OpL) : Sys2Proof.Laws.RoundTrip.Statement (.smovi o) := by
  refine Sys2Proof.Laws.RoundTrip.ofL .smovi o rfl ?_
  unfold decodeLiteral
  have e := fun f => rFields_topR ⟨0, false, f, o.d, none⟩
  simp only [e]
  rfl
theorem Sys2Proof.Laws.RoundTrip.allot (o : OpR) : Sys2Proof.Laws.RoundTrip.Statement (.allot o) := Sys2Proof.Laws.RoundTrip.ofR .allot o (by decide) (by decide) rfl fun _ => rfl
theorem Sys2Proof.Laws.RoundTrip.srd (o : OpR) : Sys2Proof.Laws.RoundTrip.Statement (.srd o) := Sys2Proof.Laws.RoundTrip.ofR .srd o (by decide) (by decide) rfl fun _ => rfl
theorem Sys2Proof.Laws.RoundTrip.swr (o : OpR) : Sys2Proof.Laws.RoundTrip.Statement (.swr o) := Sys2Proof.Laws.RoundTrip.ofR .swr o (by decide) (by decide) rfl fun _ => rfl
theorem Sys2Proof.Laws.RoundTrip.iadd (o : OpR) : Sys2Proof.Laws.RoundTrip.Statement (.iadd o) := Sys2Proof.Laws.RoundTrip.ofR .iadd o (by decide) (by decide) rfl fun _ => rfl
theorem Sys2Proof.Laws.RoundTrip.isub (o : OpR) : Sys2Proof.Laws.RoundTrip.Statement (.isub o) := Sys2Proof.Laws.RoundTrip.ofR .isub o (by decide) (by decide) rfl fun _ => rfl
theorem Sys2Proof.Laws.RoundTrip.iadc (o : OpR) : Sys2Proof.Laws.RoundTrip.Statement (.iadc o) := Sys2Proof.Laws.RoundTrip.ofR .iadc o (by decide) (by decide) rfl fun _ => rfl
theorem Sys2Proof.Laws.RoundTrip.isbb (o : OpR) : Sys2Proof.Laws.RoundTrip.Statement (.isbb o) := Sys2Proof.Laws.RoundTrip.ofR .isbb o (by decide) (by decide) rfl fun _ => rfl
theorem Sys2Proof.Laws.RoundTrip.imul (o : OpR) : Sys2Proof.Laws.RoundTrip.Statement (.imul o) := Sys2Proof.Laws.RoundTrip.ofR .imul o (by decide) (by decide) rfl fun _ => rfl
theorem Sys2Proof.Laws.RoundTrip.imulhI32 (o : OpR) : Sys2Proof.Laws.RoundTrip.Statement (.imulhI32 o) := Sys2Proof.Laws.RoundTrip.ofR .imulhI32 o (by decide) (by decide) rfl fun _ => rfl
theorem Sys2Proof.Laws.RoundTrip.imulhN32 (o : OpR) : Sys2Proof.Laws.RoundTrip.Statement (.imulhN32 o) := Sys2Proof.Laws.RoundTrip.ofR .imulhN32 o (by decide) (by decide) rfl fun _ => rfl
theorem Sys2Proof.Laws.RoundTrip.imad (o : OpR) : Sys2Proof.Laws.RoundTrip.Statement (.imad o) := Sys2Proof.Laws.RoundTrip.ofR .imad o (by decide) (by decide) rfl fun _ => rfl
theorem Sys2Proof.Laws.RoundTrip.imadwI32 (o : OpR) : Sys2Proof.Laws.RoundTrip.Statement (.imadwI32 o) := Sys2Proof.Laws.RoundTrip.ofR .imadwI32 o (by decide) (by decide) rfl fun _ => rfl
theorem Sys2Proof.Laws.RoundTrip.imadwN32 (o : OpR) : Sys2Proof.Laws.RoundTrip.Statement (.imadwN32 o) := Sys2Proof.Laws.RoundTrip.ofR .imadwN32 o (by decide) (by decide) rfl fun _ => rfl
theorem Sys2Proof.Laws.RoundTrip.idivI32 (o : OpR) : Sys2Proof.Laws.RoundTrip.Statement (.idivI32 o) := Sys2Proof.Laws.RoundTrip.ofR .idivI32 o (by decide) (by decide) rfl fun _ => rfl
theorem Sys2Proof.Laws.RoundTrip.idivN32 (o : OpR) : Sys2Proof.Laws.RoundTrip.Statement (.idivN32 o) := Sys2Proof.Laws.RoundTrip.ofR .idivN32 o (by decide) (by decide) rfl fun _ => rfl
theorem Sys2Proof.Laws.RoundTrip.iremI32 (o : OpR) : Sys2Proof.Laws.RoundTrip.Statement (.iremI32 o) := Sys2Proof.Laws.RoundTrip.ofR .iremI32 o (by decide) (by decide) rfl fun _ => rfl
theorem Sys2Proof.Laws.RoundTrip.iremN32 (o : OpR) : Sys2Proof.Laws.RoundTrip.Statement (.iremN32 o) := Sys2Proof.Laws.RoundTrip.ofR .iremN32 o (by decide) (by decide) rfl fun _ => rfl
theorem Sys2Proof.Laws.RoundTrip.iminI32 (o : OpR) : Sys2Proof.Laws.RoundTrip.Statement (.iminI32 o) := Sys2Proof.Laws.RoundTrip.ofR .iminI32 o (by decide) (by decide) rfl fun _ => rfl
theorem Sys2Proof.Laws.RoundTrip.iminN32 (o : OpR) : Sys2Proof.Laws.RoundTrip.Statement (.iminN32 o) := Sys2Proof.Laws.RoundTrip.ofR .iminN32 o (by decide) (by decide) rfl fun _ => rfl
theorem Sys2Proof.Laws.RoundTrip.imaxI32 (o : OpR) : Sys2Proof.Laws.RoundTrip.Statement (.imaxI32 o) := Sys2Proof.Laws.RoundTrip.ofR .imaxI32 o (by decide) (by decide) rfl fun _ => rfl
theorem Sys2Proof.Laws.RoundTrip.imaxN32 (o : OpR) : Sys2Proof.Laws.RoundTrip.Statement (.imaxN32 o) := Sys2Proof.Laws.RoundTrip.ofR .imaxN32 o (by decide) (by decide) rfl fun _ => rfl
theorem Sys2Proof.Laws.RoundTrip.and (o : OpR) : Sys2Proof.Laws.RoundTrip.Statement (.and o) := Sys2Proof.Laws.RoundTrip.ofR .and o (by decide) (by decide) rfl fun _ => rfl
theorem Sys2Proof.Laws.RoundTrip.or (o : OpR) : Sys2Proof.Laws.RoundTrip.Statement (.or o) := Sys2Proof.Laws.RoundTrip.ofR .or o (by decide) (by decide) rfl fun _ => rfl
theorem Sys2Proof.Laws.RoundTrip.xor (o : OpR) : Sys2Proof.Laws.RoundTrip.Statement (.xor o) := Sys2Proof.Laws.RoundTrip.ofR .xor o (by decide) (by decide) rfl fun _ => rfl
theorem Sys2Proof.Laws.RoundTrip.andn (o : OpR) : Sys2Proof.Laws.RoundTrip.Statement (.andn o) := Sys2Proof.Laws.RoundTrip.ofR .andn o (by decide) (by decide) rfl fun _ => rfl
theorem Sys2Proof.Laws.RoundTrip.shl (o : OpR) : Sys2Proof.Laws.RoundTrip.Statement (.shl o) := Sys2Proof.Laws.RoundTrip.ofR .shl o (by decide) (by decide) rfl fun _ => rfl
theorem Sys2Proof.Laws.RoundTrip.shr (o : OpR) : Sys2Proof.Laws.RoundTrip.Statement (.shr o) := Sys2Proof.Laws.RoundTrip.ofR .shr o (by decide) (by decide) rfl fun _ => rfl
theorem Sys2Proof.Laws.RoundTrip.sar (o : OpR) : Sys2Proof.Laws.RoundTrip.Statement (.sar o) := Sys2Proof.Laws.RoundTrip.ofR .sar o (by decide) (by decide) rfl fun _ => rfl
theorem Sys2Proof.Laws.RoundTrip.rol (o : OpR) : Sys2Proof.Laws.RoundTrip.Statement (.rol o) := Sys2Proof.Laws.RoundTrip.ofR .rol o (by decide) (by decide) rfl fun _ => rfl
theorem Sys2Proof.Laws.RoundTrip.ror (o : OpR) : Sys2Proof.Laws.RoundTrip.Statement (.ror o) := Sys2Proof.Laws.RoundTrip.ofR .ror o (by decide) (by decide) rfl fun _ => rfl
theorem Sys2Proof.Laws.RoundTrip.shlImm (o : OpSI) : Sys2Proof.Laws.RoundTrip.Statement (.shlImm o) := Sys2Proof.Laws.RoundTrip.ofSI .shlImm decodeShiftImm o (by decide) (by decide) (by decide) rfl (fun _ _ => rfl) fun _ _ => rfl
theorem Sys2Proof.Laws.RoundTrip.shrImm (o : OpSI) : Sys2Proof.Laws.RoundTrip.Statement (.shrImm o) := Sys2Proof.Laws.RoundTrip.ofSI .shrImm decodeShiftImm o (by decide) (by decide) (by decide) rfl (fun _ _ => rfl) fun _ _ => rfl
theorem Sys2Proof.Laws.RoundTrip.sarImm (o : OpSI) : Sys2Proof.Laws.RoundTrip.Statement (.sarImm o) := Sys2Proof.Laws.RoundTrip.ofSI .sarImm decodeShiftImm o (by decide) (by decide) (by decide) rfl (fun _ _ => rfl) fun _ _ => rfl
theorem Sys2Proof.Laws.RoundTrip.rolImm (o : OpSI) : Sys2Proof.Laws.RoundTrip.Statement (.rolImm o) := Sys2Proof.Laws.RoundTrip.ofSI .rolImm decodeShiftImm o (by decide) (by decide) (by decide) rfl (fun _ _ => rfl) fun _ _ => rfl
theorem Sys2Proof.Laws.RoundTrip.rorImm (o : OpSI) : Sys2Proof.Laws.RoundTrip.Statement (.rorImm o) := Sys2Proof.Laws.RoundTrip.ofSI .rorImm decodeShiftImm o (by decide) (by decide) (by decide) rfl (fun _ _ => rfl) fun _ _ => rfl
theorem Sys2Proof.Laws.RoundTrip.fshl (o : OpR) : Sys2Proof.Laws.RoundTrip.Statement (.fshl o) := Sys2Proof.Laws.RoundTrip.ofR .fshl o (by decide) (by decide) rfl fun _ => rfl
theorem Sys2Proof.Laws.RoundTrip.bfe (o : OpR) : Sys2Proof.Laws.RoundTrip.Statement (.bfe o) := Sys2Proof.Laws.RoundTrip.ofR .bfe o (by decide) (by decide) rfl fun _ => rfl
theorem Sys2Proof.Laws.RoundTrip.bfi (o : OpR) : Sys2Proof.Laws.RoundTrip.Statement (.bfi o) := Sys2Proof.Laws.RoundTrip.ofR .bfi o (by decide) (by decide) rfl fun _ => rfl
theorem Sys2Proof.Laws.RoundTrip.byteperm (o : OpR) : Sys2Proof.Laws.RoundTrip.Statement (.byteperm o) := Sys2Proof.Laws.RoundTrip.ofR .byteperm o (by decide) (by decide) rfl fun _ => rfl
theorem Sys2Proof.Laws.RoundTrip.lea (o : OpR) : Sys2Proof.Laws.RoundTrip.Statement (.lea o) := Sys2Proof.Laws.RoundTrip.ofR .lea o (by decide) (by decide) rfl fun _ => rfl
theorem Sys2Proof.Laws.RoundTrip.iadd64 (o : OpR) : Sys2Proof.Laws.RoundTrip.Statement (.iadd64 o) := Sys2Proof.Laws.RoundTrip.ofR .iadd64 o (by decide) (by decide) rfl fun _ => rfl
theorem Sys2Proof.Laws.RoundTrip.isub64 (o : OpR) : Sys2Proof.Laws.RoundTrip.Statement (.isub64 o) := Sys2Proof.Laws.RoundTrip.ofR .isub64 o (by decide) (by decide) rfl fun _ => rfl
theorem Sys2Proof.Laws.RoundTrip.sadd (o : OpF8) : Sys2Proof.Laws.RoundTrip.Statement (.sadd o) := Sys2Proof.Laws.RoundTrip.ofF8 .sadd o (by decide) (by decide) (by decide) rfl (fun _ _ => rfl) fun _ _ => rfl
theorem Sys2Proof.Laws.RoundTrip.ssub (o : OpF8) : Sys2Proof.Laws.RoundTrip.Statement (.ssub o) := Sys2Proof.Laws.RoundTrip.ofF8 .ssub o (by decide) (by decide) (by decide) rfl (fun _ _ => rfl) fun _ _ => rfl
theorem Sys2Proof.Laws.RoundTrip.smul (o : OpF8) : Sys2Proof.Laws.RoundTrip.Statement (.smul o) := Sys2Proof.Laws.RoundTrip.ofF8 .smul o (by decide) (by decide) (by decide) rfl (fun _ _ => rfl) fun _ _ => rfl
theorem Sys2Proof.Laws.RoundTrip.sand (o : OpF8) : Sys2Proof.Laws.RoundTrip.Statement (.sand o) := Sys2Proof.Laws.RoundTrip.ofF8 .sand o (by decide) (by decide) (by decide) rfl (fun _ _ => rfl) fun _ _ => rfl
theorem Sys2Proof.Laws.RoundTrip.sor (o : OpF8) : Sys2Proof.Laws.RoundTrip.Statement (.sor o) := Sys2Proof.Laws.RoundTrip.ofF8 .sor o (by decide) (by decide) (by decide) rfl (fun _ _ => rfl) fun _ _ => rfl
theorem Sys2Proof.Laws.RoundTrip.sxor (o : OpF8) : Sys2Proof.Laws.RoundTrip.Statement (.sxor o) := Sys2Proof.Laws.RoundTrip.ofF8 .sxor o (by decide) (by decide) (by decide) rfl (fun _ _ => rfl) fun _ _ => rfl
theorem Sys2Proof.Laws.RoundTrip.sshl (o : OpF8) : Sys2Proof.Laws.RoundTrip.Statement (.sshl o) := Sys2Proof.Laws.RoundTrip.ofF8 .sshl o (by decide) (by decide) (by decide) rfl (fun _ _ => rfl) fun _ _ => rfl
theorem Sys2Proof.Laws.RoundTrip.sshr (o : OpF8) : Sys2Proof.Laws.RoundTrip.Statement (.sshr o) := Sys2Proof.Laws.RoundTrip.ofF8 .sshr o (by decide) (by decide) (by decide) rfl (fun _ _ => rfl) fun _ _ => rfl
theorem Sys2Proof.Laws.RoundTrip.ssetp (cmp : BitVec 4) (o : OpF8) : Sys2Proof.Laws.RoundTrip.Statement (.ssetp cmp o) := by
  refine Sys2Proof.Laws.RoundTrip.ofF8 (.ssetp cmp) o (by decide) (by decide) (by omega) rfl (fun _ _ => rfl) fun t m => ?_
  have : ∀ c : BitVec 4, decodeUniform t m (16 + c.toNat) = some (.ssetp c (f8Fields t m)) := by
    intro c
    have hc := c.isLt
    unfold decodeUniform
    have e : (16 + c.toNat) / 16 = 1 := by omega
    have e2 : BitVec.ofNat 4 (16 + c.toNat) = c := by
      apply BitVec.eq_of_toNat_eq; simp; omega
    split <;> first | omega | simp [e, e2]
  exact this cmp
theorem Sys2Proof.Laws.RoundTrip.setp (o : OpR) : Sys2Proof.Laws.RoundTrip.Statement (.setp o) := Sys2Proof.Laws.RoundTrip.ofR .setp o (by decide) (by decide) rfl fun _ => rfl
theorem Sys2Proof.Laws.RoundTrip.sel (o : OpR) : Sys2Proof.Laws.RoundTrip.Statement (.sel o) := Sys2Proof.Laws.RoundTrip.ofR .sel o (by decide) (by decide) rfl fun _ => rfl
theorem Sys2Proof.Laws.RoundTrip.plop (o : OpR) : Sys2Proof.Laws.RoundTrip.Statement (.plop o) := Sys2Proof.Laws.RoundTrip.ofR .plop o (by decide) (by decide) rfl fun _ => rfl
theorem Sys2Proof.Laws.RoundTrip.idot4I8 (o : OpR) : Sys2Proof.Laws.RoundTrip.Statement (.idot4I8 o) := Sys2Proof.Laws.RoundTrip.ofR .idot4I8 o (by decide) (by decide) rfl fun _ => rfl
theorem Sys2Proof.Laws.RoundTrip.idot4N8 (o : OpR) : Sys2Proof.Laws.RoundTrip.Statement (.idot4N8 o) := Sys2Proof.Laws.RoundTrip.ofR .idot4N8 o (by decide) (by decide) rfl fun _ => rfl
theorem Sys2Proof.Laws.RoundTrip.idot4I4 (o : OpR) : Sys2Proof.Laws.RoundTrip.Statement (.idot4I4 o) := Sys2Proof.Laws.RoundTrip.ofR .idot4I4 o (by decide) (by decide) rfl fun _ => rfl
theorem Sys2Proof.Laws.RoundTrip.idot4N4 (o : OpR) : Sys2Proof.Laws.RoundTrip.Statement (.idot4N4 o) := Sys2Proof.Laws.RoundTrip.ofR .idot4N4 o (by decide) (by decide) rfl fun _ => rfl
theorem Sys2Proof.Laws.RoundTrip.fadd (o : OpR) : Sys2Proof.Laws.RoundTrip.Statement (.fadd o) := Sys2Proof.Laws.RoundTrip.ofR .fadd o (by decide) (by decide) rfl fun _ => rfl
theorem Sys2Proof.Laws.RoundTrip.fsub (o : OpR) : Sys2Proof.Laws.RoundTrip.Statement (.fsub o) := Sys2Proof.Laws.RoundTrip.ofR .fsub o (by decide) (by decide) rfl fun _ => rfl
theorem Sys2Proof.Laws.RoundTrip.fmul (o : OpR) : Sys2Proof.Laws.RoundTrip.Statement (.fmul o) := Sys2Proof.Laws.RoundTrip.ofR .fmul o (by decide) (by decide) rfl fun _ => rfl
theorem Sys2Proof.Laws.RoundTrip.ffma (o : OpR) : Sys2Proof.Laws.RoundTrip.Statement (.ffma o) := Sys2Proof.Laws.RoundTrip.ofR .ffma o (by decide) (by decide) rfl fun _ => rfl
theorem Sys2Proof.Laws.RoundTrip.fmin (o : OpR) : Sys2Proof.Laws.RoundTrip.Statement (.fmin o) := Sys2Proof.Laws.RoundTrip.ofR .fmin o (by decide) (by decide) rfl fun _ => rfl
theorem Sys2Proof.Laws.RoundTrip.fmax (o : OpR) : Sys2Proof.Laws.RoundTrip.Statement (.fmax o) := Sys2Proof.Laws.RoundTrip.ofR .fmax o (by decide) (by decide) rfl fun _ => rfl
theorem Sys2Proof.Laws.RoundTrip.fdiv (o : OpR) : Sys2Proof.Laws.RoundTrip.Statement (.fdiv o) := Sys2Proof.Laws.RoundTrip.ofR .fdiv o (by decide) (by decide) rfl fun _ => rfl
theorem Sys2Proof.Laws.RoundTrip.fsqrt (o : OpU) : Sys2Proof.Laws.RoundTrip.Statement (.fsqrt o) := Sys2Proof.Laws.RoundTrip.ofU .fsqrt decodeFp1 o (by decide) (by decide) (by decide) rfl (fun _ _ => rfl) fun _ _ => rfl
theorem Sys2Proof.Laws.RoundTrip.frcp (o : OpU) : Sys2Proof.Laws.RoundTrip.Statement (.frcp o) := Sys2Proof.Laws.RoundTrip.ofU .frcp decodeFp1 o (by decide) (by decide) (by decide) rfl (fun _ _ => rfl) fun _ _ => rfl
theorem Sys2Proof.Laws.RoundTrip.frsq (o : OpU) : Sys2Proof.Laws.RoundTrip.Statement (.frsq o) := Sys2Proof.Laws.RoundTrip.ofU .frsq decodeFp1 o (by decide) (by decide) (by decide) rfl (fun _ _ => rfl) fun _ _ => rfl
theorem Sys2Proof.Laws.RoundTrip.fex2 (o : OpU) : Sys2Proof.Laws.RoundTrip.Statement (.fex2 o) := Sys2Proof.Laws.RoundTrip.ofU .fex2 decodeFp1 o (by decide) (by decide) (by decide) rfl (fun _ _ => rfl) fun _ _ => rfl
theorem Sys2Proof.Laws.RoundTrip.flg2 (o : OpU) : Sys2Proof.Laws.RoundTrip.Statement (.flg2 o) := Sys2Proof.Laws.RoundTrip.ofU .flg2 decodeFp1 o (by decide) (by decide) (by decide) rfl (fun _ _ => rfl) fun _ _ => rfl
theorem Sys2Proof.Laws.RoundTrip.fsin (o : OpU) : Sys2Proof.Laws.RoundTrip.Statement (.fsin o) := Sys2Proof.Laws.RoundTrip.ofU .fsin decodeFp1 o (by decide) (by decide) (by decide) rfl (fun _ _ => rfl) fun _ _ => rfl
theorem Sys2Proof.Laws.RoundTrip.fcos (o : OpU) : Sys2Proof.Laws.RoundTrip.Statement (.fcos o) := Sys2Proof.Laws.RoundTrip.ofU .fcos decodeFp1 o (by decide) (by decide) (by decide) rfl (fun _ _ => rfl) fun _ _ => rfl
theorem Sys2Proof.Laws.RoundTrip.ftanh (o : OpU) : Sys2Proof.Laws.RoundTrip.Statement (.ftanh o) := Sys2Proof.Laws.RoundTrip.ofU .ftanh decodeFp1 o (by decide) (by decide) (by decide) rfl (fun _ _ => rfl) fun _ _ => rfl
theorem Sys2Proof.Laws.RoundTrip.frnd (o : OpU) : Sys2Proof.Laws.RoundTrip.Statement (.frnd o) := Sys2Proof.Laws.RoundTrip.ofU .frnd decodeFp1 o (by decide) (by decide) (by decide) rfl (fun _ _ => rfl) fun _ _ => rfl
theorem Sys2Proof.Laws.RoundTrip.fclass (o : OpU) : Sys2Proof.Laws.RoundTrip.Statement (.fclass o) := Sys2Proof.Laws.RoundTrip.ofU .fclass decodeFp1 o (by decide) (by decide) (by decide) rfl (fun _ _ => rfl) fun _ _ => rfl
theorem Sys2Proof.Laws.RoundTrip.fsetp (o : OpR) : Sys2Proof.Laws.RoundTrip.Statement (.fsetp o) := Sys2Proof.Laws.RoundTrip.ofR .fsetp o (by decide) (by decide) rfl fun _ => rfl
theorem Sys2Proof.Laws.RoundTrip.fscale (o : OpR) : Sys2Proof.Laws.RoundTrip.Statement (.fscale o) := Sys2Proof.Laws.RoundTrip.ofR .fscale o (by decide) (by decide) rfl fun _ => rfl
theorem Sys2Proof.Laws.RoundTrip.frexp (o : OpR) : Sys2Proof.Laws.RoundTrip.Statement (.frexp o) := Sys2Proof.Laws.RoundTrip.ofR .frexp o (by decide) (by decide) rfl fun _ => rfl
theorem Sys2Proof.Laws.RoundTrip.dadd (o : OpR) : Sys2Proof.Laws.RoundTrip.Statement (.dadd o) := Sys2Proof.Laws.RoundTrip.ofR .dadd o (by decide) (by decide) rfl fun _ => rfl
theorem Sys2Proof.Laws.RoundTrip.dsub (o : OpR) : Sys2Proof.Laws.RoundTrip.Statement (.dsub o) := Sys2Proof.Laws.RoundTrip.ofR .dsub o (by decide) (by decide) rfl fun _ => rfl
theorem Sys2Proof.Laws.RoundTrip.dmul (o : OpR) : Sys2Proof.Laws.RoundTrip.Statement (.dmul o) := Sys2Proof.Laws.RoundTrip.ofR .dmul o (by decide) (by decide) rfl fun _ => rfl
theorem Sys2Proof.Laws.RoundTrip.dfma (o : OpR) : Sys2Proof.Laws.RoundTrip.Statement (.dfma o) := Sys2Proof.Laws.RoundTrip.ofR .dfma o (by decide) (by decide) rfl fun _ => rfl
theorem Sys2Proof.Laws.RoundTrip.dmin (o : OpR) : Sys2Proof.Laws.RoundTrip.Statement (.dmin o) := Sys2Proof.Laws.RoundTrip.ofR .dmin o (by decide) (by decide) rfl fun _ => rfl
theorem Sys2Proof.Laws.RoundTrip.dmax (o : OpR) : Sys2Proof.Laws.RoundTrip.Statement (.dmax o) := Sys2Proof.Laws.RoundTrip.ofR .dmax o (by decide) (by decide) rfl fun _ => rfl
theorem Sys2Proof.Laws.RoundTrip.ddiv (o : OpR) : Sys2Proof.Laws.RoundTrip.Statement (.ddiv o) := Sys2Proof.Laws.RoundTrip.ofR .ddiv o (by decide) (by decide) rfl fun _ => rfl
theorem Sys2Proof.Laws.RoundTrip.dsqrt (o : OpU) : Sys2Proof.Laws.RoundTrip.Statement (.dsqrt o) := Sys2Proof.Laws.RoundTrip.ofU .dsqrt decodeDp1 o (by decide) (by decide) (by decide) rfl (fun _ _ => rfl) fun _ _ => rfl
theorem Sys2Proof.Laws.RoundTrip.drcp (o : OpU) : Sys2Proof.Laws.RoundTrip.Statement (.drcp o) := Sys2Proof.Laws.RoundTrip.ofU .drcp decodeDp1 o (by decide) (by decide) (by decide) rfl (fun _ _ => rfl) fun _ _ => rfl
theorem Sys2Proof.Laws.RoundTrip.drnd (o : OpU) : Sys2Proof.Laws.RoundTrip.Statement (.drnd o) := Sys2Proof.Laws.RoundTrip.ofU .drnd decodeDp1 o (by decide) (by decide) (by decide) rfl (fun _ _ => rfl) fun _ _ => rfl
theorem Sys2Proof.Laws.RoundTrip.dsetp (o : OpR) : Sys2Proof.Laws.RoundTrip.Statement (.dsetp o) := Sys2Proof.Laws.RoundTrip.ofR .dsetp o (by decide) (by decide) rfl fun _ => rfl
theorem Sys2Proof.Laws.RoundTrip.pkaddF16 (o : OpR) : Sys2Proof.Laws.RoundTrip.Statement (.pkaddF16 o) := Sys2Proof.Laws.RoundTrip.ofR .pkaddF16 o (by decide) (by decide) rfl fun _ => rfl
theorem Sys2Proof.Laws.RoundTrip.pkaddBf16 (o : OpR) : Sys2Proof.Laws.RoundTrip.Statement (.pkaddBf16 o) := Sys2Proof.Laws.RoundTrip.ofR .pkaddBf16 o (by decide) (by decide) rfl fun _ => rfl
theorem Sys2Proof.Laws.RoundTrip.pkmulF16 (o : OpR) : Sys2Proof.Laws.RoundTrip.Statement (.pkmulF16 o) := Sys2Proof.Laws.RoundTrip.ofR .pkmulF16 o (by decide) (by decide) rfl fun _ => rfl
theorem Sys2Proof.Laws.RoundTrip.pkmulBf16 (o : OpR) : Sys2Proof.Laws.RoundTrip.Statement (.pkmulBf16 o) := Sys2Proof.Laws.RoundTrip.ofR .pkmulBf16 o (by decide) (by decide) rfl fun _ => rfl
theorem Sys2Proof.Laws.RoundTrip.pkfmaF16 (o : OpR) : Sys2Proof.Laws.RoundTrip.Statement (.pkfmaF16 o) := Sys2Proof.Laws.RoundTrip.ofR .pkfmaF16 o (by decide) (by decide) rfl fun _ => rfl
theorem Sys2Proof.Laws.RoundTrip.pkfmaBf16 (o : OpR) : Sys2Proof.Laws.RoundTrip.Statement (.pkfmaBf16 o) := Sys2Proof.Laws.RoundTrip.ofR .pkfmaBf16 o (by decide) (by decide) rfl fun _ => rfl
theorem Sys2Proof.Laws.RoundTrip.pkminF16 (o : OpR) : Sys2Proof.Laws.RoundTrip.Statement (.pkminF16 o) := Sys2Proof.Laws.RoundTrip.ofR .pkminF16 o (by decide) (by decide) rfl fun _ => rfl
theorem Sys2Proof.Laws.RoundTrip.pkminBf16 (o : OpR) : Sys2Proof.Laws.RoundTrip.Statement (.pkminBf16 o) := Sys2Proof.Laws.RoundTrip.ofR .pkminBf16 o (by decide) (by decide) rfl fun _ => rfl
theorem Sys2Proof.Laws.RoundTrip.pkmaxF16 (o : OpR) : Sys2Proof.Laws.RoundTrip.Statement (.pkmaxF16 o) := Sys2Proof.Laws.RoundTrip.ofR .pkmaxF16 o (by decide) (by decide) rfl fun _ => rfl
theorem Sys2Proof.Laws.RoundTrip.pkmaxBf16 (o : OpR) : Sys2Proof.Laws.RoundTrip.Statement (.pkmaxBf16 o) := Sys2Proof.Laws.RoundTrip.ofR .pkmaxBf16 o (by decide) (by decide) rfl fun _ => rfl
theorem Sys2Proof.Laws.RoundTrip.pksetpF16 (o : OpR) : Sys2Proof.Laws.RoundTrip.Statement (.pksetpF16 o) := Sys2Proof.Laws.RoundTrip.ofR .pksetpF16 o (by decide) (by decide) rfl fun _ => rfl
theorem Sys2Proof.Laws.RoundTrip.pksetpBf16 (o : OpR) : Sys2Proof.Laws.RoundTrip.Statement (.pksetpBf16 o) := Sys2Proof.Laws.RoundTrip.ofR .pksetpBf16 o (by decide) (by decide) rfl fun _ => rfl
theorem Sys2Proof.Laws.RoundTrip.cvt (o : OpT) : Sys2Proof.Laws.RoundTrip.Statement (.cvt o) := Sys2Proof.Laws.RoundTrip.ofT .cvt o (by decide) (by decide) rfl rfl
theorem Sys2Proof.Laws.RoundTrip.pack (o : OpT) : Sys2Proof.Laws.RoundTrip.Statement (.pack o) := Sys2Proof.Laws.RoundTrip.ofT .pack o (by decide) (by decide) rfl rfl
theorem Sys2Proof.Laws.RoundTrip.unpk (o : OpT) : Sys2Proof.Laws.RoundTrip.Statement (.unpk o) := Sys2Proof.Laws.RoundTrip.ofT .unpk o (by decide) (by decide) rfl rfl
theorem Sys2Proof.Laws.RoundTrip.mxq (o : OpT) : Sys2Proof.Laws.RoundTrip.Statement (.mxq o) := Sys2Proof.Laws.RoundTrip.ofT .mxq o (by decide) (by decide) rfl rfl
theorem Sys2Proof.Laws.RoundTrip.mxdq (o : OpT) : Sys2Proof.Laws.RoundTrip.Statement (.mxdq o) := Sys2Proof.Laws.RoundTrip.ofT .mxdq o (by decide) (by decide) rfl rfl
theorem Sys2Proof.Laws.RoundTrip.fenv (o : OpR) : Sys2Proof.Laws.RoundTrip.Statement (.fenv o) := Sys2Proof.Laws.RoundTrip.ofR .fenv o (by decide) (by decide) rfl fun _ => rfl
theorem Sys2Proof.Laws.RoundTrip.fflg (o : OpR) : Sys2Proof.Laws.RoundTrip.Statement (.fflg o) := Sys2Proof.Laws.RoundTrip.ofR .fflg o (by decide) (by decide) rfl fun _ => rfl
theorem Sys2Proof.Laws.RoundTrip.kmov (o : OpR) : Sys2Proof.Laws.RoundTrip.Statement (.kmov o) := Sys2Proof.Laws.RoundTrip.ofR .kmov o (by decide) (by decide) rfl fun _ => rfl
theorem Sys2Proof.Laws.RoundTrip.kop (o : OpR) : Sys2Proof.Laws.RoundTrip.Statement (.kop o) := Sys2Proof.Laws.RoundTrip.ofR .kop o (by decide) (by decide) rfl fun _ => rfl
theorem Sys2Proof.Laws.RoundTrip.kpop (o : OpR) : Sys2Proof.Laws.RoundTrip.Statement (.kpop o) := Sys2Proof.Laws.RoundTrip.ofR .kpop o (by decide) (by decide) rfl fun _ => rfl
theorem Sys2Proof.Laws.RoundTrip.join (o : OpR) : Sys2Proof.Laws.RoundTrip.Statement (.join o) := Sys2Proof.Laws.RoundTrip.ofR .join o (by decide) (by decide) rfl fun _ => rfl
theorem Sys2Proof.Laws.RoundTrip.leave (o : OpR) : Sys2Proof.Laws.RoundTrip.Statement (.leave o) := Sys2Proof.Laws.RoundTrip.ofR .leave o (by decide) (by decide) rfl fun _ => rfl
theorem Sys2Proof.Laws.RoundTrip.waitk (o : OpR) : Sys2Proof.Laws.RoundTrip.Statement (.waitk o) := Sys2Proof.Laws.RoundTrip.ofR .waitk o (by decide) (by decide) rfl fun _ => rfl
theorem Sys2Proof.Laws.RoundTrip.vote (o : OpR) : Sys2Proof.Laws.RoundTrip.Statement (.vote o) := Sys2Proof.Laws.RoundTrip.ofR .vote o (by decide) (by decide) rfl fun _ => rfl
theorem Sys2Proof.Laws.RoundTrip.shfl (o : OpR) : Sys2Proof.Laws.RoundTrip.Statement (.shfl o) := Sys2Proof.Laws.RoundTrip.ofR .shfl o (by decide) (by decide) rfl fun _ => rfl
theorem Sys2Proof.Laws.RoundTrip.redux (o : OpR) : Sys2Proof.Laws.RoundTrip.Statement (.redux o) := Sys2Proof.Laws.RoundTrip.ofR .redux o (by decide) (by decide) rfl fun _ => rfl
theorem Sys2Proof.Laws.RoundTrip.matchLanes (o : OpR) : Sys2Proof.Laws.RoundTrip.Statement (.matchLanes o) := Sys2Proof.Laws.RoundTrip.ofR .matchLanes o (by decide) (by decide) rfl fun _ => rfl
theorem Sys2Proof.Laws.RoundTrip.scan (o : OpR) : Sys2Proof.Laws.RoundTrip.Statement (.scan o) := Sys2Proof.Laws.RoundTrip.ofR .scan o (by decide) (by decide) rfl fun _ => rfl
theorem Sys2Proof.Laws.RoundTrip.elect (o : OpR) : Sys2Proof.Laws.RoundTrip.Statement (.elect o) := Sys2Proof.Laws.RoundTrip.ofR .elect o (by decide) (by decide) rfl fun _ => rfl
theorem Sys2Proof.Laws.RoundTrip.bra (o : OpJ) : Sys2Proof.Laws.RoundTrip.Statement (.bra o) := Sys2Proof.Laws.RoundTrip.ofJ .bra o (by decide) (by decide) rfl rfl
theorem Sys2Proof.Laws.RoundTrip.brc (o : OpJ) : Sys2Proof.Laws.RoundTrip.Statement (.brc o) := Sys2Proof.Laws.RoundTrip.ofJ .brc o (by decide) (by decide) rfl rfl
theorem Sys2Proof.Laws.RoundTrip.jmp (o : OpR) : Sys2Proof.Laws.RoundTrip.Statement (.jmp o) := Sys2Proof.Laws.RoundTrip.ofR .jmp o (by decide) (by decide) rfl fun _ => rfl
theorem Sys2Proof.Laws.RoundTrip.call (o : OpJ) : Sys2Proof.Laws.RoundTrip.Statement (.call o) := Sys2Proof.Laws.RoundTrip.ofJ .call o (by decide) (by decide) rfl rfl
theorem Sys2Proof.Laws.RoundTrip.calli (o : OpR) : Sys2Proof.Laws.RoundTrip.Statement (.calli o) := Sys2Proof.Laws.RoundTrip.ofR .calli o (by decide) (by decide) rfl fun _ => rfl
theorem Sys2Proof.Laws.RoundTrip.ret (o : OpZ) : Sys2Proof.Laws.RoundTrip.Statement (.ret o) := Sys2Proof.Laws.RoundTrip.ofZ .ret o (by decide) (by decide) rfl rfl
theorem Sys2Proof.Laws.RoundTrip.exit (o : OpZ) : Sys2Proof.Laws.RoundTrip.Statement (.exit o) := Sys2Proof.Laws.RoundTrip.ofZ .exit o (by decide) (by decide) rfl rfl
theorem Sys2Proof.Laws.RoundTrip.region : Sys2Proof.Laws.RoundTrip.Statement .region := Sys2Proof.Laws.RoundTrip.ofBare .region (by decide) (by decide) rfl rfl
theorem Sys2Proof.Laws.RoundTrip.yield (o : OpZ) : Sys2Proof.Laws.RoundTrip.Statement (.yield o) := Sys2Proof.Laws.RoundTrip.ofZ .yield o (by decide) (by decide) rfl rfl
theorem Sys2Proof.Laws.RoundTrip.nop : Sys2Proof.Laws.RoundTrip.Statement .nop := Sys2Proof.Laws.RoundTrip.ofBare .nop (by decide) (by decide) rfl rfl
theorem Sys2Proof.Laws.RoundTrip.sleep (o : OpI) : Sys2Proof.Laws.RoundTrip.Statement (.sleep o) := Sys2Proof.Laws.RoundTrip.ofI .sleep o (by decide) (by decide) rfl rfl
theorem Sys2Proof.Laws.RoundTrip.ldN8 (o : OpI) : Sys2Proof.Laws.RoundTrip.Statement (.ldN8 o) := Sys2Proof.Laws.RoundTrip.ofI .ldN8 o (by decide) (by decide) rfl rfl
theorem Sys2Proof.Laws.RoundTrip.ldI8 (o : OpI) : Sys2Proof.Laws.RoundTrip.Statement (.ldI8 o) := Sys2Proof.Laws.RoundTrip.ofI .ldI8 o (by decide) (by decide) rfl rfl
theorem Sys2Proof.Laws.RoundTrip.ldN16 (o : OpI) : Sys2Proof.Laws.RoundTrip.Statement (.ldN16 o) := Sys2Proof.Laws.RoundTrip.ofI .ldN16 o (by decide) (by decide) rfl rfl
theorem Sys2Proof.Laws.RoundTrip.ldI16 (o : OpI) : Sys2Proof.Laws.RoundTrip.Statement (.ldI16 o) := Sys2Proof.Laws.RoundTrip.ofI .ldI16 o (by decide) (by decide) rfl rfl
theorem Sys2Proof.Laws.RoundTrip.ldB32 (o : OpI) : Sys2Proof.Laws.RoundTrip.Statement (.ldB32 o) := Sys2Proof.Laws.RoundTrip.ofI .ldB32 o (by decide) (by decide) rfl rfl
theorem Sys2Proof.Laws.RoundTrip.ldB64 (o : OpI) : Sys2Proof.Laws.RoundTrip.Statement (.ldB64 o) := Sys2Proof.Laws.RoundTrip.ofI .ldB64 o (by decide) (by decide) rfl rfl
theorem Sys2Proof.Laws.RoundTrip.ldB128 (o : OpI) : Sys2Proof.Laws.RoundTrip.Statement (.ldB128 o) := Sys2Proof.Laws.RoundTrip.ofI .ldB128 o (by decide) (by decide) rfl rfl
theorem Sys2Proof.Laws.RoundTrip.stB8 (o : OpI) : Sys2Proof.Laws.RoundTrip.Statement (.stB8 o) := Sys2Proof.Laws.RoundTrip.ofI .stB8 o (by decide) (by decide) rfl rfl
theorem Sys2Proof.Laws.RoundTrip.stB16 (o : OpI) : Sys2Proof.Laws.RoundTrip.Statement (.stB16 o) := Sys2Proof.Laws.RoundTrip.ofI .stB16 o (by decide) (by decide) rfl rfl
theorem Sys2Proof.Laws.RoundTrip.stB32 (o : OpI) : Sys2Proof.Laws.RoundTrip.Statement (.stB32 o) := Sys2Proof.Laws.RoundTrip.ofI .stB32 o (by decide) (by decide) rfl rfl
theorem Sys2Proof.Laws.RoundTrip.stB64 (o : OpI) : Sys2Proof.Laws.RoundTrip.Statement (.stB64 o) := Sys2Proof.Laws.RoundTrip.ofI .stB64 o (by decide) (by decide) rfl rfl
theorem Sys2Proof.Laws.RoundTrip.stB128 (o : OpI) : Sys2Proof.Laws.RoundTrip.Statement (.stB128 o) := Sys2Proof.Laws.RoundTrip.ofI .stB128 o (by decide) (by decide) rfl rfl
theorem Sys2Proof.Laws.RoundTrip.ldp (o : OpI) : Sys2Proof.Laws.RoundTrip.Statement (.ldp o) := Sys2Proof.Laws.RoundTrip.ofI .ldp o (by decide) (by decide) rfl rfl
theorem Sys2Proof.Laws.RoundTrip.stp (o : OpI) : Sys2Proof.Laws.RoundTrip.Statement (.stp o) := Sys2Proof.Laws.RoundTrip.ofI .stp o (by decide) (by decide) rfl rfl
theorem Sys2Proof.Laws.RoundTrip.pref (o : OpI) : Sys2Proof.Laws.RoundTrip.Statement (.pref o) := Sys2Proof.Laws.RoundTrip.ofI .pref o (by decide) (by decide) rfl rfl
theorem Sys2Proof.Laws.RoundTrip.cctlIi (o : OpR) : Sys2Proof.Laws.RoundTrip.Statement (.cctlIi o) := by
  refine Sys2Proof.Laws.RoundTrip.ofCctl (k := 0) .cctlIi o rfl (fun _ _ => rfl) fun h => ?_
  simp only [Instr.wf, Bool.and_eq_true, beq_iff_eq] at h
  exact congrArg BitVec.toNat h.1.2
theorem Sys2Proof.Laws.RoundTrip.cctlWb (o : OpR) : Sys2Proof.Laws.RoundTrip.Statement (.cctlWb o) := by
  refine Sys2Proof.Laws.RoundTrip.ofCctl (k := 1) .cctlWb o rfl (fun _ _ => rfl) fun h => ?_
  simp only [Instr.wf, Bool.and_eq_true, beq_iff_eq] at h
  exact congrArg BitVec.toNat h.1.2
theorem Sys2Proof.Laws.RoundTrip.cctlInv (o : OpR) : Sys2Proof.Laws.RoundTrip.Statement (.cctlInv o) := by
  refine Sys2Proof.Laws.RoundTrip.ofCctl (k := 2) .cctlInv o rfl (fun _ _ => rfl) fun h => ?_
  simp only [Instr.wf, Bool.and_eq_true, beq_iff_eq] at h
  exact congrArg BitVec.toNat h.1.2
theorem Sys2Proof.Laws.RoundTrip.cctlWbAll (o : OpR) : Sys2Proof.Laws.RoundTrip.Statement (.cctlWbAll o) := by
  refine Sys2Proof.Laws.RoundTrip.ofCctl (k := 3) .cctlWbAll o rfl (fun _ _ => rfl) fun h => ?_
  simp only [Instr.wf, Bool.and_eq_true, beq_iff_eq] at h
  exact congrArg BitVec.toNat h.1.2
theorem Sys2Proof.Laws.RoundTrip.cctlInvAll (o : OpR) : Sys2Proof.Laws.RoundTrip.Statement (.cctlInvAll o) := by
  refine Sys2Proof.Laws.RoundTrip.ofCctl (k := 4) .cctlInvAll o rfl (fun _ _ => rfl) fun h => ?_
  simp only [Instr.wf, Bool.and_eq_true, beq_iff_eq] at h
  exact congrArg BitVec.toNat h.1.2
theorem Sys2Proof.Laws.RoundTrip.cctlRodrop (o : OpR) : Sys2Proof.Laws.RoundTrip.Statement (.cctlRodrop o) := by
  refine Sys2Proof.Laws.RoundTrip.ofCctl (k := 5) .cctlRodrop o rfl (fun _ _ => rfl) fun h => ?_
  simp only [Instr.wf, Bool.and_eq_true, beq_iff_eq] at h
  exact congrArg BitVec.toNat h.1.2
theorem Sys2Proof.Laws.RoundTrip.fenceAr (o : OpR) : Sys2Proof.Laws.RoundTrip.Statement (.fenceAr o) := by
  refine Sys2Proof.Laws.RoundTrip.ofFence (k := 0) .fenceAr o rfl (fun _ _ => rfl) fun h => ?_
  simp only [Instr.wf, fenceD, Bool.and_eq_true, beq_iff_eq] at h
  exact h.1.2.1
theorem Sys2Proof.Laws.RoundTrip.fenceAcq (o : OpR) : Sys2Proof.Laws.RoundTrip.Statement (.fenceAcq o) := by
  refine Sys2Proof.Laws.RoundTrip.ofFence (k := 1) .fenceAcq o rfl (fun _ _ => rfl) fun h => ?_
  simp only [Instr.wf, fenceD, Bool.and_eq_true, beq_iff_eq] at h
  exact h.1.2.1
theorem Sys2Proof.Laws.RoundTrip.fenceRel (o : OpR) : Sys2Proof.Laws.RoundTrip.Statement (.fenceRel o) := by
  refine Sys2Proof.Laws.RoundTrip.ofFence (k := 2) .fenceRel o rfl (fun _ _ => rfl) fun h => ?_
  simp only [Instr.wf, fenceD, Bool.and_eq_true, beq_iff_eq] at h
  exact h.1.2.1
theorem Sys2Proof.Laws.RoundTrip.fenceSc (o : OpR) : Sys2Proof.Laws.RoundTrip.Statement (.fenceSc o) := by
  refine Sys2Proof.Laws.RoundTrip.ofFence (k := 3) .fenceSc o rfl (fun _ _ => rfl) fun h => ?_
  simp only [Instr.wf, fenceD, Bool.and_eq_true, beq_iff_eq] at h
  exact h.1.2.1
theorem Sys2Proof.Laws.RoundTrip.atomB32 (o : OpR) : Sys2Proof.Laws.RoundTrip.Statement (.atomB32 o) := Sys2Proof.Laws.RoundTrip.ofR .atomB32 o (by decide) (by decide) rfl fun _ => rfl
theorem Sys2Proof.Laws.RoundTrip.atomB64 (o : OpR) : Sys2Proof.Laws.RoundTrip.Statement (.atomB64 o) := Sys2Proof.Laws.RoundTrip.ofR .atomB64 o (by decide) (by decide) rfl fun _ => rfl
theorem Sys2Proof.Laws.RoundTrip.casB32 (o : OpR) : Sys2Proof.Laws.RoundTrip.Statement (.casB32 o) := Sys2Proof.Laws.RoundTrip.ofR .casB32 o (by decide) (by decide) rfl fun _ => rfl
theorem Sys2Proof.Laws.RoundTrip.casB64 (o : OpR) : Sys2Proof.Laws.RoundTrip.Statement (.casB64 o) := Sys2Proof.Laws.RoundTrip.ofR .casB64 o (by decide) (by decide) rfl fun _ => rfl
theorem Sys2Proof.Laws.RoundTrip.ldacqB32 (o : OpI) : Sys2Proof.Laws.RoundTrip.Statement (.ldacqB32 o) := Sys2Proof.Laws.RoundTrip.ofI .ldacqB32 o (by decide) (by decide) rfl rfl
theorem Sys2Proof.Laws.RoundTrip.ldacqB64 (o : OpI) : Sys2Proof.Laws.RoundTrip.Statement (.ldacqB64 o) := Sys2Proof.Laws.RoundTrip.ofI .ldacqB64 o (by decide) (by decide) rfl rfl
theorem Sys2Proof.Laws.RoundTrip.strelB32 (o : OpI) : Sys2Proof.Laws.RoundTrip.Statement (.strelB32 o) := Sys2Proof.Laws.RoundTrip.ofI .strelB32 o (by decide) (by decide) rfl rfl
theorem Sys2Proof.Laws.RoundTrip.strelB64 (o : OpI) : Sys2Proof.Laws.RoundTrip.Statement (.strelB64 o) := Sys2Proof.Laws.RoundTrip.ofI .strelB64 o (by decide) (by decide) rfl rfl
theorem Sys2Proof.Laws.RoundTrip.drainst (o : OpZ) : Sys2Proof.Laws.RoundTrip.Statement (.drainst o) := Sys2Proof.Laws.RoundTrip.ofZ .drainst o (by decide) (by decide) rfl rfl
theorem Sys2Proof.Laws.RoundTrip.pgreq (o : OpR) : Sys2Proof.Laws.RoundTrip.Statement (.pgreq o) := Sys2Proof.Laws.RoundTrip.ofR .pgreq o (by decide) (by decide) rfl fun _ => rfl
theorem Sys2Proof.Laws.RoundTrip.pghint (o : OpR) : Sys2Proof.Laws.RoundTrip.Statement (.pghint o) := Sys2Proof.Laws.RoundTrip.ofR .pghint o (by decide) (by decide) rfl fun _ => rfl
theorem Sys2Proof.Laws.RoundTrip.ldtB32 (o : OpI) : Sys2Proof.Laws.RoundTrip.Statement (.ldtB32 o) := Sys2Proof.Laws.RoundTrip.ofI .ldtB32 o (by decide) (by decide) rfl rfl
theorem Sys2Proof.Laws.RoundTrip.ldtB128 (o : OpI) : Sys2Proof.Laws.RoundTrip.Statement (.ldtB128 o) := Sys2Proof.Laws.RoundTrip.ofI .ldtB128 o (by decide) (by decide) rfl rfl
theorem Sys2Proof.Laws.RoundTrip.sttB32 (o : OpI) : Sys2Proof.Laws.RoundTrip.Statement (.sttB32 o) := Sys2Proof.Laws.RoundTrip.ofI .sttB32 o (by decide) (by decide) rfl rfl
theorem Sys2Proof.Laws.RoundTrip.sttB128 (o : OpI) : Sys2Proof.Laws.RoundTrip.Statement (.sttB128 o) := Sys2Proof.Laws.RoundTrip.ofI .sttB128 o (by decide) (by decide) rfl rfl
theorem Sys2Proof.Laws.RoundTrip.tzero (o : OpR) : Sys2Proof.Laws.RoundTrip.Statement (.tzero o) := Sys2Proof.Laws.RoundTrip.ofR .tzero o (by decide) (by decide) rfl fun _ => rfl
theorem Sys2Proof.Laws.RoundTrip.syncarm (o : OpR) : Sys2Proof.Laws.RoundTrip.Statement (.syncarm o) := Sys2Proof.Laws.RoundTrip.ofR .syncarm o (by decide) (by decide) rfl fun _ => rfl
theorem Sys2Proof.Laws.RoundTrip.syncwait (o : OpR) : Sys2Proof.Laws.RoundTrip.Statement (.syncwait o) := Sys2Proof.Laws.RoundTrip.ofR .syncwait o (by decide) (by decide) rfl fun _ => rfl
theorem Sys2Proof.Laws.RoundTrip.acopy (o : OpR) : Sys2Proof.Laws.RoundTrip.Statement (.acopy o) := by
  refine Sys2Proof.Laws.RoundTrip.ofR .acopy o (by decide) (by decide) rfl fun h => ?_
  have e : (cOf o.m).toNat % 2 = 0 := by
    cases hm : o.m with
    | none => simp [Instr.wf, rM, clsM, hm] at h
    | some m =>
      simp [Instr.wf, rM, clsM, Mods.ok, gOnly, hm] at h
      simp [cOf, h]
  show (if (cOf o.m).toNat % 2 == 1 then _ else _) = _
  simp [e]
theorem Sys2Proof.Laws.RoundTrip.acopyQuant (o : OpR) : Sys2Proof.Laws.RoundTrip.Statement (.acopyQuant o) := by
  refine Sys2Proof.Laws.RoundTrip.ofR .acopyQuant o (by decide) (by decide) rfl fun h => ?_
  have e : (cOf o.m).toNat % 2 = 1 := by
    cases hm : o.m with
    | none => simp [Instr.wf, rM, clsM, hm] at h
    | some m =>
      simp [Instr.wf, rM, clsM, Mods.ok, quantC, hm] at h
      simp [cOf, h]
  show (if (cOf o.m).toNat % 2 == 1 then _ else _) = _
  simp [e]
theorem Sys2Proof.Laws.RoundTrip.agath (o : OpR) : Sys2Proof.Laws.RoundTrip.Statement (.agath o) := Sys2Proof.Laws.RoundTrip.ofR .agath o (by decide) (by decide) rfl fun _ => rfl
theorem Sys2Proof.Laws.RoundTrip.ascat (o : OpR) : Sys2Proof.Laws.RoundTrip.Statement (.ascat o) := Sys2Proof.Laws.RoundTrip.ofR .ascat o (by decide) (by decide) rfl fun _ => rfl
theorem Sys2Proof.Laws.RoundTrip.acoll (o : OpR) : Sys2Proof.Laws.RoundTrip.Statement (.acoll o) := Sys2Proof.Laws.RoundTrip.ofR .acoll o (by decide) (by decide) rfl fun _ => rfl
theorem Sys2Proof.Laws.RoundTrip.adigest (o : OpR) : Sys2Proof.Laws.RoundTrip.Statement (.adigest o) := Sys2Proof.Laws.RoundTrip.ofR .adigest o (by decide) (by decide) rfl fun _ => rfl
theorem Sys2Proof.Laws.RoundTrip.await (o : OpR) : Sys2Proof.Laws.RoundTrip.Statement (.await o) := Sys2Proof.Laws.RoundTrip.ofR .await o (by decide) (by decide) rfl fun _ => rfl
theorem Sys2Proof.Laws.RoundTrip.acancel (o : OpR) : Sys2Proof.Laws.RoundTrip.Statement (.acancel o) := Sys2Proof.Laws.RoundTrip.ofR .acancel o (by decide) (by decide) rfl fun _ => rfl
theorem Sys2Proof.Laws.RoundTrip.mma (o : OpR) : Sys2Proof.Laws.RoundTrip.Statement (.mma o) := Sys2Proof.Laws.RoundTrip.ofR .mma o (by decide) (by decide) rfl fun _ => rfl
theorem Sys2Proof.Laws.RoundTrip.mmasp (o : OpR) : Sys2Proof.Laws.RoundTrip.Statement (.mmasp o) := Sys2Proof.Laws.RoundTrip.ofR .mmasp o (by decide) (by decide) rfl fun _ => rfl
theorem Sys2Proof.Laws.RoundTrip.accz (o : OpR) : Sys2Proof.Laws.RoundTrip.Statement (.accz o) := Sys2Proof.Laws.RoundTrip.ofR .accz o (by decide) (by decide) rfl fun _ => rfl
theorem Sys2Proof.Laws.RoundTrip.accld (o : OpR) : Sys2Proof.Laws.RoundTrip.Statement (.accld o) := Sys2Proof.Laws.RoundTrip.ofR .accld o (by decide) (by decide) rfl fun _ => rfl
theorem Sys2Proof.Laws.RoundTrip.accst (o : OpR) : Sys2Proof.Laws.RoundTrip.Statement (.accst o) := Sys2Proof.Laws.RoundTrip.ofR .accst o (by decide) (by decide) rfl fun _ => rfl
theorem Sys2Proof.Laws.RoundTrip.accrd (o : OpR) : Sys2Proof.Laws.RoundTrip.Statement (.accrd o) := Sys2Proof.Laws.RoundTrip.ofR .accrd o (by decide) (by decide) rfl fun _ => rfl
theorem Sys2Proof.Laws.RoundTrip.accwr (o : OpR) : Sys2Proof.Laws.RoundTrip.Statement (.accwr o) := Sys2Proof.Laws.RoundTrip.ofR .accwr o (by decide) (by decide) rfl fun _ => rfl
theorem Sys2Proof.Laws.RoundTrip.mmaflg (o : OpR) : Sys2Proof.Laws.RoundTrip.Statement (.mmaflg o) := Sys2Proof.Laws.RoundTrip.ofR .mmaflg o (by decide) (by decide) rfl fun _ => rfl
theorem Sys2Proof.Laws.RoundTrip.monset (o : OpR) : Sys2Proof.Laws.RoundTrip.Statement (.monset o) := Sys2Proof.Laws.RoundTrip.ofR .monset o (by decide) (by decide) rfl fun _ => rfl
theorem Sys2Proof.Laws.RoundTrip.trxchk (o : OpR) : Sys2Proof.Laws.RoundTrip.Statement (.trxchk o) := Sys2Proof.Laws.RoundTrip.ofR .trxchk o (by decide) (by decide) rfl fun _ => rfl
theorem Sys2Proof.Laws.RoundTrip.trxesc (o : OpZ) : Sys2Proof.Laws.RoundTrip.Statement (.trxesc o) := Sys2Proof.Laws.RoundTrip.ofZ .trxesc o (by decide) (by decide) rfl rfl
theorem Sys2Proof.Laws.RoundTrip.trav (o : OpR) : Sys2Proof.Laws.RoundTrip.Statement (.trav o) := Sys2Proof.Laws.RoundTrip.ofR .trav o (by decide) (by decide) rfl fun _ => rfl
theorem Sys2Proof.Laws.RoundTrip.travst (o : OpR) : Sys2Proof.Laws.RoundTrip.Statement (.travst o) := Sys2Proof.Laws.RoundTrip.ofR .travst o (by decide) (by decide) rfl fun _ => rfl
theorem Sys2Proof.Laws.RoundTrip.barinit (o : OpR) : Sys2Proof.Laws.RoundTrip.Statement (.barinit o) := Sys2Proof.Laws.RoundTrip.ofR .barinit o (by decide) (by decide) rfl fun _ => rfl
theorem Sys2Proof.Laws.RoundTrip.bararr (o : OpR) : Sys2Proof.Laws.RoundTrip.Statement (.bararr o) := Sys2Proof.Laws.RoundTrip.ofR .bararr o (by decide) (by decide) rfl fun _ => rfl
theorem Sys2Proof.Laws.RoundTrip.barwait (o : OpR) : Sys2Proof.Laws.RoundTrip.Statement (.barwait o) := Sys2Proof.Laws.RoundTrip.ofR .barwait o (by decide) (by decide) rfl fun _ => rfl
theorem Sys2Proof.Laws.RoundTrip.bar (o : OpR) : Sys2Proof.Laws.RoundTrip.Statement (.bar o) := Sys2Proof.Laws.RoundTrip.ofR .bar o (by decide) (by decide) rfl fun _ => rfl
theorem Sys2Proof.Laws.RoundTrip.tkwait (o : OpR) : Sys2Proof.Laws.RoundTrip.Statement (.tkwait o) := Sys2Proof.Laws.RoundTrip.ofR .tkwait o (by decide) (by decide) rfl fun _ => rfl
theorem Sys2Proof.Laws.RoundTrip.tkpass (o : OpR) : Sys2Proof.Laws.RoundTrip.Statement (.tkpass o) := Sys2Proof.Laws.RoundTrip.ofR .tkpass o (by decide) (by decide) rfl fun _ => rfl
theorem Sys2Proof.Laws.RoundTrip.spawn (o : OpR) : Sys2Proof.Laws.RoundTrip.Statement (.spawn o) := Sys2Proof.Laws.RoundTrip.ofR .spawn o (by decide) (by decide) rfl fun _ => rfl
theorem Sys2Proof.Laws.RoundTrip.wret (o : OpR) : Sys2Proof.Laws.RoundTrip.Statement (.wret o) := Sys2Proof.Laws.RoundTrip.ofR .wret o (by decide) (by decide) rfl fun _ => rfl
theorem Sys2Proof.Laws.RoundTrip.mwait (o : OpR) : Sys2Proof.Laws.RoundTrip.Statement (.mwait o) := Sys2Proof.Laws.RoundTrip.ofR .mwait o (by decide) (by decide) rfl fun _ => rfl
theorem Sys2Proof.Laws.RoundTrip.red (o : OpR) : Sys2Proof.Laws.RoundTrip.Statement (.red o) := Sys2Proof.Laws.RoundTrip.ofR .red o (by decide) (by decide) rfl fun _ => rfl
theorem Sys2Proof.Laws.RoundTrip.redfl (o : OpR) : Sys2Proof.Laws.RoundTrip.Statement (.redfl o) := Sys2Proof.Laws.RoundTrip.ofR .redfl o (by decide) (by decide) rfl fun _ => rfl
theorem Sys2Proof.Laws.RoundTrip.redarm (o : OpR) : Sys2Proof.Laws.RoundTrip.Statement (.redarm o) := Sys2Proof.Laws.RoundTrip.ofR .redarm o (by decide) (by decide) rfl fun _ => rfl
theorem Sys2Proof.Laws.RoundTrip.ownset (o : OpR) : Sys2Proof.Laws.RoundTrip.Statement (.ownset o) := Sys2Proof.Laws.RoundTrip.ofR .ownset o (by decide) (by decide) rfl fun _ => rfl
theorem Sys2Proof.Laws.RoundTrip.launch (o : OpR) : Sys2Proof.Laws.RoundTrip.Statement (.launch o) := Sys2Proof.Laws.RoundTrip.ofR .launch o (by decide) (by decide) rfl fun _ => rfl
theorem Sys2Proof.Laws.RoundTrip.trap (o : OpI) : Sys2Proof.Laws.RoundTrip.Statement (.trap o) := Sys2Proof.Laws.RoundTrip.ofI .trap o (by decide) (by decide) rfl rfl
theorem Sys2Proof.Laws.RoundTrip.bkpt : Sys2Proof.Laws.RoundTrip.Statement .bkpt := Sys2Proof.Laws.RoundTrip.ofBare .bkpt (by decide) (by decide) rfl rfl
theorem Sys2Proof.Laws.RoundTrip.tret : Sys2Proof.Laws.RoundTrip.Statement .tret := Sys2Proof.Laws.RoundTrip.ofBare .tret (by decide) (by decide) rfl rfl
theorem Sys2Proof.Laws.RoundTrip.killg (o : OpZ) : Sys2Proof.Laws.RoundTrip.Statement (.killg o) := Sys2Proof.Laws.RoundTrip.ofZ .killg o (by decide) (by decide) rfl rfl
theorem Sys2Proof.Laws.RoundTrip.killb (o : OpZ) : Sys2Proof.Laws.RoundTrip.Statement (.killb o) := Sys2Proof.Laws.RoundTrip.ofZ .killb o (by decide) (by decide) rfl rfl
theorem Sys2Proof.Laws.RoundTrip.fltrd (o : OpR) : Sys2Proof.Laws.RoundTrip.Statement (.fltrd o) := Sys2Proof.Laws.RoundTrip.ofR .fltrd o (by decide) (by decide) rfl fun _ => rfl
theorem Sys2Proof.Laws.RoundTrip.waitkRelease : Sys2Proof.Laws.RoundTrip.Statement .waitkRelease := Sys2Proof.Laws.RoundTrip.ofEvent _ rfl
theorem Sys2Proof.Laws.RoundTrip.memberWaitComplete : Sys2Proof.Laws.RoundTrip.Statement .memberWaitComplete := Sys2Proof.Laws.RoundTrip.ofEvent _ rfl
theorem Sys2Proof.Laws.RoundTrip.unsatisfiableWait : Sys2Proof.Laws.RoundTrip.Statement .unsatisfiableWait := Sys2Proof.Laws.RoundTrip.ofEvent _ rfl
theorem Sys2Proof.Laws.RoundTrip.sleepEnd : Sys2Proof.Laws.RoundTrip.Statement .sleepEnd := Sys2Proof.Laws.RoundTrip.ofEvent _ rfl
theorem Sys2Proof.Laws.RoundTrip.syncwaitComplete : Sys2Proof.Laws.RoundTrip.Statement .syncwaitComplete := Sys2Proof.Laws.RoundTrip.ofEvent _ rfl
theorem Sys2Proof.Laws.RoundTrip.collectiveRound : Sys2Proof.Laws.RoundTrip.Statement .collectiveRound := Sys2Proof.Laws.RoundTrip.ofEvent _ rfl
theorem Sys2Proof.Laws.RoundTrip.awaitComplete : Sys2Proof.Laws.RoundTrip.Statement .awaitComplete := Sys2Proof.Laws.RoundTrip.ofEvent _ rfl
theorem Sys2Proof.Laws.RoundTrip.syncWordArrival : Sys2Proof.Laws.RoundTrip.Statement .syncWordArrival := Sys2Proof.Laws.RoundTrip.ofEvent _ rfl
theorem Sys2Proof.Laws.RoundTrip.engineCompletionUpdate : Sys2Proof.Laws.RoundTrip.Statement .engineCompletionUpdate := Sys2Proof.Laws.RoundTrip.ofEvent _ rfl
theorem Sys2Proof.Laws.RoundTrip.matrixOpComplete : Sys2Proof.Laws.RoundTrip.Statement .matrixOpComplete := Sys2Proof.Laws.RoundTrip.ofEvent _ rfl
theorem Sys2Proof.Laws.RoundTrip.ladderAbort : Sys2Proof.Laws.RoundTrip.Statement .ladderAbort := Sys2Proof.Laws.RoundTrip.ofEvent _ rfl
theorem Sys2Proof.Laws.RoundTrip.ladderCommit : Sys2Proof.Laws.RoundTrip.Statement .ladderCommit := Sys2Proof.Laws.RoundTrip.ofEvent _ rfl
theorem Sys2Proof.Laws.RoundTrip.shadowStallResolve : Sys2Proof.Laws.RoundTrip.Statement .shadowStallResolve := Sys2Proof.Laws.RoundTrip.ofEvent _ rfl
theorem Sys2Proof.Laws.RoundTrip.traverseComplete : Sys2Proof.Laws.RoundTrip.Statement .traverseComplete := Sys2Proof.Laws.RoundTrip.ofEvent _ rfl
theorem Sys2Proof.Laws.RoundTrip.barrierArrive : Sys2Proof.Laws.RoundTrip.Statement .barrierArrive := Sys2Proof.Laws.RoundTrip.ofEvent _ rfl
theorem Sys2Proof.Laws.RoundTrip.barwaitComplete : Sys2Proof.Laws.RoundTrip.Statement .barwaitComplete := Sys2Proof.Laws.RoundTrip.ofEvent _ rfl
theorem Sys2Proof.Laws.RoundTrip.tkwaitComplete : Sys2Proof.Laws.RoundTrip.Statement .tkwaitComplete := Sys2Proof.Laws.RoundTrip.ofEvent _ rfl
theorem Sys2Proof.Laws.RoundTrip.mwaitWake : Sys2Proof.Laws.RoundTrip.Statement .mwaitWake := Sys2Proof.Laws.RoundTrip.ofEvent _ rfl
theorem Sys2Proof.Laws.RoundTrip.updateLineFire : Sys2Proof.Laws.RoundTrip.Statement .updateLineFire := Sys2Proof.Laws.RoundTrip.ofEvent _ rfl
theorem Sys2Proof.Laws.RoundTrip.impreciseFaultDelivery : Sys2Proof.Laws.RoundTrip.Statement .impreciseFaultDelivery := Sys2Proof.Laws.RoundTrip.ofEvent _ rfl
theorem Sys2Proof.Laws.RoundTrip.loadResponse : Sys2Proof.Laws.RoundTrip.Statement .loadResponse := Sys2Proof.Laws.RoundTrip.ofEvent _ rfl
theorem Sys2Proof.Laws.RoundTrip.storeCheckResponse : Sys2Proof.Laws.RoundTrip.Statement .storeCheckResponse := Sys2Proof.Laws.RoundTrip.ofEvent _ rfl
theorem Sys2Proof.Laws.RoundTrip.leaseWriteback : Sys2Proof.Laws.RoundTrip.Statement .leaseWriteback := Sys2Proof.Laws.RoundTrip.ofEvent _ rfl
theorem Sys2Proof.Laws.RoundTrip.writebackAccept : Sys2Proof.Laws.RoundTrip.Statement .writebackAccept := Sys2Proof.Laws.RoundTrip.ofEvent _ rfl
theorem Sys2Proof.Laws.RoundTrip.leaseExpiry : Sys2Proof.Laws.RoundTrip.Statement .leaseExpiry := Sys2Proof.Laws.RoundTrip.ofEvent _ rfl
theorem Sys2Proof.Laws.RoundTrip.translationChangeComplete : Sys2Proof.Laws.RoundTrip.Statement .translationChangeComplete := Sys2Proof.Laws.RoundTrip.ofEvent _ rfl
theorem Sys2Proof.Laws.RoundTrip.pageMoveComplete : Sys2Proof.Laws.RoundTrip.Statement .pageMoveComplete := Sys2Proof.Laws.RoundTrip.ofEvent _ rfl
theorem Sys2Proof.Laws.RoundTrip.settledExpiry : Sys2Proof.Laws.RoundTrip.Statement .settledExpiry := Sys2Proof.Laws.RoundTrip.ofEvent _ rfl
theorem Sys2Proof.Laws.RoundTrip.hotInterval : Sys2Proof.Laws.RoundTrip.Statement .hotInterval := Sys2Proof.Laws.RoundTrip.ofEvent _ rfl
theorem Sys2Proof.Laws.RoundTrip.scrubUncorrectable : Sys2Proof.Laws.RoundTrip.Statement .scrubUncorrectable := Sys2Proof.Laws.RoundTrip.ofEvent _ rfl
theorem Sys2Proof.Laws.RoundTrip.swapTrigger : Sys2Proof.Laws.RoundTrip.Statement .swapTrigger := Sys2Proof.Laws.RoundTrip.ofEvent _ rfl
theorem Sys2Proof.Laws.RoundTrip.swapout : Sys2Proof.Laws.RoundTrip.Statement .swapout := Sys2Proof.Laws.RoundTrip.ofEvent _ rfl
theorem Sys2Proof.Laws.RoundTrip.dispatchDecision : Sys2Proof.Laws.RoundTrip.Statement .dispatchDecision := Sys2Proof.Laws.RoundTrip.ofEvent _ rfl
theorem Sys2Proof.Laws.RoundTrip.launchAccept : Sys2Proof.Laws.RoundTrip.Statement .launchAccept := Sys2Proof.Laws.RoundTrip.ofEvent _ rfl
theorem Sys2Proof.Laws.RoundTrip.launchComplete : Sys2Proof.Laws.RoundTrip.Statement .launchComplete := Sys2Proof.Laws.RoundTrip.ofEvent _ rfl
theorem Sys2Proof.Laws.RoundTrip.budgetPeriod : Sys2Proof.Laws.RoundTrip.Statement .budgetPeriod := Sys2Proof.Laws.RoundTrip.ofEvent _ rfl
theorem Sys2Proof.Laws.RoundTrip.wdogExpire : Sys2Proof.Laws.RoundTrip.Statement .wdogExpire := Sys2Proof.Laws.RoundTrip.ofEvent _ rfl
theorem Sys2Proof.Laws.RoundTrip.preemptDone : Sys2Proof.Laws.RoundTrip.Statement .preemptDone := Sys2Proof.Laws.RoundTrip.ofEvent _ rfl
theorem Sys2Proof.Laws.RoundTrip.logReadIndexWrite : Sys2Proof.Laws.RoundTrip.Statement .logReadIndexWrite := Sys2Proof.Laws.RoundTrip.ofEvent _ rfl
theorem Sys2Proof.Laws.RoundTrip.queueTailWrite : Sys2Proof.Laws.RoundTrip.Statement .queueTailWrite := Sys2Proof.Laws.RoundTrip.ofEvent _ rfl
theorem Sys2Proof.Laws.RoundTrip.registerWrite : Sys2Proof.Laws.RoundTrip.Statement .registerWrite := Sys2Proof.Laws.RoundTrip.ofEvent _ rfl
theorem Sys2Proof.Laws.RoundTrip.partSet : Sys2Proof.Laws.RoundTrip.Statement .partSet := Sys2Proof.Laws.RoundTrip.ofEvent _ rfl
theorem Sys2Proof.Laws.RoundTrip.partFree : Sys2Proof.Laws.RoundTrip.Statement .partFree := Sys2Proof.Laws.RoundTrip.ofEvent _ rfl
theorem Sys2Proof.Laws.RoundTrip.qCreate : Sys2Proof.Laws.RoundTrip.Statement .qCreate := Sys2Proof.Laws.RoundTrip.ofEvent _ rfl
theorem Sys2Proof.Laws.RoundTrip.qConfig : Sys2Proof.Laws.RoundTrip.Statement .qConfig := Sys2Proof.Laws.RoundTrip.ofEvent _ rfl
theorem Sys2Proof.Laws.RoundTrip.qEnable : Sys2Proof.Laws.RoundTrip.Statement .qEnable := Sys2Proof.Laws.RoundTrip.ofEvent _ rfl
theorem Sys2Proof.Laws.RoundTrip.qHalt : Sys2Proof.Laws.RoundTrip.Statement .qHalt := Sys2Proof.Laws.RoundTrip.ofEvent _ rfl
theorem Sys2Proof.Laws.RoundTrip.qDestroy : Sys2Proof.Laws.RoundTrip.Statement .qDestroy := Sys2Proof.Laws.RoundTrip.ofEvent _ rfl
theorem Sys2Proof.Laws.RoundTrip.budgetSet : Sys2Proof.Laws.RoundTrip.Statement .budgetSet := Sys2Proof.Laws.RoundTrip.ofEvent _ rfl
theorem Sys2Proof.Laws.RoundTrip.budgetRead : Sys2Proof.Laws.RoundTrip.Statement .budgetRead := Sys2Proof.Laws.RoundTrip.ofEvent _ rfl
theorem Sys2Proof.Laws.RoundTrip.partParam : Sys2Proof.Laws.RoundTrip.Statement .partParam := Sys2Proof.Laws.RoundTrip.ofEvent _ rfl
theorem Sys2Proof.Laws.RoundTrip.preempt : Sys2Proof.Laws.RoundTrip.Statement .preempt := Sys2Proof.Laws.RoundTrip.ofEvent _ rfl
theorem Sys2Proof.Laws.RoundTrip.reopen : Sys2Proof.Laws.RoundTrip.Statement .reopen := Sys2Proof.Laws.RoundTrip.ofEvent _ rfl
theorem Sys2Proof.Laws.RoundTrip.drain : Sys2Proof.Laws.RoundTrip.Statement .drain := Sys2Proof.Laws.RoundTrip.ofEvent _ rfl
theorem Sys2Proof.Laws.RoundTrip.kick : Sys2Proof.Laws.RoundTrip.Statement .kick := Sys2Proof.Laws.RoundTrip.ofEvent _ rfl
theorem Sys2Proof.Laws.RoundTrip.xlate : Sys2Proof.Laws.RoundTrip.Statement .xlate := Sys2Proof.Laws.RoundTrip.ofEvent _ rfl
theorem Sys2Proof.Laws.RoundTrip.migrate : Sys2Proof.Laws.RoundTrip.Statement .migrate := Sys2Proof.Laws.RoundTrip.ofEvent _ rfl
theorem Sys2Proof.Laws.RoundTrip.commCreate : Sys2Proof.Laws.RoundTrip.Statement .commCreate := Sys2Proof.Laws.RoundTrip.ofEvent _ rfl
theorem Sys2Proof.Laws.RoundTrip.commFree : Sys2Proof.Laws.RoundTrip.Statement .commFree := Sys2Proof.Laws.RoundTrip.ofEvent _ rfl
theorem Sys2Proof.Laws.RoundTrip.gazClear : Sys2Proof.Laws.RoundTrip.Statement .gazClear := Sys2Proof.Laws.RoundTrip.ofEvent _ rfl
theorem Sys2Proof.Laws.RoundTrip.evlogSet : Sys2Proof.Laws.RoundTrip.Statement .evlogSet := Sys2Proof.Laws.RoundTrip.ofEvent _ rfl
theorem Sys2Proof.Laws.RoundTrip.replicaSet : Sys2Proof.Laws.RoundTrip.Statement .replicaSet := Sys2Proof.Laws.RoundTrip.ofEvent _ rfl
theorem Sys2Proof.Laws.RoundTrip.evlogStat : Sys2Proof.Laws.RoundTrip.Statement .evlogStat := Sys2Proof.Laws.RoundTrip.ofEvent _ rfl
theorem Sys2Proof.Laws.RoundTrip.podSet : Sys2Proof.Laws.RoundTrip.Statement .podSet := Sys2Proof.Laws.RoundTrip.ofEvent _ rfl
theorem Sys2Proof.Laws.RoundTrip.aclSet : Sys2Proof.Laws.RoundTrip.Statement .aclSet := Sys2Proof.Laws.RoundTrip.ofEvent _ rfl
theorem Sys2Proof.Laws.RoundTrip.pwrState : Sys2Proof.Laws.RoundTrip.Statement .pwrState := Sys2Proof.Laws.RoundTrip.ofEvent _ rfl
theorem Sys2Proof.Laws.RoundTrip.pwrCap : Sys2Proof.Laws.RoundTrip.Statement .pwrCap := Sys2Proof.Laws.RoundTrip.ofEvent _ rfl
theorem Sys2Proof.Laws.RoundTrip.eccRead : Sys2Proof.Laws.RoundTrip.Statement .eccRead := Sys2Proof.Laws.RoundTrip.ofEvent _ rfl
theorem Sys2Proof.Laws.RoundTrip.selftest : Sys2Proof.Laws.RoundTrip.Statement .selftest := Sys2Proof.Laws.RoundTrip.ofEvent _ rfl
theorem Sys2Proof.Laws.RoundTrip.fwLoad : Sys2Proof.Laws.RoundTrip.Statement .fwLoad := Sys2Proof.Laws.RoundTrip.ofEvent _ rfl
theorem Sys2Proof.Laws.RoundTrip.attest : Sys2Proof.Laws.RoundTrip.Statement .attest := Sys2Proof.Laws.RoundTrip.ofEvent _ rfl
theorem Sys2Proof.Laws.RoundTrip.netSet : Sys2Proof.Laws.RoundTrip.Statement .netSet := Sys2Proof.Laws.RoundTrip.ofEvent _ rfl
theorem Sys2Proof.Laws.RoundTrip.replicaCompare : Sys2Proof.Laws.RoundTrip.Statement .replicaCompare := Sys2Proof.Laws.RoundTrip.ofEvent _ rfl
theorem Sys2Proof.Laws.RoundTrip.dbgen : Sys2Proof.Laws.RoundTrip.Statement .dbgen := Sys2Proof.Laws.RoundTrip.ofEvent _ rfl
theorem Sys2Proof.Laws.RoundTrip.brk : Sys2Proof.Laws.RoundTrip.Statement .brk := Sys2Proof.Laws.RoundTrip.ofEvent _ rfl
theorem Sys2Proof.Laws.RoundTrip.halt : Sys2Proof.Laws.RoundTrip.Statement .halt := Sys2Proof.Laws.RoundTrip.ofEvent _ rfl
theorem Sys2Proof.Laws.RoundTrip.haltb : Sys2Proof.Laws.RoundTrip.Statement .haltb := Sys2Proof.Laws.RoundTrip.ofEvent _ rfl
theorem Sys2Proof.Laws.RoundTrip.resume : Sys2Proof.Laws.RoundTrip.Statement .resume := Sys2Proof.Laws.RoundTrip.ofEvent _ rfl
theorem Sys2Proof.Laws.RoundTrip.step : Sys2Proof.Laws.RoundTrip.Statement .step := Sys2Proof.Laws.RoundTrip.ofEvent _ rfl
theorem Sys2Proof.Laws.RoundTrip.dbgRd : Sys2Proof.Laws.RoundTrip.Statement .dbgRd := Sys2Proof.Laws.RoundTrip.ofEvent _ rfl
theorem Sys2Proof.Laws.RoundTrip.dbgWr : Sys2Proof.Laws.RoundTrip.Statement .dbgWr := Sys2Proof.Laws.RoundTrip.ofEvent _ rfl
theorem Sys2Proof.Laws.RoundTrip.addressBreakpointHalt : Sys2Proof.Laws.RoundTrip.Statement .addressBreakpointHalt := Sys2Proof.Laws.RoundTrip.ofEvent _ rfl
theorem Sys2Proof.Laws.RoundTrip.hostCxlMemAccess : Sys2Proof.Laws.RoundTrip.Statement .hostCxlMemAccess := Sys2Proof.Laws.RoundTrip.ofEvent _ rfl
theorem Sys2Proof.Laws.RoundTrip.hostSnoop : Sys2Proof.Laws.RoundTrip.Statement .hostSnoop := Sys2Proof.Laws.RoundTrip.ofEvent _ rfl
theorem Sys2Proof.Laws.RoundTrip.hostAtomicop : Sys2Proof.Laws.RoundTrip.Statement .hostAtomicop := Sys2Proof.Laws.RoundTrip.ofEvent _ rfl
theorem Sys2Proof.Laws.RoundTrip.podRemoteAccess : Sys2Proof.Laws.RoundTrip.Statement .podRemoteAccess := Sys2Proof.Laws.RoundTrip.ofEvent _ rfl
theorem Sys2Proof.Laws.RoundTrip.linkDown : Sys2Proof.Laws.RoundTrip.Statement .linkDown := Sys2Proof.Laws.RoundTrip.ofEvent _ rfl
theorem Sys2Proof.Laws.RoundTrip.deviceUnreachable : Sys2Proof.Laws.RoundTrip.Statement .deviceUnreachable := Sys2Proof.Laws.RoundTrip.ofEvent _ rfl
theorem Sys2Proof.Laws.RoundTrip.netAckTimeout : Sys2Proof.Laws.RoundTrip.Statement .netAckTimeout := Sys2Proof.Laws.RoundTrip.ofEvent _ rfl
theorem Sys2Proof.Laws.RoundTrip.standbyWake : Sys2Proof.Laws.RoundTrip.Statement .standbyWake := Sys2Proof.Laws.RoundTrip.ofEvent _ rfl
theorem Sys2Proof.Laws.RoundTrip.powerOn : Sys2Proof.Laws.RoundTrip.Statement .powerOn := Sys2Proof.Laws.RoundTrip.ofEvent _ rfl
theorem Sys2Proof.Laws.RoundTrip.portReturn : Sys2Proof.Laws.RoundTrip.Statement .portReturn := Sys2Proof.Laws.RoundTrip.ofEvent _ rfl
theorem Sys2Proof.Laws.RoundTrip.powerOff : Sys2Proof.Laws.RoundTrip.Statement .powerOff := Sys2Proof.Laws.RoundTrip.ofEvent _ rfl
theorem Sys2Proof.Laws.RoundTrip.arithmeticClockStep : Sys2Proof.Laws.RoundTrip.Statement .arithmeticClockStep := Sys2Proof.Laws.RoundTrip.ofEvent _ rfl
theorem Sys2Proof.Laws.RoundTrip.coreReservation : Sys2Proof.Laws.RoundTrip.Statement .coreReservation := Sys2Proof.Laws.RoundTrip.ofEvent _ rfl
theorem Sys2Proof.Laws.RoundTrip.flitReplay : Sys2Proof.Laws.RoundTrip.Statement .flitReplay := Sys2Proof.Laws.RoundTrip.ofEvent _ rfl
end

