-- ==== Sys2Proof/Laws/Ranges.lean ====
section
/-! SUPPORT. REGRANGE comes first in every instruction of a thread (spec 02 R55). -/

namespace Sys2Proof.Machine

open Sys2Proof

/-- Every instruction with an encoding raises REGRANGE in all lanes of its set where a register lies outside its allotment; only an MX block
of the rung's element that passes v127 raises ILLEGAL before it. -/
theorem exec_range {i : Instr} {s : State} {c : Sel} (he : (encode i).isSome = true) (h : s.sel = some c) (hp : pastEnd c.b.rung i = false)
    (hr : c.rangeOk i = false) :
    exec i s = .next { c.raiseEach s c.lanes (mkFail cREGRANGE 0 (instrWord i).toNat) with toPlat := s.toPlat } := by
  cases i <;> first | exact runSet_range _ h hr | exact runElem_range _ h hp hr | exact absurd he (by simp [encode])

end Sys2Proof.Machine
end

