-- ==== Sys2Proof/Tests/Slice0.lean ====
section
/-! SUPPORT. Tests on fixed values, and for each statement of Certificates/Slice0 with hypotheses a state and operands that meet them. -/

namespace Sys2Proof.Tests

open Sys2Proof Sys2Proof.Machine

-- Each test is elaborated before the next: in parallel they ask for too many threads.
set_option Elab.async false

/-! ## States for tests -/

/-- A thread at the placed instruction with 128 registers of zero. -/
def th0 : Thread :=
  { Thread.blank with pc := BitVec.ofNat 64 placedAt, region := BitVec.ofNat 64 placedAt, st := .runnable, v := List.replicate 128 0 }
/-- A group of two live lanes. -/
def g0 : Group := { Group.start (placedRecord 0) (List.replicate 16 0) 0 0 0 0 0 with threads := [th0, th0] ++ List.replicate 62 Thread.blank }
def b0 : Block := { placedBlock 0 with groups := [g0] }
/-- The placed package with these blocks, and the lanes of group 0 of block 0 at issue. -/
def placed (lanes : LaneSet) (bs : List Block) : State :=
  { State.reset.placeBytes [] with issue := some ⟨0, 0, lanes, BitVec.ofNat 64 placedAt⟩, blocks := bs }
def withGroup (f : Group → Group) : State := placed 3 [{ b0 with groups := [f g0] }]
def withThreads (f : Nat → Thread → Thread) : State := withGroup fun g => { g with threads := g.threads.mapIdx f }
def s0 : State := placed 3 [b0]

def selOf (s : State) (h : s.sel.isSome = true) : Sel := s.sel.get h
theorem sel_selOf (s : State) (h : s.sel.isSome = true) : s.sel = some (selOf s h) := (Option.some_get h).symm
theorem issues (s : State) (h : s.sel.isSome = true) (is : List Instr) (p : is.all (fun i => i.wf && (selOf s h).rangeOk i) = true) :
    ∀ i ∈ is, i.wf = true ∧ Issues s (selOf s h) i := fun i hi => by
  have := List.all_eq_true.mp p i hi
  simp only [Bool.and_eq_true] at this
  exact ⟨this.1, sel_selOf s h, this.2⟩

theorem s0_sel : s0.sel.isSome = true := by decide +kernel
def c0 : Sel := selOf s0 s0_sel
theorem s0_c0 : s0.sel = some c0 := sel_selOf _ _
theorem issues0 (is : List Instr) (p : is.all (fun i => i.wf && c0.rangeOk i) = true) : ∀ i ∈ is, i.wf = true ∧ Issues s0 c0 i :=
  issues s0 s0_sel is p

def md : Mods := Mods.default
def mc (c : BitVec 8) : Option Mods := some { md with c := c }
/-- Vector operands A and B, a destination, and no modifier word. -/
def ro (d a b : RegNum) : OpR := ⟨b, false, a, d, none⟩
/-- B is an s register. -/
def rs (d a b : RegNum) : OpR := ⟨b, true, a, d, none⟩
def rm' (d a b : RegNum) (c : BitVec 8) : OpR := ⟨b, false, a, d, mc c⟩
def rsm (d a b : RegNum) (c : BitVec 8) : OpR := ⟨b, true, a, d, mc c⟩
def uo (d b : RegNum) : OpU := ⟨b, false, d, none⟩
def io (d a : RegNum) (imm : BitVec 8) : OpI := ⟨imm, a, d, none⟩
def iom (d a : RegNum) (imm : BitVec 8) (c : BitVec 8) : OpI := ⟨imm, a, d, mc c⟩
def tt (dt st : BitVec 4) (d a : RegNum) : OpT := ⟨dt, st, a, d, none⟩
def f8 (d a : RegNum) (c : BitVec 8) : OpF8 := ⟨a, d, mc c⟩
def z : OpZ := ⟨none⟩

/-! ## Decoding: words written out from the encodings of spec 02, a few for each family -/

theorem test_decode_compact :
    decodeTableWord 16 0xFFE8 = some (.cIsub ⟨31, 63⟩)
    ∧ decodeTableWord 16 0xFFFE = some (.cBra ⟨-1⟩) := by decide +kernel
theorem test_decode_moves :
    decodeTableWord 32 0x0B082401 = some (.ctz ⟨5, true, 9, none⟩)
    ∧ decodeTableWord 32 0x0A102401 = some (.smov ⟨5, false, 9, none⟩) := by decide +kernel
theorem test_decode_integer :
    decodeTableWord 32 0x07040419 = some (.isub (rs 1 2 3))
    ∧ decodeTableWord 64 0x0000170006040417 = some (.iadd ⟨3, false, 2, 1, some { md with sat := true }⟩)
    ∧ decodeTableWord 32 0x5F040481 = some (.sarImm ⟨31, 2, 1, none⟩) := by decide +kernel
theorem test_decode_predicate :
    decodeTableWord 32 0x0604B8A5 = some (.setp (ro 0x2E 2 3))
    ∧ decodeTableWord 32 0x0A09ACAD = some (.plop (ro 0x6B 4 5)) := by decide +kernel
theorem test_decode_uniform :
    decodeTableWord 32 0x0150100D = some (.srd (rs 4 0x28 0)) := by decide +kernel
theorem test_decode_fp32 :
    decodeTableWord 64 0x0BF46A00060404C3 = some (.fadd ⟨3, false, 2, 1, some { md with guard := 2, gneg := true, neg := 1, abs := 2, scale := 0x1F, rnd := 5, clamp := true }⟩)
    ∧ decodeTableWord 32 0x061004DD = some (.frnd (uo 1 3)) := by decide +kernel
theorem test_decode_fp64 :
    decodeTableWord 32 0x0C0808F9 = some (.dmul (ro 2 4 6)) := by decide +kernel
theorem test_decode_packed :
    decodeTableWord 32 0x0604A54D = some (.pksetpBf16 (ro 0x29 2 3)) := by decide +kernel
theorem test_decode_convert :
    decodeTableWord 32 0xB9040551 = some (.cvt (tt 0xB 9 1 2)) := by decide +kernel
theorem test_decode_mask :
    decodeTableWord 32 0x0A080D85 = some (.kop (ro 3 4 5))
    ∧ decodeTableWord 32 0x02080D81 = some (.kmov (ro 3 4 1)) := by decide +kernel
theorem test_decode_crossLane :
    decodeTableWord 64 0x0600071B140405A3 = some (.redux ⟨10, false, 2, 1, some { md with rnd := 3, c := 0x1B }⟩) := by decide +kernel
theorem test_decode_control :
    decodeTableWord 64 0x0000071DFFFFFDC7 = some (.brc ⟨0x3FFFFF, mc 0x1D⟩)
    ∧ decodeTableWord 64 0x0000077E000001CF = some (.call ⟨0, mc 126⟩) := by decide +kernel
theorem test_decode_memory :
    decodeTableWord 32 0x80041229 = some (.stB64 (io 4 2 0x80))
    ∧ decodeTableWord 64 0x0000070A01041233 = some (.ldp (iom 4 2 1 0xA)) := by decide +kernel
theorem test_decode_order :
    decodeTableWord 64 0x0000079A0C041247 = some (.atomB32 (rm' 4 2 6 0x9A))
    ∧ decodeTableWord 32 0x00005241 = some (.fenceRel (ro 0x14 0 0))
    ∧ decodeTableWord 32 0x0C08163D = some (.cctlRodrop (ro 5 4 6)) := by decide +kernel
theorem test_decode_tile :
    decodeTableWord 32 0xFF04128D = some (.ldtB128 (io 4 2 0xFF))
    ∧ decodeTableWord 32 0x060412A1 = some (.syncwait (ro 4 2 3)) := by decide +kernel
theorem test_decode_engine :
    decodeTableWord 64 0x00000700001026A7 = some (.acopy (rm' 9 8 0 0))
    ∧ decodeTableWord 64 0x000007310F1026A7 = some (.acopyQuant (rsm 9 8 7 0x31))
    ∧ decodeTableWord 64 0x00000715001026B3 = some (.acoll (rm' 9 8 0 0x15)) := by decide +kernel
theorem test_decode_matrix :
    decodeTableWord 64 0x0400071D0B092AC3 = some (.mma ⟨5, true, 4, 0x4A, some { md with rnd := 2, c := 0x1D }⟩)
    ∧ decodeTableWord 32 0x0E1422D5 = some (.accrd (ro 8 10 7)) := by decide +kernel
theorem test_decode_ladder :
    decodeTableWord 32 0x040016E5 = some (.trxchk (ro 5 0 2))
    ∧ decodeTableWord 64 0x00000701000002EB = some (.trxesc ⟨mc 1⟩) := by decide +kernel
theorem test_decode_traverse :
    decodeTableWord 64 0x0000070100081F07 = some (.travst (rm' 7 4 0 1)) := by decide +kernel
theorem test_decode_barrier :
    decodeTableWord 32 0x007E1F25 = some (.bararr (ro 7 0x3F 0))
    ∧ decodeTableWord 64 0x0000070C0C041343 = some (.mwait (rm' 4 2 6 0xC)) := by decide +kernel
theorem test_decode_reduction :
    decodeTableWord 64 0x0000070108040F47 = some (.red (rm' 3 2 4 1))
    ∧ decodeTableWord 64 0x0000070000040F4F = some (.redarm (rm' 3 2 0 0)) := by decide +kernel
theorem test_decode_launch :
    decodeTableWord 32 0x09040F61 = some (.launch (rs 3 2 4)) := by decide +kernel
theorem test_decode_trap :
    decodeTableWord 32 0x00021379 = some (.fltrd (ro 4 1 0)) := by decide +kernel
theorem test_decode_page :
    decodeTableWord 32 0x09040E85 = some (.pghint (rs 3 2 4)) := by decide +kernel

/-! ## Well-formedness: an ill-formed term for each check, which the check refuses -/

def m8 (f : Mods → Mods) : Option Mods := some (f md)
/-- The fields of the modifier word that an entry does not accept, the two reserved rounding codes, and an absent word of class M (R46, R48). -/
theorem test_wf_modifiers :
    ∀ i ∈ [Instr.allot ⟨0, false, 1, 0, m8 fun m => { m with guard := 3 }⟩, .allot ⟨0, false, 1, 0, m8 fun m => { m with gneg := true }⟩,
      .iadd ⟨3, false, 2, 1, m8 fun m => { m with neg := 1 }⟩, .fadd ⟨3, false, 2, 1, m8 fun m => { m with neg := 4 }⟩, .fmul ⟨3, false, 2, 1, m8 fun m => { m with abs := 4 }⟩,
      .and ⟨3, false, 2, 1, m8 fun m => { m with sat := true }⟩, .iadd ⟨3, false, 2, 1, m8 fun m => { m with clamp := true }⟩, .fmin ⟨3, false, 2, 1, m8 fun m => { m with scale := 1 }⟩,
      .fmin ⟨3, false, 2, 1, m8 fun m => { m with rnd := 1 }⟩, .fadd ⟨3, false, 2, 1, m8 fun m => { m with rnd := 6 }⟩, .fadd ⟨3, false, 2, 1, m8 fun m => { m with rnd := 7 }⟩,
      .iadd (rm' 1 2 3 1), .iadc (rm' 1 2 3 8), .ffma (ro 1 2 3), .brc ⟨2, none⟩, .sadd ⟨2, 1, none⟩, .pack (tt 0xA 9 2 1)], i.wf = false := by decide +kernel
/-- Odd registers where a pair stands, numbers that are no multiple of 4 or 8, operands and K bits that the entry reserves (R44, R45). -/
theorem test_wf_registers :
    ∀ i ∈ [Instr.iadd64 (ro 1 2 4), .iadd64 (ro 2 1 4), .iadd64 (ro 2 4 1), .imadwI32 (rm' 1 2 3 2), .imadwI32 (rm' 2 2 3 1), .lea (rm' 1 2 3 0), .lea (rm' 2 1 3 0), .lea (rm' 2 4 3 16),
      .dfma (rm' 2 4 6 1), .dsqrt (uo 1 2), .dsqrt (uo 2 1), .dsetp (ro 0 1 2), .frexp (ro 1 2 0), .frexp (ro 2 2 1), .frexp (rs 2 2 0), .fflg (ro 1 1 3), .ldB64 (io 1 0 0),
      .ldB128 (io 2 0 0), .ldB32 (io 0 1 0), .stB64 (io 1 0 0), .stB128 (io 2 0 0), .ldp (iom 1 0 0 1), .stp (iom 2 0 0 2), .ldtB128 (io 2 0 0), .sttB128 (io 1 0 0),
      .agath (rs 1 4 3), .agath (ro 1 8 3), .adigest (ro 1 8 1), .trav (ro 1 2 0), .fltrd (ro 2 0 0), .fltrd (ro 4 2 0), .jmp (ro 0 1 0), .jmp (ro 1 2 0), .calli (ro 1 2 0),
      .await (ro 1 1 3), .spawn (ro 0 1 3), .launch (ro 8 2 3), .ownset (ro 4 4 0), .ownset (ro 0 2 0), .atomB64 (rm' 1 2 4 0), .casB32 (rm' 0 1 2 0), .strelB64 (io 1 0 0),
      .trap (io 0 1 0), .sleep (io 1 0 0), .p2v ⟨1, false, 0, none⟩, .v2p ⟨0, false, 0, m8 fun m => { m with c := 1 }⟩, .shlImm ⟨1, 2, 3, m8 fun m => { m with c := 1 }⟩,
      .cMov ⟨0, 0⟩], i.wf = false := by decide +kernel
/-- Allotments, system registers, predicates, comparison codes, type and element codes (R51, R52, R122, R128, R147, R179-R185). -/
theorem test_wf_codes :
    ∀ i ∈ [Instr.allot (ro 16 127 0), .allot (ro 8 14 0), .allot (ro 0 1 1), .srd (ro 0 0x0B 0), .srd (ro 1 0x28 0), .srd (ro 0 0 1), .swr (ro 0 0x10 3), .swr (ro 1 0x18 3),
      .setp (ro 0x60 2 3), .setp (rm' 0 2 3 0x40), .ssetp 12 (f8 0 1 2), .ssetp 0 (f8 8 1 2), .sel (rm' 1 2 3 16), .plop (ro 0 8 1), .plop (ro 0 1 8), .plop (rs 0 1 2),
      .fsetp (ro 0x60 2 3), .pksetpF16 (ro 7 2 3), .bfe (rm' 1 2 3 2), .cvt (tt 0xE 9 1 2), .cvt (tt 9 0xE 1 2), .cvt (tt 8 9 1 2), .cvt (tt 9 8 1 1),
      .cvt ⟨2, 6, 2, 1, m8 fun m => { m with scale := 1 }⟩, .pack ⟨9, 9, 2, 1, mc 3⟩, .pack ⟨0xA, 8, 2, 1, mc 3⟩, .pack ⟨0xA, 8, 1, 1, mc 2⟩, .unpk (tt 9 9 2 1), .unpk (tt 9 0xA 1 2),
      .unpk ⟨9, 0xA, 2, 2, mc 1⟩, .mxq ⟨6, 9, 0, 40, mc 3⟩, .mxq ⟨0, 8, 0, 40, mc 3⟩, .mxq ⟨0, 9, 98, 0, mc 3⟩, .mxq ⟨0, 9, 0, 126, mc 3⟩, .mxq ⟨0, 9, 0, 40, mc 0x80⟩,
      .mxdq ⟨8, 0, 0, 40, mc 3⟩, .mxdq ⟨9, 0, 0, 97, mc 3⟩, .mxdq ⟨9, 0, 125, 0, mc 3⟩], i.wf = false := by decide +kernel
/-- Masks, membership, links (R94-R116). -/
theorem test_wf_groups :
    ∀ i ∈ [Instr.kmov (ro 12 0 0), .kmov (ro 0 1 1), .kmov (ro 1 0 2), .kmov (ro 0 0 3), .kmov (rs 0 0 0), .kop (rm' 0 0 0 7), .kop (rm' 0 0 1 4), .kop (rm' 0 1 0 5), .kop (ro 0 12 0),
      .kpop (ro 0 12 0), .kpop (ro 0 0 2), .join (ro 12 0 0), .leave (ro 0 1 0), .waitk ⟨0, false, 0, 0, m8 fun m => { m with guard := 0 }⟩, .vote (ro 0 16 0), .vote (ro 8 0 0),
      .vote (rm' 1 0 0 0x60), .vote (rm' 0 0 0 0x01), .vote (rm' 0 0 0 0x1C), .vote (rm' 0 0 0 0x80), .redux (rm' 1 2 0 0x20), .redux (ro 1 2 11), .redux ⟨0, false, 2, 1, m8 fun m => { m with rnd := 1 }⟩,
      .scan (rm' 1 2 0 0x40), .matchLanes (ro 1 2 0), .matchLanes (rm' 0 1 0 0x20), .elect (ro 8 0 0), .brc ⟨2, mc 0x20⟩, .call ⟨2, mc 1⟩, .ret ⟨mc 0x80⟩], i.wf = false := by decide +kernel
/-- Access modifiers, scopes, operations, barriers (R207, R246, R252, R306, R309, R382, R398). -/
theorem test_wf_memory :
    ∀ i ∈ [Instr.ldB32 (iom 0 0 0 0x80), .ldB32 (iom 0 0 0 0x10), .stB32 (iom 0 0 0 4), .stB32 (iom 0 0 0 1), .ldp (iom 0 0 0 3), .stp (iom 0 0 0 4), .pref (io 3 0 0), .pref (iom 0 0 0 1),
      .cctlWb (ro 0 0 2), .cctlWb (ro 1 1 2), .cctlWbAll (ro 3 1 0), .cctlInvAll (ro 4 0 1), .cctlIi (ro 1 0 2), .cctlInv (ro 1 0 2), .cctlRodrop (ro 4 0 2), .fenceAr (ro 7 0 0), .fenceSc (ro 0 0 0),
      .fenceAcq (ro 8 1 0), .fenceRel (ro 0x17 0 0), .atomB32 (ro 0 0 1), .atomB32 (rm' 0 0 1 0xB0), .atomB32 (rm' 0 0 1 7), .casB32 (rm' 0 0 1 0x80), .casB64 (rm' 0 0 2 7), .ldacqB32 (iom 0 0 0 7),
      .ldacqB64 (iom 0 0 0 16), .pgreq (ro 1 0 2), .pghint (ro 4 0 2), .tzero (ro 1 0 2), .syncarm (ro 1 0 2), .acopy (ro 1 8 0), .acopy (rm' 1 4 0 0), .acopyQuant (rm' 1 8 3 1), .acopyQuant (rsm 1 8 3 0),
      .acopyQuant (rsm 1 8 3 3), .acopyQuant (rsm 1 8 3 0x61), .ascat (ro 1 8 3), .acoll (rm' 1 8 0 0), .acoll (rm' 1 8 0 6), .acoll (rm' 1 8 0 0x63), .acancel (ro 8 0 3), .acancel (ro 0 1 3),
      .barinit (ro 0 0x0F 3), .bar (ro 0 0x60 0), .bararr (ro 0 1 0), .barwait (ro 1 0x10 3), .mwait (rm' 0 0 1 5), .mwait (rm' 0 0 1 0x10), .mwait (rm' 1 0 2 8), .red (ro 0 0 3), .red (rm' 4 0 3 0),
      .red (rm' 1 0 3 0), .red (rm' 0 0 3 2), .redarm (ro 0 0 0), .redfl (ro 0 1 0), .tkwait (ro 8 0 3), .tkpass (ro 1 0 0), .wret (ro 0 1 3)], i.wf = false := by decide +kernel
/-- The matrix unit and the ladder (R315, R316, R326-R333, R346, R350). -/
theorem test_wf_matrix :
    ∀ i ∈ [Instr.mma (rs 0 0 0), .mma (rm' 0 0 0 0), .mma (rsm 0 2 0 0), .mma (rsm 0x58 0 0 0), .mma (rsm 0x49 0 0 1), .mma (rsm 0 120 0 0), .mma (rsm 0 0 0 4), .mma (rsm 0 0 0 0x05), .mma (rsm 0 0 0 0x20),
      .mmasp (rsm 0x38 0 0 0), .mmasp (rsm 0 112 0 0), .mmasp (rsm 0 0 0 1), .accz (ro 8 0 0), .accz (ro 0 1 0), .accld (rs 9 0 1), .accld (ro 0 0 1), .accld (rs 16 0 1), .accst (rsm 0x60 0 1 0),
      .accst (rsm 0x09 0 1 0), .accst (rsm 0 1 1 0), .accst (rs 0 0 1), .accrd (ro 2 0 0), .accrd (ro 0 9 0), .accrd (ro 0 0 4), .accrd (ro 0 8 8), .accrd (ro 116 0 0), .accwr (ro 0 2 0),
      .accwr (rs 0 0 0), .mmaflg (ro 0 1 3), .monset (ro 2 0 3), .monset (ro 0 1 3), .trxchk (ro 8 0 0), .trxchk (ro 0 0 4), .trxchk (ro 0 1 0), .trxesc ⟨mc 2⟩, .travst (rm' 0 0 0 2)], i.wf = false := by
  decide +kernel

/-! ## One instruction each, with the results of the manual's worked examples or of hand calculation from its tables -/

/-- One live lane with these registers, predicates and FPENV. -/
def one (ws : List Word) (p : BitVec 7) (fpenv : Word) : State :=
  placed 1 [{ b0 with groups := [{ g0 with threads := { th0 with v := ws ++ List.replicate (128 - ws.length) 0, p := p, fpenv := fpenv } :: List.replicate 63 Thread.blank }] }]
/-- What lane 0 holds after an instruction. -/
def after {α : Type} (i : Instr) (s : State) (f : Thread → α) : Option α :=
  match exec i s with
  | .next t => (t.thread? 0 0 0).map f
  | _ => none

/-- Text at R136: without `.sat` the low 32 bits. -/
theorem test_iadd_wraps_and_saturates :
    after (.iadd (ro 3 1 2)) (one [0, 0x7FFFFFFF, 1] 0 1) (fun t => t.vr 3) = some 0x80000000
    ∧ after (.iadd ⟨2, false, 1, 3, m8 fun m => { m with sat := true }⟩) (one [0, 0x7FFFFFFF, 1] 0 1) (fun t => t.vr 3) = some 0x7FFFFFFF := by decide +kernel
/-- Spec 04, Example 3: the first and the third IADC. -/
theorem test_iadc_carries :
    after (.iadc (rm' 8 2 5 1)) (one [0, 0, 0xFFFFFFFF, 0xFFFFFFFF, 1, 1, 0, 2] 0 1) (fun t => (t.vr 8, t.pr 1, t.pc)) = some (0, true, 0x10008)
    ∧ after (.iadc (rm' 10 4 7 1)) (one [0, 0, 0xFFFFFFFF, 0xFFFFFFFF, 1, 1, 0, 2] 2 1) (fun t => (t.vr 10, t.pr 1)) = some (4, false) := by decide +kernel
/-- The example at R144. -/
theorem test_bfe_extends :
    after (.bfe (rm' 3 1 2 1)) (one [0, 0x00000F00, 0x00000408] 0 1) (fun t => t.vr 3) = some 0xFFFFFFFF
    ∧ after (.bfe (ro 3 1 2)) (one [0, 0x00000F00, 0x00000408] 0 1) (fun t => t.vr 3) = some 0xF := by decide +kernel
/-- Spec 04, Example 4: the codes of .lt.i32 and of .lt.n32. -/
theorem test_setp_signed_and_unsigned :
    after (.setp (rm' 0x12 3 5 9)) (one [0, 0, 0, 0xFFFFFFFF] 2 1) (fun t => t.pr 2) = some true
    ∧ after (.setp (rm' 0x32 3 5 9)) (one [0, 0, 0, 0xFFFFFFFF] 2 1) (fun t => t.pr 2) = some false := by decide +kernel
/-- The table of R140. -/
theorem test_idiv_corners :
    after (.idivI32 (ro 3 1 2)) (one [0, 7, 0] 0 1) (fun t => t.vr 3) = some 0xFFFFFFFF
    ∧ after (.idivI32 (ro 3 1 2)) (one [0, 0x80000000, 0xFFFFFFFF] 0 1) (fun t => t.vr 3) = some 0x80000000
    ∧ after (.iremI32 (ro 3 1 2)) (one [0, 0xFFFFFFF9, 2] 0 1) (fun t => t.vr 3) = some 0xFFFFFFFF := by decide +kernel
/-- Spec 05, Example 1 of the first part, row by row. -/
theorem test_fmul_tiny :
    after (.fmul (ro 3 1 2)) (one [0, 0x00800000, 0x3F000000] 0 1) (fun t => (t.vr 3, t.fpflags)) = some (0x00400000, 0)
    ∧ after (.fmul (ro 3 1 2)) (one [0, 0x00800000, 0x3F000000] 0 0x8001) (fun t => (t.vr 3, t.fpflags)) = some (0, 0x18)
    ∧ after (.fmul (ro 3 1 2)) (one [0, 0x00800000, 0x3EFFFFFF] 0 1) (fun t => (t.vr 3, t.fpflags)) = some (0x00400000, 0x18)
    ∧ after (.fmul (ro 3 1 2)) (one [0, 0x00800000, 0x3F000000, 5] 0 0x8801) (fun t => (t.vr 3, t.fpflags, t.trap.map fun k => (k.record.code, k.record.detail)))
        = some (5, 0, some (0x10, 0x18)) := by decide +kernel
/-- Spec 05, Example 1 of CVT. -/
theorem test_cvt_e4m3 :
    after (.cvt (tt 0xC 9 3 4)) (one [0, 0, 0, 0, 0x43FA0000] 0 1) (fun t => (t.vr 3, t.fpflags)) = some (0x7F, 0x14)
    ∧ after (.cvt ⟨0xC, 9, 4, 3, m8 fun m => { m with sat := true }⟩) (one [0, 0, 0, 0, 0x43FA0000] 0 1) (fun t => (t.vr 3, t.fpflags)) = some (0x7E, 0x14)
    ∧ after (.cvt (tt 0xC 9 3 4)) (one [0, 0, 0, 0, 0x43E60000] 0 1) (fun t => (t.vr 3, t.fpflags)) = some (0x7E, 0x10)
    ∧ after (.cvt (tt 0xC 9 3 4)) (one [0, 0, 0, 0, 0x3A83126F] 0 1) (fun t => (t.vr 3, t.fpflags)) = some (1, 0x18) := by decide +kernel
/-- Spec 05, Example 2. -/
theorem test_mxq_e2m1 :
    after (.mxq ⟨0, 9, 8, 40, mc 0x48⟩) (one ([0, 0, 0, 0, 0, 0, 0, 0, 0x40A00000, 0xBE99999A, 0x3C23D70A] ++ List.replicate 117 0) 0 1)
        (fun t => (t.vList 40 4, t.vr 72, t.fpflags)) = some ([0x96, 0, 0, 0], 0x7F, 0x18) := by decide +kernel
/-- Spec 05, Example 3 of FENV, B from a v register here. -/
theorem test_fenv_keeps_a_bad_mode :
    after (.fenv (ro 9 10 2)) (one [0, 0, 0x4007, 0, 0, 0, 0, 0, 0, 0, 0x4002] 0 1) (fun t => (t.vr 9, t.fpenv)) = some (1, 0x4002)
    ∧ after (.fenv (ro 9 10 2)) (one [0, 0, 0x4007, 0, 0, 0, 0, 0, 0, 0, 0x4007] 0 1) (fun t => (t.vr 9, t.fpenv)) = some (1, 0x4001) := by decide +kernel
/-- A guard-false instruction moves its PC on, and nothing else (R58). -/
theorem test_guard_false : after (.iadd ⟨2, false, 1, 3, m8 fun m => { m with guard := 1 }⟩) (one [0, 1, 1, 9] 0 1) (fun t => (t.vr 3, t.pc)) = some (9, 0x10008) := by
  decide +kernel
/-- Spec 15, Example 1: TRAP 7 of a guard-true lane. -/
theorem test_trap_record :
    after (.trap ⟨7, 0, 0, m8 fun m => { m with guard := 1 }⟩) (one [] 2 1) (fun t => t.pc) = some 0x20000
    ∧ after (.trap ⟨7, 0, 0, m8 fun m => { m with guard := 1 }⟩) (one [] 2 1) (fun t => t.trap.map fun k => [k.resume, k.record.code.toNat, k.record.detail.toNat, k.record.addr.toNat])
      = some (some [0x10008, 0x0F, 7, 0]) := by decide +kernel
/-- Spec 09, Example 1: COUNT 300, GEN 0xFFFF, TARGET 0; SYNCARM with target 128 gives COUNT 44 and GEN 1. -/
theorem test_syncarm_counts :
    (let s := placed 1 [{ b0 with tile := [(4, 0x2C), (5, 0x01), (8, 0xFF), (9, 0xFF)], groups := [{ g0 with threads := { th0 with v := [0, 128] } :: List.replicate 63 Thread.blank }] }]
     match exec (.syncarm (ro 0 0 1)) s with
     | .next t => (t.block? 0).map fun b => (b.tileNat 0 4, b.tileNat 4 4, b.tileNat 8 2)
     | _ => none) = some (128, 44, 1) := by decide +kernel
/-- Spec 06, Example 2: where two lanes store to one word the highest stays (R202), and the store stands in the core's buffer. -/
theorem test_store_highest_lane :
    (let s := withThreads fun l t => { t with v := [0, 0, 0, 0, 0, 0, 0, BitVec.ofNat 32 (l + 1)] }
     match exec (.stB32 (io 7 4 2)) s with
     | .next t => (t.core 0).stores.map fun e => (e.line, e.bytes.map fun b => (b.off, b.val))
     | _ => []) = [(0, [(8, 2), (9, 0), (10, 0), (11, 0)])] := by decide +kernel
/-- R41: a branch reaches from its own address; R97: a call leaves the address behind itself. -/
theorem test_branch_and_call :
    after (.cBra ⟨-4⟩) (one [] 0 1) (fun t => t.pc) = some 0xFFF8
    ∧ after (.call ⟨2, mc 126⟩) (one [] 0 1) (fun t => (t.pc, t.vr 126, t.vr 127)) = some (0x10004, 0x10008, 0) := by decide +kernel
/-- The placed instruction is fetched and run by the very next step (log 23). -/
theorem test_step_runs_the_placed_instruction :
    (match step (State.reset.withFetchWord 64 0x3FC0000000000807) with
     | .next t => (t.thread? 0 0 63).map fun th => (th.vr 2, th.pc)
     | _ => none) = some (0x3FC00000, 0x10008) := by decide +kernel
/-- R170: a free value outside its bound gives way to the rounded true result: sin 1.2 = 0.93203908..., 2^1.2 = 2.2973967... -/
theorem test_bound_of_sine_and_power :
    keepBound fmtF32 (trueSin false 0x99999A (-23)) (nearTrue (trueSin false 0x99999A (-23)) (absBound 21)) 0 = 0x3F6E9A1D
    ∧ keepBound fmtF32 (trueExp2 false 0x99999A (-23)) (nearTrue (trueExp2 false 0x99999A (-23)) (ulpBound fmtF32 2 (trueExp2 false 0x99999A (-23)))) 0
        = 0x4013088D := by decide +kernel
/-- R170: within 2 ulp the free value stands: FRSQ 3.1415927 is 0x3F106EBA after rounding, and the next encoding but one is allowed. -/
theorem test_bound_keeps_near_values :
    let y := trueRsqrt 0xC90FDB (-22)
    let near := nearRsqrt (0xC90FDB, -22) (ulpBound fmtF32 2 y)
    keepBound fmtF32 y near 0x3F106EBB = 0x3F106EBB ∧ keepBound fmtF32 y near 0x3F106EC0 = 0x3F106EBA := by decide +kernel

/-! ## Witnesses: instructions that act lane by lane (spec 04, 05)

Registers 0 and 127 bound the file, 126 a pair; an operand B is taken from a v and from an s register. -/

theorem witness_MovesAndUnaryOperationsWriteTheirValue :
    ∀ i ∈ [Instr.mov (uo 127 0), .mov ⟨127, true, 0, none⟩, .not (uo 0 127), .popc (uo 1 2), .clz (uo 1 2), .ctz (uo 1 2), .brev (uo 1 2),
      .p2v ⟨0, false, 127, none⟩, .v2p (uo 0x7F 2), .movi ⟨127, 0xFFFFFFFF⟩], i.wf = true ∧ Issues s0 c0 i := issues0 _ (by decide +kernel)

theorem witness_SumsDifferencesAndProductsAreExactThenNarrowed :
    ∀ i ∈ [Instr.iadd (ro 127 0 127), .iadd ⟨1, true, 2, 3, some { md with sat := true }⟩, .isub (ro 1 2 3), .imul (ro 1 2 3), .imulhI32 (ro 1 2 3),
      .imulhN32 (ro 1 2 3), .imad (rm' 1 2 3 127), .imadwI32 (rm' 126 2 3 126), .imadwN32 (rm' 0 2 3 0x80), .iadc (ro 1 2 3), .iadc (rm' 1 2 3 7),
      .isbb (rm' 1 2 3 6), .iadd64 (ro 126 0 2), .isub64 (rs 126 0 126)], i.wf = true ∧ Issues s0 c0 i := issues0 _ (by decide +kernel)

theorem witness_DivisionRoundsTowardZeroAndHasItsCorners :
    ∀ i ∈ [Instr.idivI32 (ro 1 2 3), .idivI32 ⟨1, true, 2, 3, some { md with sat := true }⟩, .iremI32 (ro 1 2 3), .idivN32 (ro 1 2 3),
      .iremN32 (ro 1 2 3), .iminI32 (ro 1 2 3), .iminN32 (ro 1 2 3), .imaxI32 (ro 1 2 3), .imaxN32 (rs 1 2 3)], i.wf = true ∧ Issues s0 c0 i :=
  issues0 _ (by decide +kernel)

theorem witness_LogicAndShiftsByAnyAmount :
    ∀ i ∈ [Instr.and (ro 1 2 3), .or (ro 1 2 3), .xor (ro 1 2 3), .andn (ro 1 2 3), .shl (ro 1 2 3), .shr (ro 1 2 3), .sar (rs 1 2 3),
      .rol (ro 1 2 3), .ror (ro 1 2 3), .shlImm ⟨31, 2, 1, none⟩, .shrImm ⟨0, 2, 1, none⟩, .sarImm ⟨31, 127, 0, none⟩, .rolImm ⟨1, 2, 1, none⟩,
      .rorImm ⟨31, 2, 1, none⟩], i.wf = true ∧ Issues s0 c0 i := issues0 _ (by decide +kernel)

theorem witness_FieldsBytesAddressesAndDotProducts :
    ∀ i ∈ [Instr.fshl (rm' 1 2 3 4), .bfe (ro 1 2 3), .bfe (rm' 1 2 3 1), .bfi (rm' 1 2 3 0xFF), .byteperm (rm' 1 2 3 4), .lea (rm' 126 0 3 15),
      .idot4I8 (rm' 1 2 3 4), .idot4N8 (rm' 1 2 3 4), .idot4I4 (rm' 1 2 3 4), .idot4N4 (rm' 1 2 3 4)], i.wf = true ∧ Issues s0 c0 i :=
  issues0 _ (by decide +kernel)

theorem witness_ComparisonsAndPredicateLogic :
    ∀ i ∈ [Instr.setp (ro 0 2 3), .setp (rm' 0x5F 2 3 0x3F), .ssetp 0 (f8 0 2 3), .ssetp 11 (f8 7 127 0x7F), .sel (rm' 1 2 3 0), .sel (rm' 1 2 3 15),
      .plop (ro 0 0 7), .plop (ro 127 7 0)], i.wf = true ∧ Issues s0 c0 i := issues0 _ (by decide +kernel)

theorem witness_CompactIntegerFormsActAsTheirBaseForms :
    ∀ i ∈ [Instr.cMov ⟨31, 63⟩, .cMovi ⟨16, 0⟩, .cIadd ⟨1, 2⟩, .cIaddImm ⟨31, 2⟩, .cIsub ⟨1, 2⟩, .cImul ⟨1, 2⟩, .cAnd ⟨1, 2⟩, .cOr ⟨1, 2⟩,
      .cXor ⟨1, 2⟩, .cShl ⟨31, 2⟩, .cShr ⟨0, 2⟩], i.wf = true ∧ Issues s0 c0 i := issues0 _ (by decide +kernel)

theorem witness_UniformWritesHappenOnce :
    ∀ i ∈ [Instr.sadd (f8 127 0 127), .ssub (f8 1 2 3), .smul (f8 1 2 3), .sand (f8 1 2 3), .sor (f8 1 2 3), .sxor (f8 1 2 3), .sshl (f8 1 2 3),
      .sshr (f8 1 2 0xFF), .smov (uo 127 3), .smovi ⟨127, 1⟩], i.wf = true ∧ Issues s0 c0 i := issues0 _ (by decide +kernel)

def rec0 : FaultRec := { seql := 0, block := 0, rego := 0, pco := 0, addr := 0, detail := 0, grp := 0, lane := 0, code := 0x0F }
/-- SRD of every register of R128 into v and into s registers, and SWR of the two it may name. -/
theorem witness_SystemRegistersReadAndWrite :
    (∀ i ∈ sysRegs.flatMap fun a => [Instr.srd (ro 126 (BitVec.ofNat 7 a) 0), .srd (rs 126 (BitVec.ofNat 7 a) 0)],
      i.wf = true ∧ Issues s0 c0 i)
    ∧ (∀ i ∈ [Instr.swr (ro 0 0x18 3), .swr (rs 0 0x19 3)], i.wf = true ∧ Issues s0 c0 i) ∧ (c0.thread 0).trap = none
    ∧ (let s := withThreads fun _ t => { t with trap := some { resume := 0x10004, region := 0x10000, record := rec0 } }
       ∃ c, Issues s c (.srd (ro 127 0x20 0)) ∧ Issues s c (.srd (ro 127 0x23 0)) ∧ ((c.thread 0).trap).isSome = true) :=
  ⟨issues0 _ (by decide +kernel), issues0 _ (by decide +kernel), by decide +kernel,
    selOf _ (by decide +kernel), ⟨sel_selOf _ _, by decide +kernel⟩, ⟨sel_selOf _ _, by decide +kernel⟩, by decide +kernel⟩

theorem noTraps0 : NoTraps c0 := by decide +kernel
theorem logRoom (s : State) (n : Nat) (h : s.logRing = none) : LogRoom s n := fun r hr => by rw [h] at hr; cases hr
theorem trapReady (s : State) (c : Sel) (ls : List Nat) (r : s.logRing = none)
    (h : c.l.lr.handler ≠ 0 ∧ (∀ l ∈ ls, (c.thread l).st = .runnable) ∧ ∀ l ∈ ls, (c.thread l).trapped = false) : TrapReady s c ls :=
  ⟨h.1, h.2.1, h.2.2, logRoom s _ r⟩

theorem ready0 (ls : List Nat) (h : (∀ l ∈ ls, (c0.thread l).st = .runnable) ∧ ∀ l ∈ ls, (c0.thread l).trapped = false) : TrapReady s0 c0 ls :=
  trapReady _ _ _ rfl ⟨by decide +kernel, h⟩

/-- Lane 0 holds a signalling NaN in every register and has every trap enabled; lane 1 holds zeros and has none. -/
def fpFaulty : State := withThreads fun l t => if l = 0 then { t with fpenv := 0x3F01, v := List.replicate 128 0x7F800001 } else t
theorem fpFaulty_sel : fpFaulty.sel.isSome = true := by decide +kernel
def cFaulty : Sel := selOf fpFaulty fpFaulty_sel
/-- An instruction under it, whose flags in lane 0 are those that f gives: that lane alone takes FPTRAP, and can. -/
def Traps0 (i : Instr) (f : Thread → Flags) : Prop :=
  Issues fpFaulty cFaulty i
    ∧ (let ls := (cFaulty.guarded i).filter fun l => f (cFaulty.thread l) &&& (cFaulty.thread l).fpenv.extractLsb' 8 6 != 0
       ls = [0] ∧ TrapReady fpFaulty cFaulty ls)
theorem traps0 (i : Instr) (f : Thread → Flags) (h : cFaulty.rangeOk i = true)
    (p : (cFaulty.guarded i).filter (fun l => f (cFaulty.thread l) &&& (cFaulty.thread l).fpenv.extractLsb' 8 6 != 0) = [0]) : Traps0 i f := by
  refine ⟨⟨sel_selOf _ _, h⟩, p, ?_⟩
  rw [p]
  exact trapReady _ _ _ (by decide +kernel) (by decide +kernel)
def envOf (t : Thread) : FpEnv := fpEnvOf t.fpenv md

theorem witness_Fp32InstructionsWriteResultAndFlags :
    NoTraps c0 ∧ (∀ i ∈ [Instr.fadd (ro 127 0 1), .fsub (ro 1 2 3), .fmul (ro 1 2 3), .fdiv (ro 1 2 3), .fmin (ro 1 2 3), .fmax (ro 1 2 3),
      .ffma ⟨1, true, 2, 3, some { md with rnd := 5, scale := 31, abs := 7, neg := 7, clamp := true, sat := true, c := 0xFF }⟩, .fsqrt (uo 1 2), .frcp (uo 1 2), .frsq (uo 1 2),
      .fex2 (uo 1 2), .flg2 (uo 1 2), .fsin (uo 1 2), .fcos (uo 1 2), .ftanh (uo 1 2), .frnd (uo 1 2), .cFadd ⟨1, 2⟩, .cFsub ⟨1, 2⟩, .cFmul ⟨1, 2⟩,
      .cFmax ⟨1, 2⟩], i.wf = true ∧ Issues s0 c0 i)
    ∧ Traps0 (.fadd (ro 1 2 3)) (fun t => (fpOut2 fmtF32 fnAdd (envOf t) md (t.vr 2).toNat (t.vr 3).toNat).flags) :=
  ⟨noTraps0, issues0 _ (by decide +kernel), traps0 _ _ (by decide +kernel) (by decide +kernel)⟩

theorem witness_FpClassesComparisonsAndEnvironment :
    NoTraps c0 ∧ (∀ i ∈ [Instr.fclass (uo 1 2), .fsetp (rm' 0x5F 2 3 0x3F), .fscale (ro 1 2 3), .frexp (ro 126 2 0), .fenv (ro 1 2 3), .fflg (ro 1 0 3)],
      i.wf = true ∧ Issues s0 c0 i)
    ∧ Traps0 (.fsetp (ro 0x10 2 3)) (fun t => (fpOutCompare fmtF32 (envOf t) md 2 (t.vr 2).toNat (t.vr 3).toNat).2) :=
  ⟨noTraps0, issues0 _ (by decide +kernel), traps0 _ _ (by decide +kernel) (by decide +kernel)⟩

theorem witness_Fp64InstructionsWriteResultAndFlags :
    NoTraps c0 ∧ (∀ i ∈ [Instr.dadd (ro 126 0 2), .dsub (ro 2 4 6), .dmul (ro 2 4 6), .ddiv (ro 2 4 6), .dmin (ro 2 4 6), .dmax (ro 2 4 6),
      .dfma (rm' 2 4 6 126), .dsqrt (uo 2 4), .drcp (uo 2 4), .drnd (uo 2 4), .dsetp (ro 0x5F 2 4)], i.wf = true ∧ Issues s0 c0 i)
    ∧ Traps0 (.dmul (ro 2 4 6)) (fun t => (fpOut2 fmtF64 fnMul2 (envOf t) md (t.vPair 4).toNat (t.vPair 6).toNat).flags) :=
  ⟨noTraps0, issues0 _ (by decide +kernel), traps0 _ _ (by decide +kernel) (by decide +kernel)⟩

theorem witness_PackedInstructionsActOnBothHalves :
    NoTraps c0 ∧ (∀ i ∈ [Instr.pkaddF16 (ro 1 2 3), .pkaddBf16 (ro 1 2 3), .pkmulF16 (ro 1 2 3), .pkmulBf16 (ro 1 2 3), .pkfmaF16 (rm' 1 2 3 4),
      .pkfmaBf16 (rm' 1 2 3 4), .pkminF16 (ro 1 2 3), .pkminBf16 (ro 1 2 3), .pkmaxF16 (ro 1 2 3), .pkmaxBf16 (ro 1 2 3), .pksetpF16 (ro 0x5E 2 3),
      .pksetpBf16 (ro 0 2 3)], i.wf = true ∧ Issues s0 c0 i)
    ∧ Traps0 (.pkaddF16 (ro 1 2 3)) (fun t => (fpOut2 fmtF16 fnAdd (envOf t) md ((t.vr 2).toNat % 2 ^ 16) ((t.vr 3).toNat % 2 ^ 16)).flags
        ||| (fpOut2 fmtF16 fnAdd (envOf t) md ((t.vr 2).toNat / 2 ^ 16) ((t.vr 3).toNat / 2 ^ 16)).flags) :=
  ⟨noTraps0, issues0 _ (by decide +kernel), traps0 _ _ (by decide +kernel) (by decide +kernel)⟩

/-- MXQ of zeros counts nothing. -/
theorem witness_ConversionsWriteTheirTypes :
    NoTraps c0 ∧ (∀ i ∈ [Instr.cvt (tt 8 9 126 1), .cvt (tt 4 3 1 126), .pack ⟨0xA, 9, 2, 1, mc 3⟩, .pack ⟨4, 6, 2, 1, mc 3⟩, .unpk (tt 9 0xA 126 1),
      .unpk ⟨6, 4, 1, 2, mc 1⟩, .mxdq ⟨9, 4, 1, 96, mc 3⟩, .mxq ⟨0, 9, 96, 0, mc 3⟩], i.wf = true ∧ Issues s0 c0 i)
    ∧ (elemFmt (elemAt c0.b.rung 4)).isSome = true
    ∧ pastEnd c0.b.rung (.mxdq ⟨9, 4, 1, 96, mc 3⟩) = false ∧ pastEnd c0.b.rung (.mxq ⟨0, 9, 96, 0, mc 3⟩) = false
    ∧ (∃ el, elemFmt (elemAt c0.b.rung 0) = some el ∧ ∀ lane ∈ c0.guarded (.mxq ⟨0, 9, 96, 0, mc 3⟩),
        let q := quantize el (elemEmax (elemAt c0.b.rung 0)) (fpEnvOf (c0.thread lane).fpenv md).mode
          ((blockElems 32 (wordsNat ((c0.thread lane).vList 96 32))).map (wideFmt 9).value)
        q.sat + q.fl = 0)
    ∧ Traps0 (.cvt (tt 0xA 9 1 2)) (fun t => (convert 0xA 9 (envOf t) (t.typed 9 2)).2) :=
  ⟨noTraps0, issues0 _ (by decide +kernel), by decide +kernel, by decide +kernel, by decide +kernel,
    ⟨(elemFmt (elemAt c0.b.rung 0)).get (by decide +kernel), (Option.some_get _).symm, by decide +kernel⟩,
    traps0 _ _ (by decide +kernel) (by decide +kernel)⟩

/-- The smallest subnormal and the largest finite FP32 number. -/
theorem witness_RoundingKeepsEveryValueOfItsFormat :
    fmtF32 ∈ [fmtF64, fmtF32] ∧ (1 < 2 ^ (fmtF32.mag + 1) ∧ fmtF32.value 1 = .fin false 1 (-149))
    ∧ (0xFF7FFFFF < 2 ^ (fmtF32.mag + 1) ∧ fmtF32.value 0xFF7FFFFF = .fin true 0xFFFFFF 104) := by decide +kernel

theorem witness_SpecialOperandsOfFp32Arithmetic :
    let env := fpEnvOf 1 md
    env.clamp = false ∧ env.sat = false ∧ env.fz32i = false ∧ decide (0x7F800000 < 0x7F800001 % 2 ^ 31) = true ∧ 0xFFFFFFFF < 2 ^ 32
      ∧ 1 % 2 ^ 31 < 0x7F800000 ∧ 1 % 2 ^ 31 ≠ 0 := by decide +kernel

/-- A pair in each order, an equal one, and a NaN on either side. -/
theorem witness_MinMaxAndComparisonsAgree :
    let env := fpEnvOf 1 md
    let r (code a b : Nat) : Bool := (fpOutCompare fmtF32 env Mods.default code a b).1
    env.fz32i = false ∧ r 2 0x80000001 1 = true ∧ r 4 1 0x80000001 = true ∧ r 0 0 0x80000000 = true ∧ decide (0x7F800000 < 0xFFFFFFFF % 2 ^ 31) = true
      ∧ decide (0x7F800000 < 0x3F800000 % 2 ^ 31) = false := by decide +kernel

/-! ## Witnesses: masks, cross-lane instructions, control flow (spec 03) -/

theorem noLoads0 (i : Instr) : NoLoads c0 i := by
  intro l _
  have : c0.g.loads = [] := by decide +kernel
  simp [Group.loading, this]

/-- KMOV in its three forms, KOP at its first and last operation. -/
theorem witness_MaskInstructionsWriteTheirMask :
    ∀ i ∈ [Instr.kmov (ro 11 0 0), .kmov (ro 0 126 1), .kmov (ro 126 11 2), .kop (rm' 0 1 2 0), .kop (rm' 11 11 0 4), .kop (rm' 1 0 0 6),
      .kpop (ro 127 11 0), .kpop (ro 0 0 1), .join (ro 11 0 0), .leave (ro 0 0 0)], (i.wf = true ∧ Issues s0 c0 i) ∧ NoLoads c0 i :=
  fun i hi => ⟨issues0 _ (by decide +kernel) i hi, noLoads0 i⟩

def waitkState (k : LaneSet) : State :=
  { withGroup fun g => { g with k := g.k.set 11 k, threads := g.threads.mapIdx fun l t => if l < 2 then { t with st := .waitk 11 4 } else t } with
    subject := .mask 0 0 11, issue := none }
/-- Every lane of k11 waits; and lane 63 of k11 does not. -/
theorem witness_WaitkWaitsForEveryLaneOfItsMask :
    (((Instr.waitk (ro 11 0 0)).wf = true ∧ Issues s0 c0 (.waitk (ro 11 0 0))) ∧ NoLoads c0 (.waitk (ro 11 0 0)) ∧ c0.g.idx = c0.grp)
    ∧ (∃ g, (waitkState 3).group? 0 0 = some g ∧ (waitkState 3).subject = .mask 0 0 11 ∧ g.threads.any (fun t => t.st == .waitk 11 4) = true
        ∧ ∀ l < 64, (g.kr 11).getLsbD l = true → (g.threads[l]?).any (fun t => t.st == .waitk 11 4 && t.trap.isNone) = true)
    ∧ ∃ g, (waitkState (3 + 2 ^ 63)).group? 0 0 = some g ∧ ∃ l < 64, (g.kr 11).getLsbD l = true
        ∧ (g.threads[l]?).all (fun t => !(t.st == .waitk 11 4) || t.trap.isSome) = true :=
  ⟨⟨issues0 [_] (by decide +kernel) _ (.head _), noLoads0 _, by decide +kernel⟩, ⟨_, rfl, rfl, by decide +kernel, by decide +kernel⟩,
    _, rfl, 63, by decide, by decide +kernel, by decide +kernel⟩

/-- The fields of MemberSet, as one fact to decide. -/
abbrev MemberFacts (c : Sel) : Prop :=
  laneSubset c.issue.lanes c.g.liveLanes = true ∧ c.issue.lanes ≠ 0 ∧ (∀ l ∈ c.lanes, (c.thread l).trapped = false)
    ∧ (∀ l ∈ c.lanes, c.g.loading l = false) ∧ c.g.waits = [] ∧ c.g.idx = c.grp ∧ c.g.halted = false ∧ c.b.st = .resident
theorem members (s : State) (c : Sel) (h : MemberFacts c) : MemberSet s c :=
  ⟨h.1, h.2.1, h.2.2.1, h.2.2.2.1, h.2.2.2.2.1, h.2.2.2.2.2.1, h.2.2.2.2.2.2.1, h.2.2.2.2.2.2.2⟩
theorem whole (s : State) (c : Sel) (h : MemberFacts c ∧ c.issue.lanes = c.g.liveLanes) : WholeSet s c := ⟨members s c h.1, h.2⟩
theorem whole0 : WholeSet s0 c0 := whole _ _ (by decide +kernel)

/-- Under a mask register that names the set, which is a part of the live group; every mode, and the FP operations 8 and 10. -/
theorem witness_CrossLaneInstructionsCombineTheContributors :
    let s := placed 2 [{ b0 with groups := [{ g0 with k := g0.k.set 11 2 }] }]
    (∃ c, s.sel = some c ∧ MemberSet s c ∧ c.issue.lanes ≠ c.g.liveLanes ∧ c.g.kr 11 = c.issue.lanes ∧ NoTraps c
      ∧ ∀ i ∈ [Instr.vote (rm' 7 0xF 0 0x1B), .shfl (rm' 1 2 3 0x3B), .matchLanes (rm' 126 1 0 0x1B), .elect (rm' 0 0 0 0x1B), .redux (rm' 1 2 7 0x1B),
          .redux (rm' 1 2 8 0x1B), .scan (rm' 1 2 10 0x3B)], i.wf = true ∧ c.rangeOk i = true)
    ∧ let s := withGroup fun g => { g with k := g.k.set 11 3 }
    ∃ c, s.sel = some c ∧ MemberSet s c ∧ c.g.kr 11 = c.issue.lanes ∧ c.g.liveLanes = c.issue.lanes ∧ NoTraps c
      ∧ ∀ i ∈ [Instr.vote (rm' 7 0xF 0 0), .vote (rm' 0 0 0 0x20), .vote (rm' 0 0 0 0x5B), .vote (rm' 126 0 0 0x7B), .shfl (rm' 1 2 3 0), .shfl (rm' 1 2 3 0x3B),
          .shfl (rm' 1 2 3 0x40), .shfl (rm' 1 2 3 0x60), .matchLanes (rm' 0 126 0 0x20), .matchLanes (rm' 126 1 0 0), .elect (ro 7 0 0), .elect (rm' 0 0 0 0x1B),
          .redux (ro 1 2 0), .redux (rm' 1 2 7 0x1B), .redux (ro 1 2 9), .scan (ro 1 2 0), .scan (rm' 1 2 7 0x3B), .scan (ro 1 2 8)], i.wf = true ∧ c.rangeOk i = true :=
  ⟨⟨selOf _ (by decide +kernel), sel_selOf _ _, members _ _ (by decide +kernel), by decide +kernel, by decide +kernel, by decide +kernel, by decide +kernel⟩,
    selOf _ (by decide +kernel), sel_selOf _ _, members _ _ (by decide +kernel), by decide +kernel, by decide +kernel, by decide +kernel, by decide +kernel⟩

/-- Targets at the next halfword, at the start of the space, and the link pair at its two ends; an odd target, and one in space 0x2. -/
theorem witness_TransfersOfControlSetThePc :
    let ok (pc : Dword) : Prop := pc.getLsbD 0 = false ∧ fetchable s0.dev pc = true
    (∀ i ∈ [Instr.bra ⟨1, none⟩, .bra ⟨-0x8000, none⟩, .cBra ⟨0x3FF⟩, .brc ⟨2, mc 0⟩, .brc ⟨2, mc 0x1F⟩, .jmp (ro 0 126 0), .call ⟨2, none⟩, .call ⟨2, mc 126⟩,
        .calli (ro 126 0 0), .ret ⟨none⟩, .ret ⟨mc 126⟩], i.wf = true ∧ Issues s0 c0 i)
    ∧ (∀ l ∈ c0.lanes, ok ((c0.thread l).pc + BitVec.ofInt 64 2) ∧ ok ((c0.thread l).pc + BitVec.ofInt 64 (-0x10000))
        ∧ ok ((c0.thread l).pc + BitVec.ofInt 64 (2 * (0x3FF : BitVec 11).toInt)) ∧ ok ((c0.thread l).pc + 4) ∧ ok ((c0.thread l).pc + 8)
        ∧ ok ((c0.thread l).vPair 0) ∧ ok ((c0.thread l).vPair 126))
    ∧ (let s := withThreads fun l t => if l = 0 then { t with v := (t.v.set 2 1).set 5 0x2FFF0000 } else t
       ∃ c, Issues s c (.jmp (ro 0 2 0)) ∧ Issues s c (.ret ⟨mc 4⟩) ∧ TrapReady s c [0]
        ∧ (c.guarded (.jmp (ro 0 2 0))).filter (fun l => ((c.thread l).vPair 2).getLsbD 0 || !fetchable s.dev ((c.thread l).vPair 2)) = [0]
        ∧ ((c.thread 0).vPair 2).getLsbD 0 = true
        ∧ (c.guarded (.ret ⟨mc 4⟩)).filter (fun l => ((c.thread l).vPair 4).getLsbD 0 || !fetchable s.dev ((c.thread l).vPair 4)) = [0]
        ∧ ((c.thread 0).vPair 4).getLsbD 0 = false) :=
  ⟨issues0 _ (by decide +kernel), by decide +kernel, selOf _ (by decide +kernel), ⟨sel_selOf _ _, by decide +kernel⟩, ⟨sel_selOf _ _, by decide +kernel⟩,
    trapReady _ _ _ (by decide +kernel) (by decide +kernel), by decide +kernel, by decide +kernel, by decide +kernel, by decide +kernel⟩

def sleeper (st : TState) : State :=
  { withThreads (fun l t => if l = 0 then { t with st := st } else t) with subject := .lane 0 0 0, issue := none }
def asleep (st : TState) (t : Thread) : Bool := t.st == st
theorem emptyCore (s : State) (n : Nat)
    (h : (s.core n).lines = [] ∧ (s.core n).stores = [] ∧ (s.core n).buffers = [] ∧ (s.core n).sent = [] ∧ ∀ b ∈ s.blocksOn n, ∀ g ∈ b.groups, g.loads = []) :
    EmptyCore s n := ⟨h.1, h.2.1, h.2.2.1, h.2.2.2.1, h.2.2.2.2⟩
/-- Every live thread of the issuing group is guard-true in its EXIT. -/
theorem lastOf (s : State) (c : Sel) (h : ∀ l < 64, (c.g.threads[l]?).all (fun th => th.st == .exited || (c.guarded (.exit z)).contains l) = true)
    (g : s.group? c.blk c.grp = some c.g) (len : c.g.threads.length = 64) :
    ∀ l th, s.thread? c.blk c.grp l = some th → th.st ≠ .exited → l ∈ c.guarded (.exit z) := fun l th ht ne => by
  have hl : c.g.threads[l]? = some th := by simpa [State.thread?, g] using ht
  have := h l (len ▸ (List.getElem?_eq_some_iff.mp hl).1)
  simpa [hl, ne] using this
/-- EXIT of one lane of two, of the last two of a block, and of the last two of a group of two; SLEEP of 0 and of 255; a sleep that ends at this tick and one that ends at the next; a YIELD ended by an
opportunity. -/
theorem witness_RegionNopYieldSleepAndExit :
    (let s := placed 1 [b0]
     ∃ c, s.sel = some c ∧ c.rangeOk (.exit z) = true ∧ (∀ l ∈ c.guarded (.exit z), c.g.loading l = false) ∧ c.b.monitored = false
      ∧ (∀ l ∈ c.guarded (.exit z), (s.core c.b.core).unchecked c.blk c.grp l = false)
      ∧ ∃ l th, s.thread? c.blk c.grp l = some th ∧ th.st ≠ .exited ∧ l ∉ c.guarded (.exit z))
    ∧ (s0.sel = some c0 ∧ c0.rangeOk (.exit z) = true ∧ c0.b.monitored = false ∧ c0.l.bars = [] ∧ EmptyCore s0 c0.b.core ∧ c0.guarded (.exit z) ≠ []
      ∧ (∀ l th, s0.thread? c0.blk c0.grp l = some th → th.st ≠ .exited → l ∈ c0.guarded (.exit z))
      ∧ ∀ x ∈ c0.b.groups.zipIdx, x.2 ≠ c0.grp → x.1.ended = true)
    ∧ (let s := placed 3 [{ b0 with groups := [g0, { g0 with idx := 1 }] }]
       ∃ c, s.sel = some c ∧ EmptyCore s c.b.core ∧ (∀ l th, s.thread? c.blk c.grp l = some th → th.st ≠ .exited → l ∈ c.guarded (.exit z))
        ∧ ∃ x ∈ c.b.groups.zipIdx, x.2 ≠ c.grp ∧ x.1.ended = false)
    ∧ (∀ i ∈ [Instr.exit z, .region, .nop, .yield z, .sleep (io 0 0 0), .sleep (io 0 0 255)], i.wf = true ∧ Issues s0 c0 i) ∧ c0.guarded (.yield z) ≠ []
    ∧ (∃ b, (sleeper (.sleeping 0 4)).block? 0 = some b ∧ b.onCore = true)
    ∧ ((sleeper (.sleeping 0 4)).thread? 0 0 0).any (fun t => asleep (.sleeping 0 4) t && t.horizon.isNone) = true ∧ (sleeper (.sleeping 0 4)).gtime = 0
    ∧ ((sleeper (.sleeping 1 4)).thread? 0 0 0).any (asleep (.sleeping 1 4)) = true
    ∧ (let s := { sleeper (.yielding 0 16 4) with clocks := [17, 0, 0, 0] }
       (s.thread? 0 0 0).any (asleep (.yielding 0 16 4)) = true ∧ 16 < s.clocks.getD 0 0) := by
  refine ⟨⟨selOf _ (by decide +kernel), sel_selOf _ _, by decide +kernel, by decide +kernel, by decide +kernel, by decide +kernel, 1, th0, by decide +kernel, by decide +kernel, by decide +kernel⟩,
    ⟨s0_c0, by decide +kernel, by decide +kernel, by decide +kernel, emptyCore _ _ (by decide +kernel), by decide +kernel,
      lastOf _ _ (by decide +kernel) (by decide +kernel) (by decide +kernel), by decide +kernel⟩,
    ⟨selOf _ (by decide +kernel), sel_selOf _ _, emptyCore _ _ (by decide +kernel), lastOf _ _ (by decide +kernel) (by decide +kernel) (by decide +kernel), by decide +kernel⟩,
    issues0 _ (by decide +kernel), by decide +kernel, ⟨_, rfl, by decide +kernel⟩, by decide +kernel, by decide +kernel, by decide +kernel, by decide +kernel⟩

/-! ## Witnesses: allotments and the matrix unit (spec 04, 10) -/

def detLaunch : Launch := { placedLaunch 0 with lr := { (placedLaunch 0).lr with det := true } }
/-- A release and a request that changes nothing, of either file; a growth, without DET and with it. -/
theorem witness_AllotResizesOneFileOrReportsFailure :
    (∀ i ∈ [Instr.allot (ro 0 127 0), .allot (ro 7 0 0), .allot (ro 8 15 0), .allot (ro 15 127 0)], i.wf = true ∧ Issues s0 c0 i) ∧ WholeSet s0 c0
    ∧ (let s := withGroup fun g => { g with vallot := 16 }
       ∃ c, Issues s c (.allot (ro 0 127 0)) ∧ WholeSet s c ∧ c.g.vallot < (ro 0 127 0).a.toNat + 1 ∧ c.l.lr.det = false)
    ∧ (let s := { (withGroup fun g => { g with vallot := 16 }) with launches := [detLaunch] }
       ∃ c, Issues s c (.allot (ro 0 127 0)) ∧ WholeSet s c ∧ c.g.vallot < (ro 0 127 0).a.toNat + 1 ∧ c.l.lr.det = true) :=
  ⟨issues0 _ (by decide +kernel), whole0,
    ⟨selOf _ (by decide +kernel), ⟨sel_selOf _ _, by decide +kernel⟩, whole _ _ (by decide +kernel), by decide +kernel, by decide +kernel⟩,
    selOf _ (by decide +kernel), ⟨sel_selOf _ _, by decide +kernel⟩, whole _ _ (by decide +kernel), by decide +kernel, by decide +kernel⟩

/-- A tile of FP32 and one of FP64, whose last row ends at the end of the tile store; and one that ends beyond it. -/
theorem witness_AccumulatorInstructionsMoveTiles :
    let s := withGroup fun g => { g with s := [0xFE00, 0, 0xFF00, 0xFF10, 8] ++ List.replicate 123 0 }
    ∃ c, s.sel = some c ∧ WholeSet s c ∧ c.l.lr.det = false
      ∧ (∀ i ∈ [Instr.accz (ro 7 0 0), .accld (rs 14 0 1), .accld (rs 7 2 1), .accrd (ro 112 7 3), .accrd (ro 112 14 7), .accwr (ro 7 112 3), .accwr (ro 14 112 7), .accld (rs 0 0 4), .accld (rs 0 3 0), .mmaflg (ro 127 0 3)],
          i.wf = true ∧ c.rangeOk i = true)
      ∧ (c.g.sr 0).toNat + 63 * (c.g.sr 1).toNat + 64 * 8 ≤ c.l.lr.tiles ∧ (c.g.sr 2).toNat + 63 * (c.g.sr 1).toNat + 64 * 4 ≤ c.l.lr.tiles
      ∧ TrapReady s c c.lanes ∧ (c.g.sr 4).toNat % 16 ≠ 0 ∧ (c.g.sr 3).toNat % 16 = 0 ∧ (c.g.sr 0).toNat % 16 = 0
      ∧ c.l.lr.tiles < (c.g.sr 3).toNat + 63 * (c.g.sr 0).toNat + 64 * 4 :=
  ⟨selOf _ (by decide +kernel), sel_selOf _ _, whole _ _ (by decide +kernel), by decide +kernel, by decide +kernel, by decide +kernel, by decide +kernel,
    trapReady _ _ _ (by decide +kernel) (by decide +kernel), by decide +kernel, by decide +kernel, by decide +kernel, by decide +kernel⟩

def mmaFlight : MatrixOp := { sparse := false, fmt := 7, tn := false, q := 0, n16 := false, rnd := 0, tile := 6, a := [(0, List.replicate 8 0), (63, [])], b := [] }
def flying (m : MatrixOp) : State := { withGroup fun g => { g with flights := [m] } with subject := .group 0 0 }
/-- The premises of the completion, for one flight of the placed group. -/
abbrev FliesAs (m : MatrixOp) (b : Block) (g : Group) (l : Launch) : Prop :=
  (flying m).subject = .group b.id g.idx ∧ (flying m).block? b.id = some b ∧ (flying m).group? b.id g.idx = some g ∧ (flying m).launch? b.launch = some l
    ∧ b.onCore = true ∧ g.flights.head? = some m ∧ b.monitored = false ∧ m.fmt ≤ 9 ∧ (m.sparse = true → m.fmt ≤ 6 ∧ m.tn = false)
    ∧ (m.tn = true → m.q < 64 / matK m.fmt) ∧ (m.a.map Prod.fst).Pairwise (· < ·) ∧ (∀ x ∈ m.a, x.1 < 64)
    ∧ m.tile + 1 < g.acc.length + (if m.fmt = 9 then 0 else 1)
def Flies (m : MatrixOp) : Prop := ∃ b g l, FliesAs m b g l
theorem flies (m : MatrixOp) (h : FliesAs m { b0 with groups := [{ g0 with flights := [m] }] } { g0 with flights := [m] } (placedLaunch 0)) : Flies m := ⟨_, _, _, h⟩
def laddered : State := { placed 3 [{ b0 with rung := 4 }] with launches := [{ placedLaunch 0 with lr := { (placedLaunch 0).lr with ladder := true } }] }
/-- MMA with its first and its last fixed format, MMASP, and the rung's format with the ladder and without it; an offset that is misaligned and one
beyond the tile store; completions of a dense, a transposed FP64 and a sparse operation; a finite, an infinite and a NaN product. -/
theorem witness_MatrixInstructionsStartOneOperation :
    (WholeSet s0 c0 ∧ c0.l.lr.det = false ∧ TrapReady s0 c0 c0.lanes ∧ c0.l.lr.ladder = false
      ∧ (∀ i ∈ [Instr.mma (rsm 0 0 0 0), .mma (rsm 78 112 0 0x1F), .mma (rsm 0x50 0 0 0), .mmasp (rsm 0 0 0 0), .mmasp (rsm 0x34 112 0 6)], i.wf = true ∧ Issues s0 c0 i)
      ∧ (c0.g.sr 0).toNat % 16 = 0 ∧ (c0.g.sr 0).toNat + denseBytes 9 true ≤ c0.l.lr.tiles ∧ (c0.g.sr 0).toNat + sparseBytes 6 true ≤ c0.l.lr.tiles)
    ∧ (let s := withGroup fun g => { g with s := [8, 0xFFF0] ++ List.replicate 126 0 }
       ∃ c, WholeSet s c ∧ (∀ i ∈ [Instr.mma (rsm 0 0 0 0), .mma (rsm 0 0 1 0)], Issues s c i) ∧ TrapReady s c c.lanes ∧ (c.g.sr 0).toNat % 16 ≠ 0
        ∧ (c.g.sr 1).toNat % 16 = 0 ∧ c.l.lr.tiles < (c.g.sr 1).toNat + denseBytes 0 false)
    ∧ (∃ c, WholeSet laddered c ∧ Issues laddered c (.mma (rsm 0x50 0 0 0)) ∧ c.l.lr.ladder = true ∧ [0, 3, 7, 8, 9][c.b.rung]? = some 9 ∧ 0 + 1 < c.l.lr.accs ∧ 0 + mmaRegs 9 ≤ c.g.vallot)
    ∧ Flies mmaFlight ∧ Flies { mmaFlight with fmt := 9, tn := true, q := 7 } ∧ Flies { mmaFlight with sparse := true, fmt := 4 }
    ∧ ((⟨.fin false 1 0, 0⟩ : MatVal).scale ≠ 0xFF ∧ (⟨.nan false true 0 10, 0⟩ : MatVal).v.isNaN = true)
    ∧ ([⟨.fin false 1 0, false⟩, ⟨.inf true, false⟩] : List Product) ≠ [] := by
  refine ⟨⟨whole0, by decide +kernel, ready0 _ (by decide +kernel), by decide +kernel, issues0 _ (by decide +kernel), by decide +kernel, by decide +kernel, by decide +kernel⟩,
    ⟨selOf _ (by decide +kernel), whole _ _ (by decide +kernel), fun i hi => ⟨sel_selOf _ _, List.all_eq_true.mp (by decide +kernel) i hi⟩,
      trapReady _ _ _ (by decide +kernel) (by decide +kernel), by decide +kernel, by decide +kernel, by decide +kernel⟩,
    ⟨selOf _ (by decide +kernel), whole _ _ (by decide +kernel), ⟨sel_selOf _ _, by decide +kernel⟩, by decide +kernel, by decide +kernel, by decide +kernel, by decide +kernel⟩,
    flies _ (by decide +kernel),
    flies _ (by decide +kernel), flies _ (by decide +kernel), ⟨by decide, rfl⟩, by decide⟩

/-! ## Witnesses: traps, breakpoints and kills (spec 15) -/

def trap0 : Trap := { resume := 0x10004, region := 0x10000, record := rec0 }
/-- One lane of the placed group in a handler. -/
def handled : State := placed 1 [{ b0 with groups := [{ g0 with threads := g0.threads.mapIdx fun l t => if l = 0 then { t with trap := some trap0 } else t }] }]
/-- The whole set at a cross-lane instruction under k11, and at one whose wait has been opened with a snapshot of lane 0. -/
def masked (k : LaneSet) (w : List MemberWait) : State := withGroup fun g => { g with k := g.k.set 11 k, waits := w }
def wait0 (k : LaneSet) : MemberWait := ⟨BitVec.ofNat 64 placedAt, .vote (rm' 7 0xF 0 0x1B), k, 0, 0⟩
/-- The premises of the mask faults' clauses. -/
abbrev AtMask (c : Sel) : Prop :=
  (∀ i ∈ [Instr.vote (rm' 7 0xF 0 0x1B), .shfl (rm' 1 2 3 0x3B), .redux (rm' 1 2 7 0x1B), .matchLanes (rm' 126 1 0 0x1B), .scan (rm' 1 2 7 0x3B), .elect (rm' 0 0 0 0x1B)],
      c.rangeOk i = true)
    ∧ (∀ l ∈ c.lanes, c.g.loading l = false)
/-- TRAP 255, BKPT with debug off and on, and v127 in a group that holds v0 to v126; mask faults 1, 2 and 4 and again 2 behind an open wait, and 5;
MX blocks at v127. -/
theorem witness_TrapsEnterTheHandler :
    ((∀ i ∈ [Instr.trap (io 0 0 255), .bkpt], i.wf = true ∧ Issues s0 c0 i) ∧ TrapReady s0 c0 (c0.guarded (.trap (io 0 0 255))) ∧ TrapReady s0 c0 c0.lanes
      ∧ (s0.part? c0.l.part).any Partition.debug = false)
    ∧ (let s := { s0 with partitions := [{ Partition.new 0 (BitVec.allOnes 48) with debug := true }] }
       ∃ c, Issues s c .bkpt ∧ (s.part? c.l.part).any Partition.debug = true ∧ LogRoom s 1)
    ∧ (let s := withGroup fun g => { g with vallot := 127 }
       let i := Instr.iadd (ro 127 1 2)
       ∃ c, i.wf = true ∧ (encode i).isSome = true ∧ s.sel = some c ∧ pastEnd c.b.rung i = false ∧ c.rangeOk i = false ∧ TrapReady s c c.lanes)
    ∧ (∃ c, (masked 7 []).sel = some c ∧ AtMask c ∧ TrapReady (masked 7 []) c c.lanes ∧ c.g.openWait c.issue.pc true = none
        ∧ c.g.kr 11 &&& ~~~c.g.liveLanes ≠ 0)
    ∧ (∃ c, (masked 1 []).sel = some c ∧ AtMask c ∧ TrapReady (masked 1 []) c c.lanes ∧ c.g.openWait c.issue.pc true = none
        ∧ c.g.kr 11 &&& ~~~c.g.liveLanes = 0 ∧ c.issue.lanes &&& ~~~c.g.kr 11 ≠ 0)
    ∧ (∃ c, (masked 3 [wait0 1]).sel = some c ∧ AtMask c ∧ TrapReady (masked 3 [wait0 1]) c c.lanes
        ∧ c.g.openWait c.issue.pc true = some (wait0 1) ∧ c.g.kr 11 ≠ (wait0 1).snapshot)
    ∧ (∃ c, (masked 1 [wait0 1]).sel = some c ∧ AtMask c ∧ TrapReady (masked 1 [wait0 1]) c c.lanes
        ∧ c.g.openWait c.issue.pc true = some (wait0 1) ∧ c.g.kr 11 = (wait0 1).snapshot ∧ c.issue.lanes &&& ~~~c.g.kr 11 ≠ 0)
    ∧ (∃ c, handled.sel = some c
        ∧ (∀ i ∈ [Instr.mma (rsm 0 0 0 0), .mmasp (rsm 0 0 0 0), .accz (ro 7 0 0), .accld (rs 14 0 1), .accst (rs 0 0 1), .accrd (ro 112 7 3), .accwr (ro 7 112 3),
            .allot (ro 0 127 0), .bararr (ro 0 0 0), .bar (ro 0 0 0)], c.rangeOk i = true)
        ∧ c.lanes = [0] ∧ (c.thread 0).trapped = true ∧ c.g.loading 0 = false ∧ LogRoom handled 1 ∧ c.b.st = .resident ∧ c.b.doomed = none)
    ∧ (TrapReady s0 c0 c0.lanes ∧ 128 < 125 + elemRegs (elemAt c0.b.rung 0)) :=
  ⟨⟨issues0 _ (by decide +kernel), ready0 _ (by decide +kernel), ready0 _ (by decide +kernel), by decide +kernel⟩,
    ⟨selOf _ (by decide +kernel), ⟨sel_selOf _ _, by decide +kernel⟩, by decide +kernel, logRoom _ _ rfl⟩,
    ⟨selOf _ (by decide +kernel), by decide +kernel, by decide +kernel, sel_selOf _ _, by decide +kernel, by decide +kernel, trapReady _ _ _ rfl (by decide +kernel)⟩,
    ⟨selOf _ (by decide +kernel), sel_selOf _ _, by decide +kernel, trapReady _ _ _ rfl (by decide +kernel), by decide +kernel, by decide +kernel⟩,
    ⟨selOf _ (by decide +kernel), sel_selOf _ _, by decide +kernel, trapReady _ _ _ rfl (by decide +kernel), by decide +kernel, by decide +kernel, by decide +kernel⟩,
    ⟨selOf _ (by decide +kernel), sel_selOf _ _, by decide +kernel, trapReady _ _ _ rfl (by decide +kernel), by decide +kernel, by decide +kernel⟩,
    ⟨selOf _ (by decide +kernel), sel_selOf _ _, by decide +kernel, trapReady _ _ _ rfl (by decide +kernel), by decide +kernel, by decide +kernel, by decide +kernel⟩,
    ⟨selOf _ (by decide +kernel), sel_selOf _ _, by decide +kernel, by decide +kernel, by decide +kernel, by decide +kernel, logRoom _ _ rfl, by decide +kernel, by decide +kernel⟩,
    ready0 _ (by decide +kernel), by decide +kernel⟩

/-- TRET inside a handler and outside one; the kills of one group of two and of a resident block. -/
theorem witness_TretFltrdAndKills :
    (let s := withThreads fun _ t => { t with trap := some trap0 }
     ∃ c, Issues s c .tret ∧ ∀ l ∈ c.guarded .tret, (c.thread l).trapped = true)
    ∧ (Issues s0 c0 .tret ∧ (∀ l ∈ c0.guarded .tret, (c0.thread l).trapped = false) ∧ TrapReady s0 c0 (c0.guarded .tret))
    ∧ (∀ i ∈ [Instr.fltrd (ro 124 0 0), .fltrd (ro 0 1 0), .killg z, .killb z], i.wf = true ∧ Issues s0 c0 i) ∧ c0.guarded (.killg z) ≠ []
    ∧ c0.b.st = .resident ∧ c0.b.doomed = none
    ∧ (let s := placed 3 [{ b0 with doomed := some .cancellation }]
       ∃ c, Issues s c (.killb z) ∧ c.guarded (.killb z) ≠ [] ∧ c.b.st = .resident ∧ c.b.doomed ≠ none)
    ∧ (let s := placed 3 [{ b0 with groups := [g0, { g0 with idx := 1 }] }]
       ∃ c, Issues s c (.killg z) ∧ c.guarded (.killg z) ≠ [] ∧ ∃ g ∈ c.b.groups.zipIdx, g.2 ≠ c.grp ∧ g.1.ended = false) :=
  ⟨⟨selOf _ (by decide +kernel), ⟨sel_selOf _ _, by decide +kernel⟩, by decide +kernel⟩,
    ⟨⟨s0_c0, by decide +kernel⟩, by decide +kernel, ready0 _ (by decide +kernel)⟩, issues0 _ (by decide +kernel), by decide +kernel, by decide +kernel, by decide +kernel,
    ⟨selOf _ (by decide +kernel), ⟨sel_selOf _ _, by decide +kernel⟩, by decide +kernel, by decide +kernel, by decide +kernel⟩,
    selOf _ (by decide +kernel), ⟨sel_selOf _ _, by decide +kernel⟩, by decide +kernel, by decide +kernel⟩

/-! ## Witnesses: memory (spec 06, 07, 09) -/

theorem accessOk {s : State} {c : Sel} {ea n a : Nat} (h : spaceFault s.podSize ea = none ∧ ea % a = 0 ∧ (eaSpace ea = 2 → eaOff ea + n ≤ 4 * c.l.lr.priv)
    ∧ (eaSpace ea = 3 → eaOff ea + n ≤ c.l.lr.tiles)) : AccessOk s c ea n a := ⟨h.1, h.2.1, h.2.2.1, h.2.2.2⟩
theorem plain0 : Plain s0 c0 := by constructor <;> decide +kernel
theorem empty0 : EmptyCore s0 c0.b.core := by constructor <;> decide +kernel
/-- Both lanes with the first registers given. -/
def regs (ws : List Word) : State := withThreads fun _ t => { t with v := ws ++ List.replicate (128 - ws.length) 0 }
/-- The address of LD and ST. -/
def memEa (s : State) (c : Sel) (o : OpI) (n l : Nat) : Nat :=
  normEa s.dev (baseReg c.g (c.thread l) (modsOf o.m).c o.a + o.imm.signExtend 64 * BitVec.ofNat 64 n).toNat
theorem accessesOk {s : State} {c : Sel} {o : OpI} {n : Nat} {ls : List Nat} (ha : ∀ l ∈ ls, let ea := memEa s c o n l
      spaceFault s.podSize ea = none ∧ ea % n = 0 ∧ (eaSpace ea = 2 → eaOff ea + n ≤ 4 * c.l.lr.priv) ∧ (eaSpace ea = 3 → eaOff ea + n ≤ c.l.lr.tiles)) :
    ∀ l ∈ ls, AccessOk s c (memEa s c o n l) n n := fun l hl => accessOk (ha l hl)
theorem ownedOk {c : Sel} (ho : c.l.lr.own = false) (ea n : Nat) : OwnedOk c ea n := fun h => by rw [ho] at h; cases h
def store0 (lanes : LaneSet) (bytes : List Byte) : Store :=
  { id := 0, blk := 0, grp := 0, lanes := lanes, readers := lanes, eas := [], pc := 0, ctx := 0, line := 0, bytes := bytes.zipIdx.map fun x => ⟨x.2, x.1, 0⟩,
    byp := false, stream := false, answered := none, queued := false, page := none }
def line0 (dirty : BitVec 128) : Line :=
  { key := ⟨0, 0⟩, valid := BitVec.allOnes 128, dirty := dirty, data := List.replicate 128 7, pr := true, pw := true, lease := 100, place := .hbm 0,
    since := 0, stream := false }
def withCore (s : State) (f : Core → Core) : State := { s with cores := [f (Core.new 0)] }

/-- LD of every width at address 0, of 16 bytes at the end of private memory and of the tile store; LDP and LDT at the last word; a byte the
lane itself has stored; and a misaligned word in one lane. -/
theorem witness_LoadsWriteTheirRegistersOrRequestTheirBytes :
    (Plain s0 c0 ∧ (∀ i ∈ [Instr.ldN8 (io 0 0 0), .ldI8 (iom 0 0 0 0x74), .ldN16 (io 0 0 0), .ldI16 (io 0 0 0), .ldB32 (iom 0 0 0 3), .ldB64 (io 126 0 0),
        .ldB128 (io 124 0 0)], i.wf = true ∧ Issues s0 c0 i) ∧ (∀ l ∈ c0.guarded (.ldB128 (io 124 0 0)), AccessOk s0 c0 (memEa s0 c0 (io 124 0 0) 16 l) 16 16)
      ∧ (s0.core 0).lines = [] ∧ (s0.core 0).stores = [])
    ∧ (∀ ws ∈ [[0x3F0, 0x2FFF0000], [0xFFF0, 0x3FFF0000]], ∃ c, Issues (regs ws) c (.ldB128 (io 124 0 0)) ∧ Plain (regs ws) c
        ∧ ∀ l ∈ c.guarded (.ldB128 (io 124 0 0)), AccessOk (regs ws) c (memEa (regs ws) c (io 124 0 0) 16 l) 16 16)
    ∧ (let s := regs [252, 0xFFF0]
       ∃ c, Plain s c ∧ (∀ i ∈ [Instr.ldp (iom 124 0 0 2), .ldtB128 (io 124 1 0), .ldtB32 (io 127 1 3)], i.wf = true ∧ Issues s c i)
        ∧ ∀ l ∈ c.lanes, ((c.thread l).vr 0).toNat + 4 ≤ c.l.lr.priv ∧ ((c.thread l).vr 1).toNat + 16 ≤ c.l.lr.tiles ∧ ((c.thread l).vr 1).toNat % 16 = 0)
    ∧ (let s := withCore s0 fun k => { k with stores := [store0 3 [1, 2, 3, 4]], nextReq := 1 }
       ∃ c, Issues s c (.ldB32 (io 1 0 0)) ∧ Issues s c (.ldB32 (iom 1 0 0 0x74)) ∧ Plain s c ∧ ∀ l ∈ c.guarded (.ldB32 (io 1 0 0)), eaSpace (memEa s c (io 1 0 0) 4 l) ≠ 3
        ∧ ∀ a ∈ s.bytesAt c l (memEa s c (io 1 0 0) 4 l) 4, ((s.core c.b.core).ownByte c.blk c.grp l (s.core c.b.core).nextReq a).isSome = true
          ∧ s.answer c.req .rd (128 * (a / 128)) 128 = .served (.hbm 0) placedEntry.key 8000 true true)
    ∧ (let s := { regs [1] with issue := some ⟨0, 0, 1, BitVec.ofNat 64 placedAt⟩ }
       ∃ c, Issues s c (.ldB32 (io 1 0 0)) ∧ TrapReady s c (c.guarded (.ldB32 (io 1 0 0))) ∧ c.guarded (.ldB32 (io 1 0 0)) = [0]
        ∧ spaceFault s.podSize (memEa s c (io 1 0 0) 4 0) = none ∧ memEa s c (io 1 0 0) 4 0 % 4 ≠ 0) := by
  refine ⟨⟨plain0, issues0 _ (by decide +kernel), accessesOk (by decide +kernel), by decide +kernel, by decide +kernel⟩, ?_, ?_, ?_, ?_⟩
  · simp only [List.mem_cons, List.not_mem_nil, or_false]
    rintro ws (rfl | rfl) <;>
      exact ⟨selOf _ (by decide +kernel), ⟨sel_selOf _ _, by decide +kernel⟩, by constructor <;> decide +kernel, accessesOk (by decide +kernel)⟩
  · exact ⟨selOf _ (by decide +kernel), by constructor <;> decide +kernel, issues _ _ _ (by decide +kernel), by decide +kernel⟩
  · exact ⟨selOf _ (by decide +kernel), ⟨sel_selOf _ _, by decide +kernel⟩, ⟨sel_selOf _ _, by decide +kernel⟩, by constructor <;> decide +kernel, by decide +kernel⟩
  · exact ⟨selOf _ (by decide +kernel), ⟨sel_selOf _ _, by decide +kernel⟩, trapReady _ _ _ rfl (by decide +kernel), by decide +kernel, by decide +kernel, by decide +kernel⟩

/-- ST of every width, into private memory at its end, into the tile store at its end, and into a line the core may write; TZERO of its last 16 bytes. -/
theorem witness_StoresReachTheTileStoreTheL1OrTheBuffer :
    (let s := regs [0x3F0, 0x2FFF0000, 0xFFF0, 0x3FFF0000, 252]
     ∃ c, Plain s c ∧ (∀ i ∈ [Instr.stB8 (io 0 0 0), .stB16 (io 0 0 0), .stB32 (iom 0 0 0 3), .stB64 (io 126 0 0), .stB128 (io 124 0 0), .stB128 (io 124 2 0),
          .sttB32 (io 127 2 3), .sttB128 (io 124 2 0), .stp (iom 124 4 0 2)], i.wf = true ∧ Issues s c i)
      ∧ (∀ l ∈ c.guarded (.stB128 (io 124 0 0)), AccessOk s c (memEa s c (io 124 0 0) 16 l) 16 16 ∧ OwnedOk c (memEa s c (io 124 0 0) 16 l) 16)
      ∧ (∀ l ∈ c.guarded (.stB128 (io 124 2 0)), AccessOk s c (memEa s c (io 124 2 0) 16 l) 16 16 ∧ OwnedOk c (memEa s c (io 124 2 0) 16 l) 16)
      ∧ (∀ l ∈ c.lanes, ((c.thread l).vr 4).toNat + 4 ≤ c.l.lr.priv) ∧ c.b.tile.wf = true ∧ (s.core c.b.core).stores = [] ∧ (s.core c.b.core).lines = [])
    ∧ (let s := withCore s0 fun k => { k with lines := [line0 0] }
       ∃ c, Issues s c (.stB32 (io 5 0 0)) ∧ Plain s c ∧ (s.core c.b.core).stores = [] ∧ (∀ l ∈ c.lanes, c.g.loading l = false)
        ∧ (∀ l ∈ c.guarded (.stB32 (io 5 0 0)), ∀ x ∈ (s.bytesAt c l (memEa s c (io 5 0 0) 4 l) 4).zip ((c.thread l).stored 5 4),
            ((s.core c.b.core).hot ⟨c.l.ctx, x.1 / 128⟩ s.gtime).any Line.pw = true) ∧ ∀ ln ∈ (s.core c.b.core).lines, ln.data.length = 128)
    ∧ (let s := regs [0xFFF0, 16]
       ∃ c, Issues s c (.tzero (ro 0 0 1)) ∧ ∀ l ∈ c.guarded (.tzero (ro 0 0 1)), ((c.thread l).vr 0).toNat % 16 = 0
        ∧ (operandB c.g (c.thread l) false 1).toNat % 16 = 0 ∧ ((c.thread l).vr 0).toNat + (operandB c.g (c.thread l) false 1).toNat ≤ c.l.lr.tiles) := by
  refine ⟨?_, ⟨selOf _ (by decide +kernel), ⟨sel_selOf _ _, by decide +kernel⟩, by constructor <;> decide +kernel, by decide +kernel, by decide +kernel, by decide +kernel,
    by decide +kernel⟩, selOf _ (by decide +kernel), ⟨sel_selOf _ _, by decide +kernel⟩, by decide +kernel⟩
  have ow (s : State) (h : s.sel.isSome = true) (o : (selOf s h).l.lr.own = false) (e : Nat → Nat) (ls : List Nat) :
      ∀ l ∈ ls, OwnedOk (selOf s h) (e l) 16 := fun l _ => ownedOk o _ _
  exact ⟨selOf _ (by decide +kernel), by constructor <;> decide +kernel, issues _ _ _ (by decide +kernel),
    fun l hl => ⟨accessesOk (by decide +kernel) l hl, ow _ _ (by decide +kernel) _ _ l hl⟩,
    fun l hl => ⟨accessesOk (by decide +kernel) l hl, ow _ _ (by decide +kernel) _ _ l hl⟩, by decide +kernel, by decide +kernel, by decide +kernel, by decide +kernel⟩

def x0 : LaneLoad := { lane := 0, vd := 127, kind := .b32, ea := 124, bytes := [(124, none), (125, none), (126, none), (127, none)], probe := none, region := 0x10000 }
def load0 : Load := { id := 0, seq := 0, pc := 0x10000, lanes := [x0], byp := false, ro := false, stream := false, plain := [], prefetch := false }
def key0 : EntryKey := placedEntry.key

/-- A load of the last word of a line is answered; a store of a whole line, through the L1 and with `.byp`; a line 256 ticks before the end of
its lease and a write-back at the head of its FIFO; a clean line at the end of its lease and one before it. -/
theorem witness_MemoryAnswersLoadsStoresAndWriteBacks :
    (let g := { g0 with loads := [load0] }
     let b := { b0 with groups := [g] }
     let s := { placed 3 [b] with subject := .load 0 0 0 }
     s.block? b.id = some b ∧ s.group? b.id 0 = some g ∧ s.launch? b.launch = some (placedLaunch 0) ∧ b.onCore = true ∧ load0.lines = [0]
      ∧ (∀ y ∈ x0.bytes, y.2 = none) ∧ x0.bytes.length = x0.kind.size ∧ s.thread? b.id 0 0 = some th0 ∧ (∀ u ∈ g.threads, u.horizon = none)
      ∧ s.answer (reqOf (placedLaunch 0) b.core) .rd 0 128 = .served (.hbm 0) key0 8000 true true ∧ s.images = [] ∧ s.errors = [] ∧ (s.core b.core).line? ⟨0, 0⟩ = none
      ∧ (s.core b.core).lines.length < 16 ∧ (s.core b.core).sent = [] ∧ s.answered b.core 0 0 b.id 0 0 = [(b.id, 0, load0)])
    ∧ (∀ byp ∈ [false, true],
        let e := { store0 1 (List.replicate 128 5) with byp := byp }
        let s := { withCore s0 fun k => { k with stores := [e] } with subject := .store 0 0 }
        (s.core 0).stores = [e] ∧ s.block? e.blk = some b0 ∧ s.launch? b0.launch = some (placedLaunch 0)
        ∧ s.answer ⟨0, false, e.ctx, dieOf 0⟩ .wr (128 * e.line) 128 = .served (.hbm 0) key0 8000 true true ∧ s.images = [] ∧ s.errors = [] ∧ g0.loads = []
        ∧ s.group? e.blk e.grp = some g0 ∧ (s.core 0).lines.length < 16 ∧ (s.core 0).sent = [] ∧ (e.bytes.map StoreByte.off).Nodup ∧ (∀ y ∈ e.bytes, y.off < 128)
        ∧ (s.core 0).line? ⟨e.ctx, e.line⟩ = none)
    ∧ (let ln := { line0 1 with lease := 256 }
       let s := withCore s0 fun k => { k with lines := [ln] }
       let x : Sent := { key := ⟨0, 0⟩, part := 0, place := .hbm 0, bytes := [(0, 7)], epoch := 1, since := 0 }
       let s' := withCore s0 fun k => { k with lines := [ln], sent := [x] }
       let old : Sent := { x with key := ⟨0, 1⟩, epoch := 0 }
       let s'' := withCore s0 fun k => { k with lines := [{ ln with dirty := 0, lease := 0 }], sent := [old, x] }
       (s.core 0).line? ⟨0, 0⟩ = some ln ∧ ln.dirty ≠ 0 ∧ ln.lease ≤ s.gtime + 256
        ∧ (s'.core 0).sent.find? (fun y => y.key == ⟨0, 0⟩) = some x ∧ (∀ y ∈ (s'.core 0).sent, x.epoch ≤ y.epoch) ∧ s'.errors = [] ∧ s'.images = []
        ∧ (s''.core 0).sent.find? (fun y => y.key == ⟨0, 0⟩) = some x ∧ (∃ y ∈ (s''.core 0).sent, y.epoch < x.epoch)
        ∧ (s''.core 0).line? ⟨0, 0⟩ = some { ln with dirty := 0, lease := 0 })
    ∧ ∀ now ∈ [100, 99], let s := { withCore s0 fun k => { k with lines := [line0 0] } with gtime := now }
        (s.core 0).line? ⟨0, 0⟩ = some (line0 0) ∧ ((line0 0).lease ≤ s.gtime ∨ s.gtime < (line0 0).lease) ∧ (line0 0).dirty = 0 ∧ (∀ x ∈ (s.core 0).sent, x.key ≠ ⟨0, 0⟩) := by
  refine ⟨?_, ?_, ?_, ?_⟩ <;> decide +kernel

/-- The access of an ordered or atomic instruction of lanes at one aligned address that its home serves. -/
theorem witness_AtomicsReleasesAndAcquiresActAtTheHome :
    Plain s0 c0 ∧ EmptyCore s0 c0.b.core ∧ s0.images = [] ∧ s0.errors = []
    ∧ (∀ i ∈ [Instr.atomB32 (rm' 5 0 4 0x02), .atomB32 (rm' 5 0 4 0xA4), .atomB64 (rm' 126 0 4 0x02), .casB32 (rm' 5 0 4 0x62), .casB64 (rm' 126 0 4 0x02),
        .ldacqB32 (iom 5 0 0 2), .ldacqB64 (iom 126 0 0 4), .strelB32 (iom 5 0 0 2), .strelB64 (iom 126 0 0 4)],
        (i.wf = true ∧ Issues s0 c0 i) ∧ NoLoads c0 i ∧ c0.guarded i = [0, 1])
    ∧ c0.b.onCore = true ∧ c0.l.lr.own = false
    ∧ (∀ l ∈ [0, 1], let ea := normEa s0.dev ((c0.thread l).vPair 0).toNat
        ea = 0 ∧ memEa s0 c0 (iom 5 0 0 2) 4 l = 0 ∧ ea / 128 = 0 ∧ spaceFault s0.podSize ea = none
        ∧ (∀ scope ∈ [2, 4], scopeSuits s0.dev ea scope true = true ∧ scopeSuits s0.dev ea scope false = true) ∧ eaSpace ea ≠ 3 ∧ ea % 8 = 0)
    ∧ (∀ right ∈ [Right.rd, .wr, .atomic], s0.answer c0.req right 0 128 = .served (.hbm 0) key0 8000 true true) := by
  refine ⟨plain0, empty0, rfl, rfl, fun i hi => ⟨issues0 _ (by decide +kernel) i hi, noLoads0 i, (by decide +kernel : ∀ j ∈ _, c0.guarded j = [0, 1]) i hi⟩,
    by decide +kernel, by decide +kernel, by decide +kernel, by decide +kernel⟩
/-- The same at scope .core, by one lane. -/
theorem witness_AtomicsAtScopeCore :
    let s := placed 1 [b0]
    ∃ c, Plain s c ∧ EmptyCore s c.b.core ∧ (∀ i ∈ [Instr.atomB32 (rm' 5 0 4 1), .casB64 (rm' 126 0 4 0), .ldacqB32 (iom 5 0 0 1), .strelB32 (iom 5 0 0 0)],
        (i.wf = true ∧ Issues s c i) ∧ c.guarded i = [0]) ∧ (∀ scope ∈ [0, 1], scopeSuits s.dev 0 scope true = true ∧ scopeSuits s.dev 0 scope false = true)
      ∧ s.answer c.req .atomic 0 128 = .served (.hbm 0) key0 8000 true true := by
  refine ⟨selOf _ (by decide +kernel), by constructor <;> decide +kernel, by constructor <;> decide +kernel, fun i hi => ⟨issues _ _ _ (by decide +kernel) i hi,
    (by decide +kernel : ∀ j ∈ _, (selOf (placed 1 [b0]) _).guarded j = [0]) i hi⟩, by decide +kernel, by decide +kernel⟩

/-- Fences of every kind at .thread and at .pod, with a dirty line in the L1; PREF of each kind; CCTL over the first line; and a release that a
monitored attempt may not make. -/
theorem witness_FencesAndCacheControlsOrderTheL1 :
    (let s := withCore (regs [0, 0, 128]) fun k => { k with lines := [line0 1] }
     ∃ c, Plain s c ∧ (∀ i ∈ [Instr.fenceAr (ro 2 0 0), .fenceAcq (ro 13 0 0), .fenceRel (ro 16 0 0), .fenceSc (ro 26 0 0), .drainst z, .pref (io 0 0 0), .pref (io 1 0 0),
          .cctlWb (ro 1 0 2), .cctlInv (ro 2 0 2), .cctlIi (ro 0 0 2), .cctlRodrop (ro 5 0 2), .cctlWbAll (ro 3 0 0), .cctlInvAll (ro 4 0 0)],
          (i.wf = true ∧ Issues s c i) ∧ c.guarded i = [0, 1])
      ∧ c.g.loads = [] ∧ (s.core c.b.core).stores = [] ∧ (s.core c.b.core).buffers = [] ∧ s.images = [] ∧ (s.core c.b.core).sent = []
      ∧ s.errors = [] ∧ (∀ e ∈ s.entries, e.st ≠ .rejected) ∧ ((s.core c.b.core).lines = [line0 1] ∧ (line0 1).key = ⟨c.l.ctx, 0⟩)
      ∧ c.b.monitored = false ∧ (∀ l ∈ c.lanes, (c.thread l).codeRanges = [] ∧ (c.thread l).imprecise = [] ∧ (s.core c.b.core).unchecked c.blk c.grp l = false)
      ∧ ∀ l ∈ c.lanes, (s.cctlRange c l ((c.thread l).vPair 0) (operandB c.g (c.thread l) false 2).toNat).isOk = true)
    ∧ (let s := placed 3 [{ b0 with monitored := true }]
       ∃ c, Issues s c (.fenceSc (ro 26 0 0)) ∧ c.b.monitored = true ∧ TrapReady s c (c.guarded (.fenceSc (ro 26 0 0))) ∧ c.guarded (.fenceSc (ro 26 0 0)) ≠ []) := by
  refine ⟨⟨selOf _ (by decide +kernel), by constructor <;> decide +kernel, fun i hi => ⟨issues _ _ _ (by decide +kernel) i hi,
      (by decide +kernel : ∀ j ∈ _, (selOf (withCore (regs [0, 0, 128]) fun k => { k with lines := [line0 1] }) _).guarded j = [0, 1]) i hi⟩, by decide +kernel, by decide +kernel, by decide +kernel, by decide +kernel,
      by decide +kernel, by decide +kernel, by decide +kernel, by decide +kernel, by decide +kernel, by decide +kernel, by decide +kernel⟩,
    selOf _ (by decide +kernel), ⟨sel_selOf _ _, by decide +kernel⟩, by decide +kernel, trapReady _ _ _ rfl (by decide +kernel), by decide +kernel⟩

/-! ## Witnesses: sync words, completion objects, pages (spec 08, 09) -/

def waiter (w : WaitOn) (b : Block) : Block := { b with groups := [{ g0 with threads := { th0 with st := .waiting w } :: List.replicate 63 Thread.blank }] }
def waiting (w : WaitOn) (b : Block := b0) : State := { placed 1 [waiter w b] with subject := .lane 0 0 0, issue := none }
/-- A sync word at the start and at the end of the tile store; a wait whose generation has come, one whose word holds an error with its record, and
one whose generation is the next; the same for a completion object. -/
theorem witness_SyncWordsAndCompletionObjectsReleaseTheirWaiters :
    (let s := withGroup fun g => { g with s := [0, 0xFFF0] ++ List.replicate 126 0 }
     ∃ c, (∀ i ∈ [Instr.syncarm (ro 0 0 3), .syncarm (ro 0 1 3), .syncwait (ro 5 1 3), .await (ro 5 0 3)], (i.wf = true ∧ Issues s c i) ∧ c.guarded i = [0, 1])
      ∧ c.g.loads = [] ∧ c.b.monitored = false ∧ c.b.tile.wf = true ∧ c.b.shadow = [] ∧ (∀ n ∈ [0, 1], (c.g.sr n).toNat % 16 = 0 ∧ (c.g.sr n).toNat + 16 ≤ c.l.lr.tiles)
      ∧ ∀ l ∈ [0, 1], let ea := normEa s.dev ((c.thread l).vPair 0).toNat
          spaceFault s.podSize ea = none ∧ eaSpace ea = 0 ∧ ea % 16 = 0)
    ∧ (let bad := { b0 with tile := [(10, 1), (12, 64)], records := [(64, rec0)] }
       ∀ x ∈ [(b0, (0 : BitVec 16), true, false), (bad, 0, true, true), (b0, 1, false, false)],
        let b := waiter (.sync 127 0 x.2.1 4) x.1
        let s := waiting (.sync 127 0 x.2.1 4) x.1
        let w := b.tileNat 0 16
        s.block? 0 = some b ∧ (s.thread? 0 0 0).any (fun t => t.st == .waiting (.sync 127 0 x.2.1 4) && t.trap.isNone && t.horizon.isNone) = true ∧ s.launch? b.launch = some (placedLaunch 0)
          ∧ b.st = .resident ∧ decide ((BitVec.ofNat 16 (w / 2 ^ 64) - x.2.1).toNat < 2 ^ 15) = x.2.2.1 ∧ w.testBit 80 = x.2.2.2
          ∧ (x.2.2.2 = true → assoc b.records (w / 2 ^ 96 % 2 ^ 32) = some rec0 ∧ 64 ≤ w / 2 ^ 96 % 2 ^ 32) ∧ (placedLaunch 0).lr.handler ≠ 0)
    ∧ ∀ x ∈ [(([] : Mem), (0 : Word), true, false), ([(8, 1), (12, 64)], 0, true, true), ([], 1, false, false)],
        let b := waiter (.await 127 0 x.2.1 4) { b0 with records := [(64, rec0)] }
        let s := { waiting (.await 127 0 x.2.1 4) { b0 with records := [(64, rec0)] } with hbm := x.1 }
        let w := (s.memOf (.hbm 0)).readNat 0 16
        s.block? 0 = some b ∧ (s.thread? 0 0 0).any (fun t => t.st == .waiting (.await 127 0 x.2.1 4) && t.horizon.isNone) = true ∧ s.images = [] ∧ s.errors = []
          ∧ s.throttled 0 bHBM = false ∧ s.throttled 0 bFABRIC = false ∧ s.armRecords = []
          ∧ s.answer (reqOf (placedLaunch 0) b.core) .rd 0 128 = .served (.hbm 0) key0 8000 true true
          ∧ decide ((BitVec.ofNat 32 w - x.2.1).toNat < 2 ^ 31) = x.2.2.1 ∧ w.testBit 64 = x.2.2.2
          ∧ (x.2.2.2 = true → assoc b.records (w / 2 ^ 96 % 2 ^ 32) = some rec0) := by
  refine ⟨⟨selOf _ (by decide +kernel), fun i hi => ⟨issues _ _ _ (by decide +kernel) i hi, (by decide +kernel : ∀ j ∈ _, (selOf (withGroup _) _).guarded j = [0, 1]) i hi⟩,
    by decide +kernel, by decide +kernel, by decide +kernel, by decide +kernel, by decide +kernel, by decide +kernel⟩, ?_, ?_⟩ <;> decide +kernel

def pageState (e : Entry) (ws : List Word) : State :=
  { placed 1 [{ b0 with groups := [{ g0 with threads := [{ th0 with v := ws ++ List.replicate 125 0 }] }] }] with entries := [e] }
def fullRing : LogRing := { base := 0, size := 8192, readIdx := 0, writeIdx := 8192, hints := [] }
/-- PGREQ of the last 64 KiB of a page in each state, and PGHINT in the tile store, with room in the log, and with a full ring. -/
theorem witness_PagesAreRequestedMovedAndChanged_instructions :
    (∀ e ∈ [{ placedEntry with st := .absent }, { placedEntry with st := .host }, placedEntry, { placedEntry with st := .filling }, { placedEntry with st := .host, settled := true }],
      let s := pageState e [0x3FFF0000, 0, 0x10000]
      ∃ c, (Issues s c (.pgreq (ro 0 0 2)) ∧ Issues s c (.pghint (ro 3 0 2))) ∧ c.guarded (.pgreq (ro 0 0 2)) = [0] ∧ c.guarded (.pghint (ro 3 0 2)) = [0]
        ∧ (let ea := normEa s.dev ((c.thread 0).vPair 0).toNat
           let n := min (operandB c.g (c.thread 0) false 2).toNat 0x01000000
           spaceFault s.podSize ea = none ∧ eaOff ea + n ≤ 2 ^ 48 ∧ isRemote s.dev ea = false ∧ eaSpace ea = 0 ∧ (ea + (n - 1)) / 2 ^ 16 = ea / 2 ^ 16
           ∧ s.walk c.l.ctx (ea / 2 ^ 16 * 2 ^ 16) = some e) ∧ s.entry? e.key = some e ∧ (e.pr || e.pw) = true ∧ s.logRing = none)
    ∧ (let s := pageState placedEntry [0, 0x3FFF0000, 1]
       ∃ c, Issues s c (.pghint (ro 0 0 2)) ∧ c.guarded (.pghint (ro 0 0 2)) = [0] ∧ eaSpace (normEa s.dev ((c.thread 0).vPair 0).toNat) = 3)
    ∧ (let s := { pageState placedEntry [0, 0, 1] with logRing := some fullRing }
       ∃ c, Issues s c (.pghint (ro 0 0 2)) ∧ c.guarded (.pghint (ro 0 0 2)) = [0] ∧ s.logRing = some fullRing ∧ fullRing.size ≤ fullRing.used) := by
  refine ⟨?_, ⟨selOf _ (by decide +kernel), ⟨sel_selOf _ _, by decide +kernel⟩, by decide +kernel, by decide +kernel⟩,
    selOf _ (by decide +kernel), ⟨sel_selOf _ _, by decide +kernel⟩, by decide +kernel, rfl, by decide +kernel⟩
  simp only [List.mem_cons, List.not_mem_nil, or_false]
  rintro e (rfl | rfl | rfl | rfl | rfl) <;>
    exact ⟨selOf _ (by decide +kernel), ⟨⟨sel_selOf _ _, by decide +kernel⟩, sel_selOf _ _, by decide +kernel⟩, by decide +kernel, by decide +kernel, by decide +kernel, by decide +kernel, by decide +kernel,
      by decide +kernel⟩

def entryState (e : Entry) : State := { s0 with entries := [e], subject := .entry e.key, issue := none, gtime := 100000 }
/-- A change that is due at this tick, of a page and of no page; a move to the next GiB; the end of SETTLED; the sketch interval. -/
theorem witness_PagesAreRequestedMovedAndChanged_events :
    (∀ st ∈ [PageState.resident, .unmapped], let s := entryState { placedEntry with st := st, changeAt := some 100000 }
      s.entry? key0 = some { placedEntry with st := st, changeAt := some 100000 } ∧ 100000 ≤ s.gtime ∧ s.oldUses { placedEntry with st := st, changeAt := some 100000 } = false ∧ (s.entries.map Entry.key).Nodup)
    ∧ (let e := { placedEntry with st := .moving, move := some (.frame 0 0x40000000) }
       (entryState e).entry? e.key = some e ∧ e.changeAt = none ∧ (entryState e).logRing = none ∧ (entryState e).hbm.wf = true ∧ (entryState e).images = []
         ∧ (entryState e).errors = [] ∧ frameOk e.key 0 0x40000000 = true ∧ ∀ k ∈ (entryState e).cores, ∀ x ∈ k.stores, x.queued = false)
    ∧ (let e := { placedEntry with settled := true, settledUntil := 100000 }
       (entryState e).entry? e.key = some e ∧ e.settledUntil ≤ (entryState e).gtime)
    ∧ (∀ st ∈ [PageState.absent, .resident, .host, .filling, .moving, .failed], (entryState { placedEntry with st := st }).entry? key0 = some { placedEntry with st := st })
    ∧ (let s := { State.reset with gtime := 100000 }
       s.subject = .none ∧ s.nextHot ≤ s.gtime) := by
  refine ⟨?_, ?_, ?_, ?_, ?_⟩ <;> decide +kernel

/-! ## Witnesses: engines (spec 09) -/

/-- A descriptor in s0-s7: source, destination, length, parameter and DONE; s8 is an offset in the tile store. -/
def desc (src dst : Dword) (len param : Word) (done : Dword) (off : Word) : Group → Group := fun g =>
  let lo (x : Dword) : Word := x.setWidth 32
  let hi (x : Dword) : Word := (x >>> 32).setWidth 32
  { g with s := [lo src, hi src, lo dst, hi dst, len, param, lo done, hi done, off] ++ List.replicate 119 0 }
def tileAt (off : Nat) : Dword := BitVec.ofNat 64 (0x3FFF * 2 ^ 48 + off)
def comm0 (scope : BitVec 3) : Comm := { part := 0, number := 0, scope := scope, members := [⟨0, 0, 0, none⟩], timeoutMs := 1, joined := [0] }
/-- Each engine instruction with a descriptor whose last source or destination byte is the last of the tile store, or that has no work at all. -/
theorem witness_EngineInstructionsIssueOneOperation :
    let ready (s : State) (c : Sel) : Prop := c.b.monitored = false ∧ c.l.lr.own = false ∧ (s.core c.b.core).stores = [] ∧ (s.core c.b.core).buffers = [] ∧ s.throttled c.l.part bENGINE = false
      ∧ (s.core c.b.core).freeSlot = some 0 ∧ c.g.loads = []
    let pair (s : State) (c : Sel) (n : Nat) : Nat := normEa s.dev (c.g.sPair n).toNat
    (∀ x ∈ [(Instr.acopy (rm' 127 0 0 0), desc 0 (tileAt 0xFF00) 256 0 (tileAt 0xFEF0) 0), (.acopy (rm' 127 0 0 0), desc 0 (tileAt 0x10000) 0 0 0x200 0),
        (.acopyQuant (rsm 9 0 8 1), desc 0 (tileAt 0xFFF0) 128 0 0x200 0xFFEF), (.agath (rs 9 0 8), desc 0 (tileAt 0xF000) 1 4096 0x200 0xEFFC),
        (.ascat (rs 9 0 8), desc (tileAt 0xFFFC) 0 1 4 0x200 0xFFF8), (.adigest (ro 9 0 0), desc (tileAt 0) (tileAt 0xFFC0) 0xFFC0 0 0x200 0)],
      let s := withGroup x.2
      ∃ c, ready s c ∧ (x.1.wf = true ∧ Issues s c x.1) ∧ c.guarded x.1 = [0, 1] ∧ pair s c 6 % 16 = 0 ∧ (isTile (pair s c 6) || isLocal s.dev (pair s c 6)) = true
        ∧ (isTile (pair s c 6) = true → eaOff (pair s c 6) + 16 ≤ c.l.lr.tiles) ∧ (isTile (pair s c 0) = true → eaOff (pair s c 0) + (c.g.sr 4).toNat ≤ c.l.lr.tiles)
        ∧ (copySpaces (pair s c 0) (pair s c 2) = true ∨ x.1 = .adigest (ro 9 0 0)) ∧ pair s c 2 % 16 = 0)
    ∧ (let s := { withGroup (desc 0 0x100 64 0x20000 0x200 0) with comms := [comm0 5] }
       ∃ c k r, ready s c ∧ Issues s c (.acoll (rm' 127 0 0 0x15)) ∧ c.guarded (.acoll (rm' 127 0 0 0x15)) = [0, 1] ∧ s.comm? c.l.part 0 = some k
        ∧ k.rank? s.dev c.l.id c.b.blkidx = some r ∧ k.scope.toNat = 5 ∧ collType 2 = true ∧ c.l.lr.det = false ∧ isLocal s.dev (pair s c 0) = true
        ∧ isLocal s.dev (pair s c 2) = true ∧ isLocal s.dev (pair s c 6) = true ∧ (c.g.sr 4).toNat % 16 = 0 ∧ (c.g.sr 4).toNat % (16 * k.members.length) = 0) := by
  refine ⟨?_, selOf _ (by decide +kernel), comm0 5, 0, by decide +kernel, ⟨sel_selOf _ _, by decide +kernel⟩, by decide +kernel, rfl, by decide +kernel⟩
  simp only [List.mem_cons, List.not_mem_nil, or_false]
  rintro x (rfl | rfl | rfl | rfl | rfl | rfl) <;> exact ⟨selOf _ (by decide +kernel), by decide +kernel, ⟨by decide +kernel, sel_selOf _ _, by decide +kernel⟩, by decide +kernel⟩

def op0 : EngOp :=
  { handle := 64, blk := 0, grp := 0, lane := 0, launch := 0, ctx := 0, pc := 0x10000, region := 0x10000, kind := .copy, src := tileAt 0, dst := tileAt 0xFFF0, len := 16,
    done := tileAt 0xFFE0, remaining := [0], total := 16, counted := 0, snapshot := none, buf := [], lost := [],
    idx := [], trav := none, party := 0, known := [], err := false, canc := false, fail := none, pairs := [], finished := false, silent := false }
def withOps (s : State) (ops : List EngOp) : State := { s with cores := [{ Core.new 0 with ops := ops }] }
def dataOf (kind : Nat) : Contribution :=
  { part := 0, comm := 0, round := 0, rank := 0, kind := kind, op := 0, type := 0, root := 0, data := (List.replicate 16 (9 : Byte)).map some,
    eng := { op0 with kind := .coll kind 0 0 0 0, src := 0, dst := 0x70, done := 0x200, finished := false }, core := 0, since := 0 }
/-- The last unit of a copy to the end of the tile store and of a digest; a finished operation; a round of one member at scope .host and one that
times out at .net; ACANCEL of an operation and of none. -/
theorem witness_EngineOperationsDoTheirUnitsAndComplete :
    (∀ e ∈ [op0, { op0 with kind := .digest, dst := tileAt 0xFFA0, total := 64 }],
      let s := { withOps s0 [e] with subject := .op 0 64, issue := none }
      (s.core 0).ops = [e] ∧ s.block? e.blk = some b0 ∧ s.launch? e.launch = some (placedLaunch 0) ∧ (placedLaunch 0).lr.det = false ∧ b0.monitored = false ∧ b0.shadow = []
        ∧ b0.tile.wf = true ∧ e.remaining = [0] ∧ isTile e.src.toNat = true ∧ isTile e.dst.toNat = true ∧ isTile e.done.toNat = true ∧ eaOff e.done.toNat % 16 = 0
        ∧ (eaOff e.done.toNat + 16 ≤ eaOff e.dst.toNat ∨ eaOff e.dst.toNat + 64 ≤ eaOff e.done.toNat))
    ∧ (let e := { op0 with remaining := [], finished := true, done := 0x70 }
       let s := { withOps s0 [e] with subject := .op 0 64, issue := none }
       (s.core 0).ops = [e] ∧ isTile e.done.toNat = false ∧ eaSpace e.done.toNat = 0 ∧ e.done.toNat % 16 = 0 ∧ (s.core 0).lines = [] ∧ (s.core 0).sent = [] ∧ s.images = [] ∧ s.errors = [] ∧ e.err = false ∧ e.canc = false ∧ e.fail = none
        ∧ s.answer (e.req (placedLaunch 0) 0) .wr 0 128 = .served (.hbm 0) key0 8000 true true)
    ∧ (let e := { op0 with src := 0x70, dst := tileAt 0 }
       let s := { withOps s0 [e] with subject := .op 0 64, issue := none }
       let ea := e.src.toNat + 16 * 0
       (s.core 0).ops = [e] ∧ e.remaining = [0] ∧ e.kind = .copy ∧ s.block? e.blk = some b0 ∧ s.launch? e.launch = some (placedLaunch 0) ∧ b0.monitored = false
        ∧ (s.core 0).lines = [] ∧ (s.core 0).sent = [] ∧ s.images = [] ∧ s.errors = [] ∧ s.throttled 0 bHBM = false ∧ s.throttled 0 bFABRIC = false
        ∧ isLocal s.dev ea = true ∧ ea % 16 = 0 ∧ spaceFault s.podSize ea = none
        ∧ s.answer (e.req (placedLaunch 0) 0) .rd (128 * (ea / 128)) 128 = .served (.hbm 0) key0 8000 true true)
    ∧ (∀ now ∈ [999999, 1000000], let s := { withOps s0 [op0] with comms := [comm0 7], contributions := [dataOf 1], subject := .round 0 0 0 [], issue := none, gtime := now }
       (now = 999999 → s.gtime < (dataOf 1).since + 1000000 * (comm0 7).timeoutMs) ∧ (now = 1000000 → (dataOf 1).since + 1000000 * (comm0 7).timeoutMs ≤ s.gtime)
        ∧ s.contributions = [dataOf 1] ∧ (dataOf 1).rank = 0 ∧ s.comm? 0 0 = some (comm0 7) ∧ (comm0 7).scope = 7 ∧ (comm0 7).members.length = 1)
    ∧ (let s := { withOps s0 [op0] with comms := [comm0 5], contributions := [dataOf 1], subject := .round 0 0 0 [], issue := none }
       let x := dataOf 1
       s.comm? x.part x.comm = some (comm0 5) ∧ s.block? x.eng.blk = some b0 ∧ s.launch? x.eng.launch = some (placedLaunch 0) ∧ (∀ m ∈ (comm0 5).members, m.dev = s.dev) ∧ s.errors = [] ∧ x.eng.err = false ∧ (s.core b0.core).lines = [] ∧ (s.core b0.core).sent = []
        ∧ x.data = (List.replicate 16 (9 : Byte)).map some ∧ s.images = [] ∧ s.throttled 0 bHBM = false ∧ s.throttled 0 bFABRIC = false ∧ 0 < x.data.length ∧ x.eng.dst.toNat % 128 + x.data.length ≤ 128
        ∧ isLocal s.dev x.eng.dst.toNat = true ∧ spaceFault s.podSize x.eng.dst.toNat = none
        ∧ s.answer (x.eng.req (placedLaunch 0) b0.core) .wr 0 128 = .served (.hbm 0) key0 8000 true true)
    ∧ (∀ h ∈ [64, 65], let s := withOps (regs [0, 0, 0, h]) [op0]
       ∃ c, Issues s c (.acancel (ro 7 0 3)) ∧ c.g.loads = [] ∧ c.guarded (.acancel (ro 7 0 3)) = [0, 1] ∧ (operandB c.g (c.thread 0) false 3) = h
        ∧ (s.core c.b.core).ops = [op0] ∧ op0.remaining = List.range op0.unitCount ∧ op0.trav = none ∧ c.b.monitored = false ∧ op0.blk = c.blk ∧ c.b.onCore = true ∧ s.launch? op0.launch = some c.l) := by
  refine ⟨by decide +kernel, by decide +kernel, by decide +kernel, by decide +kernel, by decide +kernel, ?_⟩
  simp only [List.mem_cons, List.not_mem_nil, or_false]
  rintro x (rfl | rfl) <;> exact ⟨selOf _ (by decide +kernel), ⟨sel_selOf _ _, by decide +kernel⟩, by decide +kernel⟩

/-! ## Witnesses: the ladder, the traverse unit, barriers and tickets (spec 11, 12, 13) -/

def policy0 : Policy := { pid := 0, floor := 0, ceil := 3, pred := false, relax := false, skip := false, skipm := 0, rungs := List.replicate 4 (1, 1) }
def ladderLaunch : Launch := { placedLaunch 0 with lr := { placedRecord 0 with ladder := true }, policy := some policy0 }
/-- A launch of the ladder with this block. -/
def ladderState (b : Block) : State := { placed 3 [b] with launches := [ladderLaunch] }
def g3 (n : Word) : Group := { g0 with threads := List.replicate 2 { th0 with v := [0, 0, 0, n] ++ List.replicate 124 0 } ++ List.replicate 62 Thread.blank }
def mon (f : Block → Block) : Block := f { b0 with monitored := true }
def ladderInstrs : List Instr := [.monset (ro 0 0 3), .monset (ro 1 0 3), .trxchk (ro 7 0 0), .trxchk (ro 127 0 3), .trxesc ⟨mc 1⟩]
def rcounting (n : Word) : State := ladderState (mon fun b => { b with rcount := 1, groups := [g3 n] })
theorem ladderWit (n : Word) (h : (rcounting n).sel.isSome = true) (p : let c := selOf _ h
      ladderInstrs.all (fun i => i.wf && c.rangeOk i) = true ∧ (∀ i ∈ ladderInstrs, c.guarded i = [0, 1]) ∧ c.l.lr.ladder = true ∧ c.b.monitored = true ∧ c.b.st = .resident ∧ c.b.doomed = none
      ∧ c.b.thr = 0 ∧ c.g.flights = [] ∧ operandB c.g (c.thread 0) false 3 = n) :
    ∃ c, (∀ i ∈ ladderInstrs, (i.wf = true ∧ Issues (rcounting n) c i) ∧ c.guarded i = [0, 1]) ∧ c.l.lr.ladder = true ∧ c.b.monitored = true ∧ c.b.st = .resident
      ∧ c.b.doomed = none ∧ c.b.thr = 0 ∧ c.g.flights = [] ∧ operandB c.g (c.thread 0) false 3 = n :=
  ⟨_, fun i hi => ⟨issues _ h _ p.1 i hi, p.2.1 i hi⟩, p.2.2⟩
/-- Outside LADDER; in an attempt whose threshold is passed, and with a threshold of 63 and of 64; each cause of doom, and a stall. -/
theorem witness_LadderInstructionsMonitorAndAbortAnAttempt :
    ((∀ i ∈ [Instr.monset (ro 0 0 3), .trxchk (ro 7 0 0), .trxesc z], i.wf = true ∧ Issues s0 c0 i) ∧ c0.l.lr.ladder = false
      ∧ (∀ i ∈ [Instr.monset (ro 0 0 3), .trxchk (ro 7 0 0), .trxesc z], c0.guarded i = [0, 1]) ∧ TrapReady s0 c0 [0, 1])
    ∧ (∃ c, Issues (ladderState b0) c (.monset (ro 0 0 3)) ∧ c.l.lr.ladder = true ∧ c.guarded (.monset (ro 0 0 3)) = [0, 1] ∧ c.b.monitored = false)
    ∧ (∀ n ∈ [(1 : Word), 0, 63, 64],
        ∃ c, (∀ i ∈ ladderInstrs, (i.wf = true ∧ Issues (rcounting n) c i) ∧ c.guarded i = [0, 1]) ∧ c.l.lr.ladder = true ∧ c.b.monitored = true ∧ c.b.st = .resident
          ∧ c.b.doomed = none ∧ c.b.thr = 0 ∧ c.g.flights = [] ∧ operandB c.g (c.thread 0) false 3 = n)
    ∧ (∀ cause ∈ [TripCause.range, .ceiling], let b := mon fun b => { b with doomed := some cause }
        let s := { ladderState b with subject := .block 0 }
        s.block? b.id = some b ∧ s.launch? b.launch = some ladderLaunch ∧ b.st = .resident ∧ s.logRing = none)
    ∧ (let b := mon fun b => { b with shadow := [(0, [])], groups := [{ g0 with threads := [{ th0 with st := .waiting .shadow }] }] }
       let s := { ladderState b with subject := .core 0 }
       s.block? b.id = some b ∧ s.launch? b.launch = some ladderLaunch ∧ b.st = .resident ∧ s.blocksOn 0 = [b] ∧ b.core = 0 ∧ 0 < b.shadowLines ∧ b.monitored = true
        ∧ b.doomed = none ∧ (∃ g ∈ b.groups, ∃ th ∈ g.threads, th.st = .waiting .shadow)
        ∧ (let x := { b with id := 1, dispatched := 0 }
           let b := { b with dispatched := 1 }
           (placed 3 [b, x]).blocksOn 0 = [b, x] ∧ x.dispatched < b.dispatched ∧ x.shadowLines + b.shadowLines ≤ 4096)) := by
  refine ⟨⟨issues0 _ (by decide +kernel), by decide +kernel, by decide +kernel, ready0 _ (by decide +kernel)⟩,
    ⟨selOf _ (by decide +kernel), ⟨sel_selOf _ _, by decide +kernel⟩, by decide +kernel⟩, ?_, by decide +kernel, by decide +kernel⟩
  simp only [List.mem_cons, List.not_mem_nil, or_false]
  rintro n (rfl | rfl | rfl | rfl) <;> exact ladderWit _ (by decide +kernel) (by decide +kernel)

/-- A deferred line whose page is there, and one whose page may not be written; an attempt with a shadowed line, whose lookup the Gazetteer learns from
at each confidence; one with an ended group's launch that has no prediction. -/
theorem witness_TheCommitWritesDeferredBytesAtTheirHome :
    let b := mon fun b => { b with st := .committing, deferred := [(0, [(0, 1), (127, 2)])] }
    let s := { ladderState b with subject := .block 0 }
    (∀ k ∈ [(⟨false, 0, 0, 1, false⟩ : Lookup), ⟨true, 1, 2, 1, false⟩, ⟨true, 1, 3, 0, true⟩, ⟨true, 1, 0, 1, false⟩],
      let x := { b with shadow := [(511, List.replicate 128 5)], lookup := some k }
      let s := { ladderState x with subject := .block 0, launches := [{ ladderLaunch with policy := some { policy0 with pred := true } }] }
      s.block? x.id = some x ∧ x.st = .committing ∧ x.tile.wf = true ∧ x.unfit = false ∧ s.errors = []
        ∧ s.answer (reqOf ladderLaunch b.core) .wr 0 128 = .served (.hbm 0) key0 8000 true true)
    ∧ s.block? b.id = some b ∧ s.launch? b.launch = some ladderLaunch ∧ policy0.pred = false ∧ b.shadow = [] ∧ s.errors = [] ∧ b.tile.wf = true ∧ b.images = [] ∧ s.images = [] ∧ (s.core b.core).lines = [] ∧ (s.core b.core).sent = [] ∧ s.logRing = none
      ∧ (s.launch? ladderLaunch.root).isSome = true ∧ s.answer (reqOf ladderLaunch b.core) .wr 0 128 = .served (.hbm 0) key0 8000 true true
      ∧ State.answer { s with entries := [{ placedEntry with pw := false }] } (reqOf ladderLaunch b.core) .wr 0 128 = .denied 2 := by decide +kernel

/-- A traverse block of one head, step, channel and state element: X, A, B, C and Y at 0x100 to 0x140 of the tile store, no H0, HF or D. -/
def travBits : Nat :=
  (tileAt 0x100).toNat + (tileAt 0x110).toNat * 2 ^ 64 + (tileAt 0x120).toNat * 2 ^ 128 + (tileAt 0x130).toNat * 2 ^ 192 + (tileAt 0x140).toNat * 2 ^ 448
    + 2 ^ 512 + 2 ^ 544 + 2 ^ 552 + 2 ^ 560 + 9 * 2 ^ 576 + 9 * 2 ^ 580 + 9 * 2 ^ 584 + 2 ^ 590 + 2 ^ 591 + 2 ^ 592
def travOp (q : EngKind) : EngOp := { op0 with kind := q, src := tileAt 0, done := tileAt 0xFFF0, total := 128, remaining := [0] }
def travBlock (bits : Nat) : Block := { b0 with tile := (b0.tile.writeBytes 0 (bytesLE 128 bits)) }
def travState (bits : Nat) (run : Option TravRun := none) : State :=
  { withOps (placed 3 [travBlock bits]) [{ travOp .trav with trav := run }] with subject := .op 0 64 }
/-- The operation's run with its pages placed or not, these heads and these writes. -/
def travRun (placed : Bool) (heads : List TravHead) (writes : List (Nat × List Byte)) : TravRun :=
  { block := travBits, placed := placed, heads := heads, writes := writes, lost := [] }
/-- The one head behind its one step. -/
def travHead1 : TravHead := { head := 0, past := 1, state := [[0]], d := [] }
theorem travSel : (withGroup (desc (tileAt 0xFF80) (BitVec.ofNat 64 0xFFF0) 0 0 0 0)).sel.isSome = true := by decide +kernel
/-- TRAV and TRAVST with the sync word at the end of the tile store; a zero block, which is rejected, and one that is not, whose sums are written. -/
theorem witness_TraverseOperationsIssueAndComplete :
    (let s := withGroup (desc (tileAt 0xFF80) (BitVec.ofNat 64 0xFFF0) 0 0 0 0)
     ∃ c, (∀ i ∈ [Instr.trav (ro 127 0 0), .travst (rm' 127 0 0 1)], (i.wf = true ∧ Issues s c i) ∧ c.guarded i = [0, 1]) ∧ c.g.loads = [] ∧ (s.core c.b.core).stores = [] ∧ (s.core c.b.core).buffers = []
      ∧ s.throttled c.l.part bENGINE = false ∧ (s.core c.b.core).freeSlot = some 0
      ∧ (let src := normEa s.dev (c.g.sPair 0).toNat
         isTile src = true ∧ eaOff src + 128 ≤ c.l.lr.tiles ∧ src % 128 = 0) ∧ (c.g.sr 2).toNat % 16 = 0 ∧ (c.g.sr 2).toNat + 16 ≤ c.l.lr.tiles)
    ∧ (∀ bits ∈ [0, travBits], let b := travBlock bits
        let s := travState bits
        (s.core b.core).ops = [travOp .trav] ∧ s.block? b.id = some b ∧ s.launch? 0 = some (placedLaunch 0) ∧ b.tile.wf = true ∧ b.onCore = true ∧ b.shadow = []
          ∧ s.logRing = none ∧ ofBytes (b.tileBytes 0 128) = bits ∧ (parseTrav s.dev bits).rejected .trav s.dev 0x10000 bits = (bits == 0)
          ∧ (placedLaunch 0).lr.own = false ∧ (travOp .trav).silent = false ∧ (travOp .trav).canc = false ∧ (travOp .trav).pairs = [])
    ∧ let b := travBlock travBits
      let x := parseTrav 0 travBits
      let ready (run : TravRun) : Prop := let s := travState travBits (some run)
        (s.core b.core).ops = [{ travOp .trav with trav := some run }] ∧ s.block? b.id = some b ∧ s.launch? 0 = some (placedLaunch 0) ∧ s.dev = 0
      (ready (travRun false [] []) ∧ ∀ r ∈ x.reads .trav ++ x.outputs .trav, isTile r.ea = true)
      ∧ (∀ heads ∈ [[], [{ travHead1 with past := 0 }]], let run := travRun true heads []
          ready run ∧ (∃ h < x.nh, run.unfinished x .trav h = true) ∧ ∀ h < x.nh, ∀ r ∈ x.needs .trav h (run.head? h), r.2 = 0 ∨ isTile r.1 = true)
      ∧ (let run := travRun true [travHead1] [((tileAt 0x140).toNat, [1, 2, 3, 4])]
         ready run ∧ (∀ h < x.nh, run.unfinished x .trav h = false) ∧ run.writes ≠ [] ∧ ∀ w ∈ run.writes, isTile w.1 = true)
      ∧ (let run := travRun true [travHead1] []
         ready run ∧ ∀ h < x.nh, run.unfinished x .trav h = false) := by
  refine ⟨⟨selOf _ travSel, fun i hi => ⟨issues _ travSel _ (by decide +kernel) i hi, (by decide +kernel : ∀ j ∈ _, (selOf _ travSel).guarded j = [0, 1]) i hi⟩, by decide +kernel⟩,
    by decide +kernel, ?_⟩
  refine ⟨?_, ?_, ?_, ?_⟩ <;> decide +kernel

def bar1 : Barrier := Barrier.new 1 15 1
theorem witness_BarriersCountGroupsAndReleaseTheirWaiters_instructions :
    WholeSet s0 c0 ∧ BarOk s0 c0 1 ∧ s0.bar? c0.blk 1 15 = some bar1 ∧ ∀ i ∈ [Instr.barinit (ro 0 31 3), .bararr (ro 127 31 0), .bar (ro 0 31 0), .barwait (ro 0 31 3)],
      (i.wf = true ∧ Issues s0 c0 i) ∧ c0.guarded i = [0, 1] :=
  ⟨whole0, fun h => absurd h (by decide), by decide +kernel, fun i hi => ⟨issues0 _ (by decide +kernel) i hi, (by decide +kernel : ∀ j ∈ _, c0.guarded j = [0, 1]) i hi⟩⟩
def barsOf (sc : Nat) : List Instr :=
  let a := BitVec.ofNat 7 (16 * sc + 15)
  [.barinit (ro 0 a 3), .bararr (ro 127 a 0), .bar (ro 0 a 0), .barwait (ro 0 a 3)]
def coop (bars : List Barrier) : Launch := { placedLaunch 0 with lr := { placedRecord 0 with coop := true }, bars := bars }
/-- At .pkg in a cooperative launch, and at .pod with the object bound and not bound yet; a block that the communicator does not name. -/
theorem witness_BarriersCountGroupsAndReleaseTheirWaiters_wide :
    (let s := { s0 with launches := [coop (newBarriers 4 2)] }
     ∃ c, WholeSet s c ∧ (∀ i ∈ barsOf 4, (i.wf = true ∧ Issues s c i) ∧ c.guarded i = [0, 1]) ∧ BarOk s c 4 ∧ s.bar? c.blk 4 15 = some (Barrier.new 4 15 2))
    ∧ (let bar := { Barrier.new 5 15 1 with comm := some 0 }
       let s := { s0 with launches := [coop [bar]], podBars := [⟨0, 0, bar⟩] }
       ∃ c, WholeSet s c ∧ (∀ i ∈ (barsOf 5).tail, (i.wf = true ∧ Issues s c i) ∧ c.guarded i = [0, 1]) ∧ BarOk s c 5
        ∧ ((findBar c.l.bars 5 15).bind Barrier.comm).isSome = true ∧ s.bar? c.blk 5 15 = some bar)
    ∧ (let s := { s0 with launches := [coop (newBarriers 5 1)], comms := [comm0 5] }
       ∃ c, Issues s c (.barinit (ro 0 95 3)) ∧ c.guarded (.barinit (ro 0 95 3)) = [0, 1] ∧ BarOk s c 5 ∧ s.comm? c.l.part 0 = some (comm0 5) ∧ (comm0 5).scope = 5
        ∧ (comm0 5).rank? s.dev c.l.id c.b.blkidx = some 0 ∧ s.podBars = [] ∧ 0 < ((comm0 5).members.map s.memberGroups).sum)
    ∧ (let k := { comm0 5 with members := [⟨0, 0, 1, none⟩] }
       let s := { s0 with launches := [coop (newBarriers 5 1)], comms := [k] }
       ∃ c, Issues s c (.barinit (ro 0 95 3)) ∧ c.guarded (.barinit (ro 0 95 3)) = [0, 1] ∧ TrapReady s c [0, 1] ∧ BarOk s c 5 ∧ s.comm? c.l.part 0 = some k
        ∧ k.rank? s.dev c.l.id c.b.blkidx = none) :=
  ⟨⟨selOf _ (by decide +kernel), whole _ _ (by decide +kernel), fun i hi => ⟨issues _ _ _ (by decide +kernel) i hi, (by decide +kernel : ∀ j ∈ barsOf 4, Sel.guarded (selOf _ _) j = [0, 1]) i hi⟩,
      fun _ => ⟨by decide +kernel, by decide +kernel, by decide +kernel, fun p h => by cases h; decide +kernel⟩, by decide +kernel⟩,
    ⟨selOf _ (by decide +kernel), whole _ _ (by decide +kernel), fun i hi => ⟨issues _ _ _ (by decide +kernel) i hi, (by decide +kernel : ∀ j ∈ (barsOf 5).tail, Sel.guarded (selOf _ _) j = [0, 1]) i hi⟩,
      fun _ => ⟨by decide +kernel, by decide +kernel, by decide +kernel, fun p h => by cases h; decide +kernel⟩, by decide +kernel, by decide +kernel⟩,
    ⟨selOf _ (by decide +kernel), ⟨sel_selOf _ _, by decide +kernel⟩, by decide +kernel,
      fun _ => ⟨by decide +kernel, by decide +kernel, by decide +kernel, fun p h => by cases h; decide +kernel⟩, by decide +kernel⟩,
    selOf _ (by decide +kernel), ⟨sel_selOf _ _, by decide +kernel⟩, by decide +kernel, trapReady _ _ _ (by decide +kernel) (by decide +kernel),
      fun _ => ⟨by decide +kernel, by decide +kernel, by decide +kernel, fun p h => by cases h; decide +kernel⟩, by decide +kernel⟩
/-- Each cause of XBLOCK: a monitored attempt, DET, a launch that is not cooperative, a partition of several quads, an object that is not bound. -/
theorem witness_BarriersCountGroupsAndReleaseTheirWaiters_causes :
    ∀ x ∈ [(placed 3 [mon id], 4, 1), ({ s0 with launches := [detLaunch] }, 4, 2), (s0, 2, 3),
        ({ s0 with launches := [coop (newBarriers 2 1)], partitions := [Partition.new 0 (BitVec.allOnes 48)] }, 2, 4), ({ s0 with launches := [coop (newBarriers 5 1)] }, 5, 5)],
      ∃ c, WholeSet x.1 c ∧ (∀ i ∈ barsOf x.2.1, Issues x.1 c i ∧ c.guarded i = [0, 1]) ∧ TrapReady x.1 c c.lanes ∧ BarCause x.1 c x.2.1 15 x.2.2 := by
  simp only [List.mem_cons, List.not_mem_nil, or_false]
  rintro x (rfl | rfl | rfl | rfl | rfl) <;>
    refine ⟨selOf _ (by decide +kernel), whole _ _ (by decide +kernel), fun i hi => ⟨⟨sel_selOf _ _, List.all_eq_true.mp (by decide +kernel) i hi⟩, (by decide +kernel : ∀ j ∈ barsOf _, Sel.guarded (selOf _ _) j = [0, 1]) i hi⟩,
      trapReady _ _ _ (by decide +kernel) (by decide +kernel), by decide, ?_⟩
  · show (selOf _ _).b.monitored = true
    decide +kernel
  · show (selOf _ _).b.monitored = false ∧ (selOf _ _).l.lr.det = true
    decide +kernel
  · show (selOf _ _).b.monitored = false ∧ (selOf _ _).l.lr.det = false ∧ (selOf _ _).l.lr.coop = false
    decide +kernel
  · exact ⟨by decide +kernel, by decide +kernel, by decide +kernel, Partition.new 0 (BitVec.allOnes 48), 0, 1, by decide +kernel⟩
  · exact ⟨fun _ => ⟨by decide +kernel, by decide +kernel, by decide +kernel, fun p h => by cases h; decide +kernel⟩, rfl, by decide +kernel⟩
/-- BARINIT that opens the next phase and one that does not. -/
theorem witness_BarriersCountGroupsAndReleaseTheirWaiters_counts :
    ∀ a ∈ [0, 1], let s := placed 3 [{ b0 with bars := [{ bar1 with arrived := a }] }]
      ∃ c, Issues s c (.barinit (ro 0 31 3)) ∧ c.guarded (.barinit (ro 0 31 3)) = [0, 1] ∧ s.bar? c.blk 1 15 = some { bar1 with arrived := a }
        ∧ c.l.lr.groups = 1 ∧ (operandB c.g (c.thread 0) false 3).toNat = 0 := by
  simp only [List.mem_cons, List.not_mem_nil, or_false]
  rintro a (rfl | rfl) <;> exact ⟨selOf _ (by decide +kernel), ⟨sel_selOf _ _, by decide +kernel⟩, by decide +kernel⟩
/-- The arrival of the last group, of one of two, and of one whose previous phase is open. -/
theorem witness_BarriersCountGroupsAndReleaseTheirWaiters_arrivals :
    ∀ x ∈ [(1, (0 : BitVec 16)), (2, 0), (1, 1)],
        let bar := { bar1 with expect := x.1, phase := x.2 }
        let g := { g0 with arrival := some ⟨1, 15, some 127, 4, ⟨BitVec.ofNat 64 placedAt, .bararr (ro 127 31 0), 1, 1, 1⟩⟩, threads := [{ th0 with st := .waiting .arrive }] }
        let s := { placed 3 [{ b0 with groups := [g], bars := [bar] }] with subject := .group 0 0 }
        s.group? 0 0 = some g ∧ s.launch? 0 = some (placedLaunch 0) ∧ (s.core 0).stores = [] ∧ (s.core 0).buffers = [] ∧ g.halted = false ∧ bar.comm = none ∧ s.bar? 0 1 15 = some bar
          ∧ (g.aphOf 1 15 = bar.phase ↔ x.2 = 0) := by decide +kernel
/-- A wait for the phase that is open and for the next. -/
theorem witness_BarriersCountGroupsAndReleaseTheirWaiters_waits :
    ∀ k ∈ [0, 1], (waiting (.barrier 1 15 (BitVec.ofNat 16 k) false 4)).block? 0 = some (waiter (.barrier 1 15 (BitVec.ofNat 16 k) false 4) b0)
      ∧ ((waiting (.barrier 1 15 (BitVec.ofNat 16 k) false 4)).thread? 0 0 0).any (fun t => t.st == .waiting (.barrier 1 15 (BitVec.ofNat 16 k) false 4)) = true
      ∧ (waiting (.barrier 1 15 (BitVec.ofNat 16 k) false 4)).launch? 0 = some (placedLaunch 0) ∧ findBar b0.bars 1 15 = some bar1 ∧ ((bar1.phase - BitVec.ofNat 16 k).toNat < 2 ^ 15 ↔ k = 0) := by
  decide +kernel

def mwaiting (home : Byte) (old : Dword) : State := waiting (.mwait 126 0 true old 2 4 (List.replicate 128 home))
def withLaunch (f : Launch → Launch) (s : State) : State := { s with launches := [f (placedLaunch 0)] }
/-- Tickets, weight, owner ranges with OWN and without. -/
theorem witness_TicketsWeightMonitorsAndOwnerRanges_instructions :
    (EmptyCore s0 c0.b.core ∧ (∀ i ∈ [Instr.tkpass (ro 0 0 0), .tkwait (ro 7 0 3), .wret (ro 0 0 3), .ownset (ro 3 124 0)], (i.wf = true ∧ Issues s0 c0 i) ∧ c0.guarded i = [0, 1])
      ∧ c0.g.loads = [] ∧ c0.b.monitored = false ∧ (s0.launch? c0.l.root).isSome = true ∧ c0.l.lr.own = false ∧ TrapReady s0 c0 [0, 1])
    ∧ (let s := withLaunch (fun l => { l with lr := { l.lr with own := true } }) s0
       ∃ c, Issues s c (.ownset (ro 0 0 0)) ∧ c.guarded (.ownset (ro 0 0 0)) = [0, 1] ∧ c.l.lr.own = true) :=
  ⟨⟨empty0, fun i hi => ⟨issues0 _ (by decide +kernel) i hi, (by decide +kernel : ∀ j ∈ _, c0.guarded j = [0, 1]) i hi⟩, by decide +kernel, by decide +kernel, by decide +kernel,
    by decide +kernel, ready0 _ (by decide +kernel)⟩, selOf _ (by decide +kernel), ⟨sel_selOf _ _, by decide +kernel⟩, by decide +kernel⟩
def mwaits : List Instr := [.mwait (rm' 127 0 4 2), .mwait (rm' 126 0 4 0xA)]
def mwaiter (n : Word) : State := { regs [0, 0, 0, 0, n] with issue := some ⟨0, 0, 1, BitVec.ofNat 64 placedAt⟩ }
theorem mwaitWit (n : Word) (h : (mwaiter n).sel.isSome = true) (pl : Plain (mwaiter n) (selOf _ h)) (em : EmptyCore (mwaiter n) (selOf _ h).b.core) (p : let c := selOf _ h
      mwaits.all (fun i => i.wf && c.rangeOk i) = true ∧ (∀ i ∈ mwaits, c.guarded i = [0]) ∧ c.g.loads = [] ∧ c.b.onCore = true ∧ ((c.thread 0).vPair 0).toNat = 0
      ∧ (mwaiter n).errors = [] ∧ (mwaiter n).answer c.req .rd 0 128 = .served (.hbm 0) key0 8000 true true ∧ operandB c.g (c.thread 0) false 4 = n ∧ (mwaiter n).hbm = []) :
    ∃ c, Plain (mwaiter n) c ∧ EmptyCore (mwaiter n) c.b.core ∧ (∀ i ∈ mwaits, (i.wf = true ∧ Issues (mwaiter n) c i) ∧ c.guarded i = [0]) ∧ c.g.loads = [] ∧ c.b.onCore = true
      ∧ ((c.thread 0).vPair 0).toNat = 0 ∧ (mwaiter n).errors = [] ∧ (mwaiter n).answer c.req .rd 0 128 = .served (.hbm 0) key0 8000 true true ∧ operandB c.g (c.thread 0) false 4 = n ∧ (mwaiter n).hbm = [] :=
  ⟨_, pl, em, fun i hi => ⟨issues _ h _ p.1 i hi, p.2.1 i hi⟩, p.2.2⟩
/-- MWAIT on a word of 32 and of 64 bits that is and that is not the one named. -/
theorem witness_TicketsWeightMonitorsAndOwnerRanges_mwait :
    (∀ n ∈ [(0 : Word), 1], ∃ c, Plain (mwaiter n) c ∧ EmptyCore (mwaiter n) c.b.core ∧ (∀ i ∈ mwaits, (i.wf = true ∧ Issues (mwaiter n) c i) ∧ c.guarded i = [0]) ∧ c.g.loads = []
      ∧ c.b.onCore = true ∧ ((c.thread 0).vPair 0).toNat = 0 ∧ (mwaiter n).errors = [] ∧ (mwaiter n).answer c.req .rd 0 128 = .served (.hbm 0) key0 8000 true true
      ∧ operandB c.g (c.thread 0) false 4 = n ∧ (mwaiter n).hbm = []) ∧ spaceFault 1 (normEa 0 0) = none ∧ isLocal 0 (normEa 0 0) = true := by
  refine ⟨?_, by decide, by decide⟩
  simp only [List.mem_cons, List.not_mem_nil, or_false]
  rintro n (rfl | rfl) <;> exact mwaitWit _ (by decide +kernel) (by constructor <;> decide +kernel) (by constructor <;> decide +kernel) (by decide +kernel)
/-- Lane 0 asleep at a word, with the line and the value that it has seen. -/
theorem mwaiting_sleeps (home : Byte) (old : Dword) : let w : WaitOn := .mwait 126 0 true old 2 4 (List.replicate 128 home)
    (mwaiting home old).block? 0 = some (waiter w b0) ∧ (mwaiting home old).thread? 0 0 0 = some { th0 with st := .waiting w } := ⟨rfl, rfl⟩
/-- A ticket that is reached and one that is not; a monitored word that has changed and one that has not. -/
theorem witness_TicketsWeightMonitorsAndOwnerRanges_waits :
    (∀ k ∈ [0, 1], (waiting (.ticket 7 (BitVec.ofNat 32 k) 4)).block? 0 = some (waiter (.ticket 7 (BitVec.ofNat 32 k) 4) b0) ∧ (waiting (.ticket 7 (BitVec.ofNat 32 k) 4)).launch? 0 = some (placedLaunch 0)
      ∧ ((waiting (.ticket 7 (BitVec.ofNat 32 k) 4)).thread? 0 0 0).any (fun t => t.st == .waiting (.ticket 7 (BitVec.ofNat 32 k) 4)) = true ∧ ((BitVec.ofNat 32 (placedLaunch 0).counter - BitVec.ofNat 32 k).toNat < 2 ^ 31 ↔ k = 0))
    ∧ (let s := mwaiting 0 0
       s.images = [] ∧ s.errors = [] ∧ s.hbm = []
      ∧ ((s.core 0).lines = [] ∧ (s.core 0).stores = [] ∧ (s.core 0).sent = [] ∧ (s.core 0).buffers = [] ∧ ∀ b ∈ s.blocksOn 0, ∀ g ∈ b.groups, g.loads = [])
      ∧ s.throttled 0 bHBM = false ∧ s.throttled 0 bFABRIC = false ∧ s.answer (reqOf (placedLaunch 0) 0) .rd 0 128 = .served (.hbm 0) key0 8000 true true)
    ∧ ∀ home ∈ [(0 : Byte), 1], ∀ old ∈ [0, 1], ((List.range 128).map (fun i => Mem.read [] i) = List.replicate 128 home ↔ home = 0) ∧ (Mem.readNat [] 0 8 = old ↔ old = 0) := by
  refine ⟨?_, ?_, ?_⟩
  · decide +kernel
  · decide +kernel
  · decide +kernel

/-! ## Witnesses: reductions, update units, launches from a kernel (spec 13, 14) -/

/-- An update record: gradients at 0x2000, parameters at 0x1000, DONE at 0x3000, one line, one contribution. -/
def updateBits : Nat := 0x2000 + 0x1000 * 2 ^ 64 + 2 ^ 128 + 2 ^ 160 + 0x3000 * 2 ^ 448
/-- The bytes of a Nat at an address of die 0. -/
def holding (a n x : Nat) (s : State) : State := { s with hbm := s.hbm.writeBytes a (bytesLE n x) }
def arming0 : Arming :=
  { id := 0, launch := 0, blk := 0, grp := 0, lane := 0, pc := 0x10000, region := 0x10000, ctx := 0, clr := true, adam := false, h := List.replicate 7 0, expect := 2,
    nlines := 1, paddr := 0x1000, gaddr := 0x2000, done := 0x3000, counts := [(0, 2)], fired := [], fail := none, handle := 0, canc := false }
theorem witness_ReductionsAddExactImages :
    (Plain s0 c0 ∧ EmptyCore s0 c0.b.core ∧ s0.images = [] ∧ s0.errors = [] ∧ c0.b.onCore = true ∧ s0.throttled c0.l.part bSLOTS = false)
    ∧ (∀ i ∈ [Instr.red (rm' 0 0 3 0), .red (rm' 3 0 126 1), .redarm (rm' 7 0 0 0), .redarm (rm' 0 126 0 1)], ((i.wf = true ∧ Issues s0 c0 i) ∧ NoLoads c0 i) ∧ c0.guarded i = [0, 1])
    ∧ (∀ l ∈ [0, 1], let ea := normEa s0.dev ((c0.thread l).vPair 0).toNat
        ea = 0 ∧ spaceFault s0.podSize ea = none ∧ isLocal s0.dev ea = true ∧ ea % 8 = 0) ∧ c0.l.lr.own = false
    ∧ (∀ right ∈ [Right.rd, .atomic], s0.answer c0.req right 0 128 = .served (.hbm 0) key0 8000 true true)
    ∧ ((c0.thread 0).armRecord = none ∧ normEa s0.dev (c0.g.sPair 0).toNat = 0 ∧ s0.updateOk c0.l.ctx (readUpdate 0 (s0.hbm.readBytes 0 64)) = false)
    ∧ (let s := holding 0 64 updateBits s0
       let full := { s with armings := List.replicate 32 { arming0 with gaddr := 0x8000, paddr := 0x9000 } }
       let u := readUpdate 0 (s.hbm.readBytes 0 64)
       s.updateOk 0 u = true ∧ s.armings.countP (fun a => eaDie a.gaddr == eaDie u.gaddr) < 32
        ∧ full.updateOk 0 u = true ∧ 32 ≤ full.armings.countP (fun a => eaDie a.gaddr == eaDie u.gaddr)) := by
  refine ⟨⟨plain0, empty0, rfl, rfl, by decide +kernel, by decide +kernel⟩, fun i hi => ⟨⟨issues0 _ (by decide +kernel) i hi, noLoads0 i⟩,
    (by decide +kernel : ∀ j ∈ _, c0.guarded j = [0, 1]) i hi⟩, by decide +kernel, by decide +kernel, by decide +kernel, by decide +kernel, by decide +kernel⟩

/-- Empty buffers and one of the block's own; a line of SGD and of Adam; DONE of an arming that has fired, and of one that its launch's end cancels. -/
theorem witness_BuffersDrainAndArmedLinesFire :
    (∀ i ∈ [Instr.redfl (ro 0 0 0)], ((i.wf = true ∧ Issues s0 c0 i) ∧ NoLoads c0 i) ∧ c0.guarded i = [0, 1])
    ∧ (∀ e ∈ (s0.core c0.b.core).buffers, e.blk = c0.blk → s0.spoiled e.image.place = false)
    ∧ (let s := { s0 with armings := [arming0], subject := .arming 0 0 }
       let r : Req := { part := 0, engine := true, ctx := 0, die := eaDie arming0.gaddr }
       s.launch? arming0.launch = some (placedLaunch 0) ∧ s.images = [] ∧ s.errors = [] ∧ arming0.canc = false ∧ 0 ∉ arming0.fired ∧ arming0.expect ≤ assocD arming0.counts 0 0 ∧ 0 < arming0.nlines
        ∧ (∀ ea ∈ [0x2000, 0x1000, 0x1080, 0x1100], ea % 128 = 0 ∧ s.answer r .update ea 128 = .served (.hbm ea) key0 8000 true true) ∧ s.hbm.wf = true)
    ∧ (let a := { arming0 with fired := [0] }
       let s := { s0 with armings := [a], subject := .arming 0 1 }
       a.nlines ≤ 1 ∧ a.fired.length = a.nlines ∧ a.canc = false ∧ a.fail = none
        ∧ s.answer { part := 0, engine := true, ctx := 0, die := eaDie a.gaddr } .wr 0x3000 128 = .served (.hbm 0x3000) key0 8000 true true)
    ∧ ({ arming0 with canc := true, adam := true } : Arming).canc = true := by
  refine ⟨fun i hi => ⟨⟨issues0 _ (by decide +kernel) i hi, noLoads0 i⟩, (by decide +kernel : ∀ j ∈ _, c0.guarded j = [0, 1]) i hi⟩, by decide +kernel, by decide +kernel, by decide +kernel, rfl⟩

/-- A launch record of one block with weight w. -/
def recordBits (w : Nat) : Nat :=
  0x10000 + w * 2 ^ 384 + 2 ^ 576 + 2 ^ 608 + 2 ^ 640 + 2 ^ 656 + 2 ^ 720 + 16 * 2 ^ 728 + 16 * 2 ^ 736
/-- A ring of 16 records at 0x4000. -/
def queue0 (tail : Word) : Queue := { Queue.blank 0 with qbase := 0x4000, tail := tail, st := .enabled }
/-- A record that fits at 0, the block's weight in v3, and a ring with its last slot free, or full, or absent. -/
def launching (w : Word) (qs : List Queue) : State := holding 0 128 (recordBits 1) { regs [0, 0, 0, w] with queues := qs }
def launchOps : List Instr := [.launch (ro 7 0 3), .spawn (ro 0 126 3)]
theorem launchWit (w : Word) (qs : List Queue) (h : (launching w qs).sel.isSome = true) (pl : Plain (launching w qs) (selOf _ h))
    (em : EmptyCore (launching w qs) (selOf _ h).b.core) (p : let c := selOf _ h
      launchOps.all (fun i => i.wf && c.rangeOk i) = true ∧ (∀ i ∈ launchOps, c.guarded i = [0, 1]) ∧ c.g.loads = [] ∧ (c.g.sPair 0).toNat = 0 ∧ (c.g.sPair 126).toNat = 0
      ∧ (launching w qs).answer c.req .rd 0 128 = .served (.hbm 0) key0 8000 true true ∧ operandB c.g (c.thread 0) false 3 = w ∧ c.l.queue = 0 ∧ c.b.weight = 1) :
    ∃ c, Plain (launching w qs) c ∧ EmptyCore (launching w qs) c.b.core ∧ (∀ i ∈ launchOps, (i.wf = true ∧ Issues (launching w qs) c i) ∧ c.guarded i = [0, 1])
      ∧ c.g.loads = [] ∧ (c.g.sPair 0).toNat = 0 ∧ (c.g.sPair 126).toNat = 0 ∧ (launching w qs).answer c.req .rd 0 128 = .served (.hbm 0) key0 8000 true true
      ∧ operandB c.g (c.thread 0) false 3 = w ∧ c.l.queue = 0 ∧ c.b.weight = 1 :=
  ⟨_, pl, em, fun i hi => ⟨issues _ h _ p.1 i hi, p.2.1 i hi⟩, p.2.2⟩
theorem witness_KernelsAppendLaunchRecords :
    (∀ x ∈ [((0xFFFFFFFF : Word), [queue0 15]), (1, [queue0 15]), (0, [queue0 16]), (0, [])],
      ∃ c, Plain (launching x.1 x.2) c ∧ EmptyCore (launching x.1 x.2) c.b.core ∧ (∀ i ∈ launchOps, (i.wf = true ∧ Issues (launching x.1 x.2) c i) ∧ c.guarded i = [0, 1])
        ∧ c.g.loads = [] ∧ (c.g.sPair 0).toNat = 0 ∧ (c.g.sPair 126).toNat = 0 ∧ (launching x.1 x.2).answer c.req .rd 0 128 = .served (.hbm 0) key0 8000 true true
        ∧ operandB c.g (c.thread 0) false 3 = x.1 ∧ c.l.queue = 0 ∧ c.b.weight = 1)
    ∧ (let s := launching 1 [queue0 15]
       s.images = [] ∧ s.errors = [] ∧ (s.launch? 0).isSome = true ∧ s.queue? 0 = some (queue0 15) ∧ ((queue0 15).tail - (queue0 15).head).toNat < 2 ^ (queue0 15).qsize
        ∧ ¬((queue0 16).tail - (queue0 16).head).toNat < 2 ^ (queue0 16).qsize
        ∧ s.answer (queue0 15).req .wr (normEa s.dev ((queue0 15).qbase.toNat + 128 * ((queue0 15).tail.toNat % 16)) / 128 * 128) 128 = .served (.hbm 0x4780) key0 8000 true true
        ∧ (let r := (readLaunch (s.hbm.readBytes 0 128)).1
           r.blocks ≤ 1 ∧ recordOk s.dev r (readLaunch (s.hbm.readBytes 0 128)).2 1 = true)) := by
  refine ⟨?_, by decide +kernel⟩
  simp only [List.mem_cons, List.not_mem_nil, or_false]
  rintro x (rfl | rfl | rfl | rfl) <;> exact launchWit _ _ (by decide +kernel) (by constructor <;> decide +kernel) (by constructor <;> decide +kernel) (by decide +kernel)

/-! ## Witnesses: queues, the dispatcher, commands (spec 08, 14) -/

theorem readOk (o : ReadOut) (p : State → List Byte → Bool) (h : (match o with | .ok s a => p s a | _ => false) = true) : ∃ s a, o = .ok s a ∧ p s a = true := by
  cases o with
  | ok s a => exact ⟨s, a, rfl, h⟩
  | _ => cases h
/-- One partition of four cores, one queue, no block; the record of weight w at the head of the ring. -/
def part1 : Partition := Partition.new 0 1
def quiet (qs : List Queue) (ls : List Launch) : State :=
  { placed 3 [] with issue := none, queues := qs, launches := ls, partitions := [part1], subject := .queue 0 }
def offered (w : Nat) : State := holding 0x4000 128 (recordBits w) (quiet [queue0 1] [])
/-- A TAIL that fills the ring, and one past it, by firmware and by masters that no access table grants. -/
theorem witness_QueuesLaunchesAndTheDispatcher_tail :
    ∀ master ∈ [0x20, 0x21, 0x3F], let s := { quiet [queue0 0] [] with subject := .tail 0 master 16, acl := [] }
      let q := s.descriptor 0
      q = queue0 0 ∧ s.tailGranted 0 master = (master == 0x3F) ∧ ((16 : Word) - q.head).toNat ≤ 2 ^ q.qsize ∧ (q.tail - q.head).toNat ≤ ((16 : Word) - q.head).toNat
      ∧ ¬((17 : Word) - q.head).toNat ≤ 2 ^ q.qsize := by decide +kernel
/-- An offered record that is accepted, and one whose weight is less than its blocks. -/
theorem witness_QueuesLaunchesAndTheDispatcher_accept :
    ∀ w ∈ [1, 0], (offered w).queue? 0 = some (queue0 1) ∧ (offered w).part? 0 = some part1 ∧ (offered w).decision part1 = some (.offered 0) ∧ (offered w).launches = []
      ∧ (let s0 := (offered w).resetCredits part1 0 ((queue0 1).eff part1.agestep)
       ∃ s1 bs, s0.dispRead (queue0 1).req 0 0x4000 128 = .ok s1 bs
        ∧ (s1.nextLaunch == (offered w).nextLaunch && s1.launches == [] && s1.queues == s0.queues && (queue0 1).accepting == none && (queue0 1).spawned == [] && s1.dev == 0
          && recordOk 0 (readLaunch bs).1 (readLaunch bs).2 w == (w == 1) && (readLaunch bs).1.fitsEmpty
          && (match s1.dispRead (queue0 1).req 0 0 64 with | .ok s2 _ => s2.launches == [] && s2.queues == s1.queues && s2.nextLaunch == s1.nextLaunch | _ => false)) = true) := by
  simp only [List.mem_cons, List.not_mem_nil, or_false]
  rintro w (rfl | rfl) <;> exact ⟨by decide +kernel, by decide +kernel, by decide +kernel, by decide +kernel, readOk _ _ (by decide +kernel)⟩
def fresh0 : Launch := { placedLaunch 0 with next := 0 }
/-- 128 groups of 128 registers, which no core takes. -/
def tooLarge : Launch := { fresh0 with lr := { placedRecord 0 with groups := 128 } }
theorem witness_QueuesLaunchesAndTheDispatcher_dispatch :
    (let s := { quiet [queue0 0] [fresh0] with subject := .part 0 }
     s.placeHeld = s ∧ s.part? 0 = some part1 ∧ (s.decision part1).any (fun x => match x with | .fresh 0 0 _ _ => true | _ => false) = true ∧ s.launch? 0 = some fresh0 ∧ fresh0.lr.own = false
      ∧ fresh0.policy = none ∧ ∀ b ∈ s.blocks, b.id ≠ s.nextBlock)
    ∧ (let q := { queue0 0 with age := 350000 }
       let s := { quiet [q] [tooLarge] with subject := .reservation 0 0 }
       s.queue? 0 = some q ∧ s.dispatchingLaunch 0 = some tooLarge ∧ part1.reservation = none ∧ q.prio < 7 ∧ q.eff part1.agestep = 7
        ∧ s.place part1 (freshNeed tooLarge.lr tooLarge.next) (some 0) = none ∧ part1.openCores = [0, 1, 2, 3])
    ∧ ∀ d ∈ [0, 0x80], let l := { placedLaunch 0 with returned := 1, lr := { placedRecord 0 with done := BitVec.ofNat 64 d } }
        let s := { quiet [] [l] with subject := .launch 0 }
        let s1 := s.settleContext ⟨0, false, 0, 0⟩
        s.launch? 0 = some l ∧ s.launchDue l = true ∧ (∀ p ∈ s.partitions, p.draining = false) ∧ isLocal s.dev (normEa s.dev d) = true ∧ spaceFault s.podSize (normEa s.dev d) = none
          ∧ normEa s.dev d % 16 = 0 ∧ (s1.launch? l.id == some l && s1.partitions == s.partitions && s1.dev == s.dev && s1.podSize == s.podSize) = true
          ∧ s1.answer ⟨0, false, 0, 0⟩ .wr (normEa s.dev d / 128 * 128) 128 = .served (.hbm d) key0 8000 true true ∧ s1.images = [] ∧ s1.errors = [] := by
  refine ⟨?_, ?_, ?_⟩ <;> decide +kernel

def swapLaunch : Launch := { placedLaunch 0 with lr := { placedRecord 0 with swapmax := 0x1000000 } }
def parkedBlock (st : BlockState) : Block := { b0 with st := st, groups := [{ g0 with parkedAt := some 0 }] }
def swapState (st : BlockState) : State :=
  { placed 3 [parkedBlock st] with issue := none, subject := .block 0, launches := [swapLaunch, { fresh0 with id := 1 }], gtime := 20000 }
/-- A group parked for PT; a block that may leave; the end of a period; a drain and a watchdog, with launches and without; PREEMPT of one core and of all, with a
block left and with none; log room up to the
write index and past it. -/
theorem witness_SwapsBudgetsPreemptionDrainAndLogRoom :
    ((swapState .resident).block? 0 = some (parkedBlock .resident) ∧ (swapState .resident).launch? 0 = some swapLaunch
      ∧ ((swapState .resident).swapRoom swapLaunch (parkedBlock .resident)).isSome = true ∧ (0 + 1000 * 20 ≤ (swapState .resident).gtime)
      ∧ (swapState .resident).blockWaiting 0 = true ∧ ((swapState .resident).part? 0).any (fun p => p.pt == 20) = true)
    ∧ ((swapState .swapping).block? 0 = some (parkedBlock .swapping) ∧ (swapState .swapping).swapReady (parkedBlock .swapping) = true ∧ (swapState .swapping).errors = [] ∧ (swapState .swapping).images = []
      ∧ ((swapState .swapping).core 0).buffers = [])
    ∧ State.reset.nextPeriod ≤ 10000
    ∧ (let q := { queue0 0 with wdog := 1, wdogFrom := some 0 }
       let s := { quiet [q] [] with gtime := 1000 }
       s.part? 0 = some part1 ∧ part1.draining = false ∧ (∀ l ∈ s.launches, l.part ≠ 0) ∧ s.takes 0x0B = true ∧ s.queue? 0 = some q ∧ q.part = 0 ∧ 0 + 1000 * q.wdog ≤ s.gtime)
    ∧ (let s := quiet [queue0 0] [placedLaunch 0]
       s.part? 0 = some part1 ∧ part1.draining = false ∧ (∃ l ∈ s.launches, l.part = 0 ∧ l.complete = false) ∧ (∀ b ∈ s.blocks, s.launchPart b ≠ some 0)
        ∧ (∀ c ∈ part1.cores, (s.core c).sent = []) ∧ s.takes 0x0B = true)
    ∧ (let s := { placed 3 [b0] with issue := none, subject := .part 0, partitions := [{ part1 with preempting := some [0, 3], closed := [0, 3] }] }
       (s.part? 0).any (fun p => p.preempting == some [0, 3]) = true ∧ (∀ c ∈ [0, 3], ∀ b ∈ s.blocksOn c, b.st = .resident ∧ b.doomed = none)
        ∧ ([0, 3].filter fun c => s.blocksOn c = []) = [3])
    ∧ (part1.cores.length = 4 ∧ (quiet [] []).takes 0x09 = true ∧ ∀ c ∈ part1.cores, (quiet [] []).blocksOn c = [])
    ∧ (let r := { fullRing with readIdx := 5, writeIdx := 9 }
       r.readIdx ≤ 5 ∧ 9 ≤ r.writeIdx ∧ r.writeIdx < 10 ∧ (quiet [] []).heldEvents = [] ∧ ∀ b ∈ (quiet [] []).blocks, b.onCore = false) := by
  refine ⟨?_, ?_, ?_, ?_, ?_, ?_, ?_, ?_⟩ <;> decide +kernel

/-- Each command with arguments at the ends of their ranges, in a state that takes it. -/
theorem witness_CommandsChangeQueuesPartitionsAndTheLog :
    (let s := quiet [{ queue0 0 with st := .halted }] []
     s.logRing = none ∧ s.heldEvents = [] ∧ (∀ code ∈ [0x01, 0x02, 0x03, 0x04, 0x05, 0x06, 0x07, 0x08, 0x0A, 0x0C, 0x0F, 0x10, 0x11, 0x12, 0x1B], s.takes code = true)
      ∧ s.quadsBusy (BitVec.allOnes 48) = false ∧ 15 < 16 ∧ s.part? 0 = some part1 ∧ part1.quads ≠ 0
      ∧ isLocal s.dev (normEa s.dev 0x4000) = true ∧ normEa s.dev 0x4000 % 128 = 0 ∧ (s.queue? 0).isSome = true ∧ s.queue? 1 = none ∧ (∀ m < 1, (s.queue? m).isSome = true)
      ∧ s.incomplete 0 = [] ∧ (part1.budgets[3]?).isSome = true ∧ s.comm? 0 65535 = none ∧ ([(⟨0, 0, 0, none⟩ : Member), ⟨0, 0, 1, none⟩].map fun m => (m.dev, m.launch, m.blkidx)).Nodup ∧ s.hbm.wf = true ∧ s.bootRing.length < 4096
      ∧ (3 * 2 ^ 40 + 2 ^ 38 - 32 * 8192) / 2 ^ 40 < 4 ∧ (3 * 2 ^ 40 + 2 ^ 38 - 32 * 8192) % 2 ^ 40 + 32 * 8192 ≤ 2 ^ 38)
    ∧ (let s := { quiet [] [] with partitions := [Partition.new 0 0] }
       (s.part? 0).any (fun p => p.quads == 0) = true ∧ ∀ q ∈ s.queues, q.part = 0 → q.st = .absent)
    ∧ (let s := { quiet [queue0 0] [] with logRing := some { fullRing with writeIdx := 8191 }, podSize := 2, comms := [comm0 5] }
       s.logRing.isSome = true ∧ ({ fullRing with writeIdx := 8191 } : LogRing).used < 8192 ∧ s.queue? 0 = some (queue0 0) ∧ 1 < s.podSize ∧ 1 ≠ s.dev ∧ (s.comm? 0 0).isSome = true ∧ s.heldEvents = [])
    ∧ (let s := { quiet [queue0 0] [] with logRing := some { fullRing with writeIdx := 0 }, partitions := [{ part1 with draining := true }] }
       s.queue? 0 = some (queue0 0) ∧ (∃ p, s.part? 0 = some p ∧ p.draining = true) ∧ s.heldEvents = [] ∧ s.takes 0x05 = true) := by
  refine ⟨?_, ?_, ?_, ?_⟩ <;> decide +kernel

def frameValue : Dword := BitVec.ofNat 64 (2 ^ 63 + 2 ^ 60 + 2 * 2 ^ 56 + 2 ^ 49)
/-- XLATE of a page that stays resident, that goes to a state it may not, to a frame that is none, to no page and to an entry that R257 rejects;
MIGRATE of a page and of a settled one; digests that agree and that do not. -/
theorem witness_TranslationCommandsAndReplicaComparison :
    (let s := entryState placedEntry
     s.takes 0x0D = true ∧ keyOk key0 = true ∧ s.changing key0 = false ∧ s.logRing = none ∧ s.images = [] ∧ (∀ c ∈ s.cores, c.stores = []) ∧ s.entry? key0 = some placedEntry
      ∧ placedEntry.st = .resident ∧ frameValue.getLsbD 63 = true ∧ entryOk key0 frameValue.toNat = true ∧ stateOf (frameValue.toNat / 2 ^ 60 % 8) = .resident
      ∧ frameOk key0 (frameValue.toNat / 2 ^ 44 % 4) (frameValue.toNat / 2 ^ 8 % 2 ^ 32 * 256) = true ∧ frameOk key0 0 256 = false
      ∧ entryChange placedEntry (parseEntry key0 frameValue) = true ∧ (∀ e ∈ s.tableEntries 2 (parseEntry key0 frameValue), frameFits e = true) ∧ s.hbm.wf = true
      ∧ (∀ x ∈ [(PageState.resident, true), (.unmapped, true), (.rejected, true), (.moving, false), (.absent, false), (.filling, false)], stateChange .resident x.1 = x.2)
      ∧ entryOk key0 (2 ^ 63) = false ∧ (0 : Dword).getLsbD 63 = false)
    ∧ (∀ x ∈ [(PageState.resident, MoveTarget.frame 0 0x40000000), (.resident, .toHost 0), (.host, .toDevice 3 0), (.resident, .pageOut)],
        let key : EntryKey := { key0 with table := 4 }
        let e := { placedEntry with key := key, st := x.1 }
        (entryState e).entry? key = some e ∧ e.changeAt = none ∧ e.nm = false ∧ (entryState e).images = [] ∧ keySize key ≤ 2 ^ 38 ∧ 0x40000000 % keySize key = 0)
    ∧ (∀ settled ∈ [false, true], let e := { placedEntry with settled := settled }
        (entryState e).takes 0x0E = true ∧ (entryState e).entry? e.key = some e ∧ e.changeAt = none ∧ e.st = .resident ∧ e.nm = false
          ∧ 2 ^ 38 - keySize e.key + keySize e.key ≤ 2 ^ 38 ∧ (2 ^ 38 - keySize e.key) % keySize e.key = 0 ∧ ∀ c ∈ (entryState e).cores, c.stores = [])
    ∧ (∀ ph ∈ [ReplicaPhase.running, .rerun], ∀ bad ∈ [[], [3]], let p : Replica2 := { peer := 1, schedule := [], phase := ph, since := 0, peerWithdrawn := false, counts := [] }
        let s := { s0 with pair := some p, selftestFailed := bad }
        s.pair = some p ∧ p.peerWithdrawn = false ∧ p.phase ≠ .withdrawn ∧ s.ownErrors p = (bad == [3])) := by
  refine ⟨?_, ?_, ?_, ?_⟩ <;> decide +kernel

/-! ## Witnesses: members, imprecise records, the debug port (spec 03, 10, 15) -/

theorem forall2 {α : Type} {p : α → Prop} {a b : α} (h : p a) (k : p b) : ∀ x ∈ [a, b], p x := by simp [h, k]
/-- ACCST of BF16 into the tile store, so that the last row ends at its end, and of FP32 into memory. -/
theorem witness_AccstStoresTheRowOfEachLane :
    ∀ x ∈ [((0xFF00 : Word), (0x3FFF0000 : Word)), (0, 0)],
      let s := withGroup fun g => { g with s := [x.1, x.2, 128] ++ List.replicate 125 0 }
      ∃ c, s.sel = some c ∧ WholeSet s c ∧ Plain s c ∧ c.g.flights = [] ∧ (s.core c.b.core).stores = [] ∧ (s.core c.b.core).lines = [] ∧ c.b.tile.wf = true
        ∧ (∀ l ∈ c.lanes, (c.thread l).pc = c.issue.pc) ∧ (∀ o ∈ [rsm 0x17 0 2 0, rsm 0x07 0 2 0], (Instr.accst o).wf = true ∧ c.rangeOk (.accst o) = true)
        ∧ ((accstFmt 1).mag + 1) / 8 = 2 ∧ (c.g.sPair 0).toNat % 4 = 0 ∧ (c.g.sr 2).toNat % 4 = 0
        ∧ ∀ l ∈ c.lanes, let ea := normEa s.dev ((c.g.sPair 0).toNat + l * (c.g.sr 2).toNat)
            spaceFault s.podSize ea = none ∧ (eaSpace ea = 2 → eaOff ea + 128 ≤ 4 * c.l.lr.priv) ∧ (eaSpace ea = 3 → eaOff ea + 128 ≤ c.l.lr.tiles)
              ∧ (isLocal s.dev ea = true ∨ eaSpace ea = 3) ∧ c.l.lr.own = false := by
  refine forall2 ?_ ?_ <;> exact ⟨selOf _ (by decide +kernel), sel_selOf _ _, whole _ _ (by decide +kernel), by constructor <;> decide +kernel, by decide +kernel,
    by decide +kernel, by decide +kernel, by decide +kernel, by decide +kernel, by decide +kernel, by decide +kernel, by decide +kernel, by decide +kernel, by decide +kernel⟩

def trapGroup (st : TState) (rs : List FaultRec) : Group := { g0 with threads := [{ th0 with st := st, imprecise := rs }] ++ List.replicate 63 Thread.blank }
def trapState (st : TState) (rs : List FaultRec) (x : Subject) : State := { placed 3 [{ b0 with groups := [trapGroup st rs] }] with issue := none, subject := x }
/-- The only live thread waits at a cross-lane instruction that no wait of the group holds; a record finds a thread running, asleep, yielding, in a
BAR, and at one for the previous phase, with another thread there. -/
theorem witness_ThreadsAreTrappedWhereTheyWait :
    (let s := trapState .member [] (.group 0 0)
     let g := trapGroup .member []
     s.group? 0 0 = some g ∧ s.launch? 0 = some (placedLaunch 0) ∧ (placedLaunch 0).lr.handler ≠ 0 ∧ g.threads.length = 64 ∧ s.logRing = none
      ∧ (∀ th ∈ g.threads, (th.st = .member ∧ th.trap = none) ∨ th.st = .exited) ∧ (∃ th ∈ g.threads, th.st = .member) ∧ g.waits = [])
    ∧ (let a : Arrival := ⟨1, 15, none, 4, wait0 3⟩
       let g := { g0 with arrival := some a, threads := [{ th0 with st := .waiting .arrive, imprecise := [rec0] }, { th0 with st := .waiting .arrive }] ++ List.replicate 62 Thread.blank }
       let s := { placed 3 [{ b0 with groups := [g] }] with issue := none, subject := .lane 0 0 0 }
       s.group? 0 0 = some g ∧ (g.threads[0]?).any (fun th => th.st == .waiting .arrive && th.imprecise == [rec0] && th.trap.isNone && th.horizon.isNone) = true ∧ s.heldEvents = []
        ∧ g.halted = false ∧ (List.range 64).filter (fun k => k != 0 && (g.thread k).st == .waiting .arrive) = [1])
    ∧ ∀ st ∈ [TState.runnable, .sleeping 9 4, .yielding 0 16 4, .waiting (.barrier 1 15 1 true 4), .waiting (.sync 0 0 0 4)],
        let s := trapState st [rec0, rec0] (.lane 0 0 0)
        s.group? 0 0 = some (trapGroup st [rec0, rec0]) ∧ ((trapGroup st [rec0, rec0]).threads[0]?).any (fun th => th.st == st && th.imprecise == [rec0, rec0] && th.trap.isNone
          && th.horizon.isNone) = true ∧ (trapGroup st [rec0, rec0]).halted = false := by
  refine ⟨?_, ?_, ?_⟩ <;> decide +kernel

def halted0 : Group := { g0 with halted := true }
/-- Partition 0's port, as the second firmware master, an ungranted one, and the host's. -/
def dport (m : Nat) : DbgPort := ⟨0, m⟩
def dbgState (g : Group) (x : Subject) : State := { placed 3 [{ b0 with groups := [g] }] with issue := none, subject := x }
/-- A group that runs and one that is halted, a name of no group, an unknown partition, and a breakpoint at the PC of a lane. -/
theorem witness_DebugOperationsHaltResumeAndReach :
    (let s := dbgState g0 .none
     s.power = .active ∧ ({ s with power := .off } : State).power ≠ .active ∧ (s.part? 0).isSome = true ∧ s.part? 1 = none ∧ s.named? (dport 0x3F) ⟨0, 0, 1⟩ = none ∧ s.named? (dport 0x3F) ⟨191, 3, 31⟩ = none ∧ s.named? ⟨1, 0x3F⟩ ⟨0, 0, 0⟩ = none
      ∧ (∀ m ∈ [0x3F, 0x20, 0x21], ({ s with acl := [] } : State).aclGrants .control m .wr 0x10000 (0x10000 + 4095) = (m == 0x3F)))
    ∧ (∀ g ∈ [g0, halted0], let s := dbgState g .none
        let b := { b0 with groups := [g] }
        s.named? (dport 0x3F) ⟨0, 0, 0⟩ = some (b, g) ∧ s.block? b.id = some b ∧ s.group? b.id g.idx = some g ∧ s.launch? b.launch = some (placedLaunch 0) ∧ s.logRing = none
          ∧ ∀ x ∈ b.groups.zipIdx, x.1.idx = x.2)
    ∧ (let p := { part1 with debug := true, breaks := some (BitVec.ofNat 64 placedAt) :: List.replicate 7 none }
       let s := { dbgState g0 (.group 0 0) with partitions := [p] }
       s.part? 0 = some p ∧ b0.st = .resident ∧ g0.halted = false ∧ (g0.thread 0).st = .runnable ∧ (g0.thread 0).horizon = none ∧ g0.skipBreak.getLsbD 0 = false
        ∧ some (BitVec.ofNat 64 placedAt) ∈ p.breaks ∧ normEa s.dev placedAt = normEa s.dev (g0.thread 0).pc.toNat) := by
  refine ⟨?_, ?_, ?_⟩ <;> decide +kernel

/-! ## Witnesses: the platform, the host, the pod (spec 01, 06, 07, 16) -/

/-- Every command is taken after reset, with its arguments at the ends of their ranges; a register write by a granted and by an unknown master. -/
theorem witness_PlatformCommandsChangeThePlatform :
    (let s := State.reset
     s.logRing = none ∧ s.heldEvents = [] ∧ s.launches = [] ∧ (∀ code ∈ [0x13, 0x14, 0x15, 0x16, 0x17, 0x18, 0x19, 0x1A, 0x1C, 0xFF], s.takes code = true) ∧ s.blocks.any Block.onCore = false ∧ targetOk (.hbm 3) = true
      ∧ targetOk (.hbm 4) = false ∧ (∀ q ∈ s.queues, q.st ≠ .enabled) ∧ (∀ b ∈ s.blocks, b.st = .ended ∨ b.st = .killed) ∧ 2000 % 100 = 0 ∧ 10000 % 100 = 0
      ∧ (s.part? 0).isSome = true ∧ s.hbm.wf = true ∧ s.power = .active ∧ s.aclGrants .control 0x20 .wr 256 259 = false
      ∧ (3 * 2 ^ 40 + 2 ^ 38 - 30016) / 2 ^ 40 < 4 ∧ (3 * 2 ^ 40 + 2 ^ 38 - 30016) % 2 ^ 40 + 30016 ≤ 2 ^ 38
      ∧ (3 * 2 ^ 40 + 2 ^ 38 - 29856) % 2 ^ 40 + 29856 ≤ 2 ^ 38 ∧ ({ s with power := .standby } : State).power ≠ .active)
    ∧ s0.blocks.any Block.onCore = true
    ∧ (let s := { State.reset with eccCounts := [(7, 3, 5)], acl := [{ target := .control, index := 0, last := 0, first := 0, master := 0x20, at_ := false, wr := true, rd := true }] }
       s.eccCounts.find? (fun c => c.1 == 7 && c.2.1 == 3) = some (7, 3, 5) ∧ s.aclGrants .control 0x20 .wr 0 3 = true ∧ s.aclGrants .control 0x20 .wr 256 259 = true
        ∧ s.aclGrants .control 0x20 .wr 1020 1023 = true ∧ s.aclGrants .control 0x20 .wr 1024 1027 = true) := by
  refine ⟨?_, ?_, ?_⟩ <;> decide +kernel

/-- The first and the last port; a device all whose ports are down; each power state; each end of the clock. -/
theorem witness_LinksPowerAndClocksChangeThePlatform :
    (∀ p ∈ [0, 35], p < 36 ∧ assoc State.reset.portsDown p = none) ∧ State.reset.power = .active
    ∧ (let s := { State.reset with podSize := 2, routes := [(1, 1)], portsDown := [(0, 0)], gtime := 100000 }
       (assoc s.portsDown 0).isSome = true ∧ 1 < s.podSize ∧ 1 ≠ s.dev ∧ 1 ∉ s.unreachable
        ∧ (∀ p < 36, (assocD s.routes 1 (0 : BitVec 36)).getLsbD p = true → ∃ w ∈ [0], assoc s.portsDown p = some w) ∧ (∀ q ∈ s.portsDown, q.2 + 100000 ≤ s.gtime))
    ∧ (∀ f ∈ [12, 13, 26, 27], ({ State.reset with freq := [27, 27, 27, f] } : State).freq[3]? = some f) := by
  refine ⟨?_, ?_, ?_, ?_⟩ <;> decide +kernel

def hostGrant (m : Nat) (i : Nat) : List AclEntry :=
  [{ target := .hbm 0, index := i, last := 0x3FFFF, first := 0, master := m, at_ := true, wr := true, rd := true },
    { target := .slices 0, index := i, last := 0, first := 0, master := m, at_ := true, wr := true, rd := true }]
def hostState : State := { s0 with hdm := [{ base := 2 ^ 30, size := 2 ^ 30, die := 0, frame := 0 }], acl := placedAcl ++ hostGrant 0x20 2 ++ hostGrant 0x21 3 }
/-- The last bytes that the host's decoder names, granted and not; an AtomicOp there; and the last bytes of a line for another device. -/
theorem witness_HostAndPodAccessesReachTheirHome :
    hostState.power = .active ∧ hostState.images = [] ∧ hostState.hbm.wf = true
    ∧ hostState.hdmPlace (2 ^ 31 - 8) = some 0x3FFFFFF8 ∧ hostState.hdmPlace (2 ^ 31 - 8 + 8 - 1) = some (0x3FFFFFF8 + 8 - 1)
    ∧ (∀ right ∈ [Right.rd, .wr], hostState.frameGrants 0x21 right 0x3FFFFFF8 8 = true ∧ ({ hostState with acl := [] } : State).frameGrants 0x21 right 0x3FFFFFF8 8 = false)
    ∧ hostState.frameGrants 0x20 .atomic 0x3FFFFFF8 8 = true ∧ 0x3FFFFFF8 % 8 = 0
    ∧ (∀ bad ∈ [[], [0x3FFFFFF8]], let s := { hostState with errors := bad }
        ((spansOf 0x3FFFFFF8 8).any fun line => s.spoiled (.hbm (128 * line))) = (bad != []) ∧ s.spoiled (.hbm 0x3FFFFFF8) = (bad != []))
    ∧ (let ea := normEa hostState.dev 120
       let r : Req := { part := 0 % 16, engine := false, ctx := 0, die := homeDie ea }
       isLocal hostState.dev ea = true ∧ hostState.errors = [] ∧ ea % 128 + 8 ≤ 128 ∧ (∀ right ∈ [Right.rd, .wr, .atomic], hostState.answer r right (ea / 128 * 128) 128 = .served (.hbm 0) key0 8000 true true)
        ∧ (Place.hbm 0).at_ % 128 = 0
        ∧ ({ hostState with entries := [{ placedEntry with pr := false }] } : State).answer r .rd (ea / 128 * 128) 128 = .denied 1
        ∧ ({ hostState with entries := [] } : State).answer r .rd (ea / 128 * 128) 128 = .unmapped) := by decide +kernel

/-! ## Witnesses: the machine as a whole -/

/-- NOP placed where the next step fetches it, and that line in the instruction cache. -/
def nopWord : Nat := 0x000001E5
theorem decoded {α ε : Type} {e : Except ε α} {x : α} (h : e.toOption = some x) : e = .ok x := by cases e <;> simp_all [Except.toOption]
theorem nop_decodes : decode (natBytes 4 nopWord) = .ok (.nop, 4) := decoded (by decide +kernel)
def fetchState (k : Core → Core) (word : Nat) : State := { withCore s0 k with hbm := s0.hbm.writeBytes placedAt (natBytes 8 word) }
def cachedLine (word : Nat) : ILine := { key := ⟨0, placedAt / 128⟩, data := natBytes 8 word ++ List.replicate 120 0, lease := 100 }
/-- A set that waits in a NOP that it has issued (which no NOP does: the premise asks only that its wait is over). -/
def resuming : State := { withThreads (fun l t => if l < 2 then { t with st := .waiting (.issued .nop 3 false) } else t) with issue := none }
/-- A link fails while the log is full, and firmware frees an entry. -/
def holdingInput : State :=
  { State.reset with logRing := some fullRing, inbox := [(.linkDown, .port 0), (.logReadIndexWrite, .index 1)] }
/-- An issue opportunity, a second set, an input, an input that the log holds up, an event, a resumed instruction, and a package that is off; an odd PC; bytes in the cache that decode and that do not; and
bytes in memory. -/
theorem witness_StepRunsTheDecodedInstruction :
    (∃ i, decode (natBytes 4 nopWord) = .ok (i, 4) ∧ i.wf = true)
    ∧ (match ({ fetchState id nopWord with issue := none } : State).act with | .issue _ _ _ _ => true | _ => false) = true
    ∧ (match ({ fetchState id nopWord with issue := none, second := some ⟨0, 0, 1, BitVec.ofNat 64 placedAt⟩ } : State).act with | .second _ => true | _ => false) = true
    ∧ (match ({ State.reset with gtime := 10000 } : State).act with | .event _ _ _ => true | _ => false) = true
    ∧ State.reset.power = .active ∧ State.reset.inbox = [] ∧ (let s := { State.reset with power := .off, inbox := [(.powerOn, .none), (.hostSnoop, .none)] }
       s.power = .off ∧ s.inbox ≠ [])
    ∧ (match resuming.act with | .resume h => h.instr == some .nop | _ => false) = true
    ∧ (holdingInput.power = .active ∧ holdingInput.inputHeld (.linkDown, .port 0) = true
      ∧ [(Instr.logReadIndexWrite, Subject.index 1)].find? (fun e => e.1 == .logReadIndexWrite) = some (.logReadIndexWrite, .index 1))
    ∧ State.reset.inputHeld (.linkDown, .port 0) = false
    ∧ (∃ c, ({ s0 with issue := some ⟨0, 0, 3, 1⟩ } : State).sel = some c ∧ c.issue.pc.getLsbD 0 = true)
    ∧ (∀ w ∈ [nopWord, 0x00000381], let s := fetchState (fun k => { k with icache := [cachedLine w] }) w
        ∃ c, s.sel = some c ∧ c.issue.pc = BitVec.ofNat 64 placedAt ∧ (s.core c.b.core).iline? ⟨c.l.ctx, placedAt / 128⟩ s.gtime = some (cachedLine w) ∧ (cachedLine w).data.length = 128
          ∧ ((cachedLine w).data.drop (placedAt % 128)).take 4 = natBytes 4 w ∧ placedAt % 128 + 4 ≤ 128 ∧ (natBytes 4 w).length = 4
          ∧ (decode (natBytes 4 w)).isOk = (w == nopWord) ∧ (natBytes 4 w).head?.any (fun b => b.getLsbD 0 && !b.getLsbD 1) = true
          ∧ ∀ k < 2, fetchable s.dev (BitVec.ofNat 64 placedAt + BitVec.ofNat 64 (2 * k)) = true
            ∧ normEa s.dev (BitVec.ofNat 64 placedAt + BitVec.ofNat 64 (2 * k)).toNat = placedAt + 2 * k)
    ∧ (let s := fetchState id nopWord
       ∃ c, s.sel = some c ∧ (s.core c.b.core).iline? ⟨c.l.ctx, placedAt / 128⟩ s.gtime = none ∧ s.images = [] ∧ s.errors = [] ∧ (s.core c.b.core).sent = []
        ∧ s.heldRequest (reqOf c.l c.b.core) [placedAt / 128 * 128] = false
        ∧ s.answer (reqOf c.l c.b.core) .rd (placedAt / 128 * 128) 128 = .served (.hbm 0x10000) key0 8000 true true ∧ s.hbm.readBytes (0x10000 + placedAt % 128) 4 = natBytes 4 nopWord) := by
  refine ⟨⟨.nop, nop_decodes, by decide +kernel⟩, by decide +kernel, by decide +kernel, by decide +kernel, by decide +kernel, by decide +kernel, by decide +kernel, by decide +kernel, by decide +kernel, by decide +kernel,
    ⟨selOf _ (by decide +kernel), sel_selOf _ _, by decide +kernel⟩, ?_, selOf _ (by decide +kernel), sel_selOf _ _, by decide +kernel⟩
  refine forall2 ?_ ?_ <;> exact ⟨selOf _ (by decide +kernel), sel_selOf _ _, by decide +kernel⟩

/-- The longest forms, and the compact one; with bytes behind them. -/
theorem witness_DecodeAndEncodeAgree :
    (∀ i ∈ [Instr.ffma ⟨127, true, 127, 127, some { md with rnd := 5, scale := 31, abs := 7, neg := 7, clamp := true, sat := true, gneg := true, guard := 0, c := 0xFF }⟩, .movi ⟨127, -1⟩,
        .cBra ⟨-1⟩, .nop], i.wf = true ∧ (encode i).isSome = true) ∧ decode (natBytes 4 nopWord) = .ok (.nop, 4) := ⟨by decide +kernel, nop_decodes⟩

theorem plat_reset : PlatOk State.reset.toPlat where
  dies := by decide
  clocks := by decide
  cap := by decide
  pod := by decide
  counters := by decide
  ports := by decide
  targets := by decide
  indices := .nil
theorem witness_EveryStepKeepsThePlatformLegal : PlatOk State.reset.toPlat ∧ ∃ t, step State.reset = .next t := by
  refine ⟨plat_reset, ?_⟩
  have h : (match step State.reset with | .next _ => true | _ => false) = true := by decide +kernel
  cases e : step State.reset with
  | next t => exact ⟨t, rfl⟩
  | _ => rw [e] at h; cases h

/-- An issue set before an instruction of the longest form, and no issue set. -/
theorem witness_ThreadInstructionsNeverStop : (encode (.movi ⟨0, 0⟩)).isSome = true ∧ s0.sel = some c0 ∧ State.reset.sel = none ∧ encode .launchAccept = none :=
  ⟨by decide +kernel, s0_c0, by decide, by decide⟩

end Sys2Proof.Tests
end

/-! PROOF. The mask instructions (spec 03 R94, R105-R109): their values in the terms of the statement, and the end of each by the lemma about
`maskOp`, which asks only that the value written does not depend on the region entries that the boundary has just moved. -/

namespace Sys2Proof.Machine

open Sys2Proof

/-! ## The values -/

/-- A boundary that moves region entries ends no thread and revives none. -/
theorem liveLanes_setRegion (g : Group) (r : Nat → Bool) (pc : Dword) :
    Group.liveLanes { g with threads := g.threads.mapIdx fun l t => if r l then t.setRegion pc else t } = g.liveLanes := by
  unfold Group.liveLanes
  congr 2
  funext l
  rw [List.getElem?_mapIdx, Option.any_map]
  congr 1
  funext t
  by_cases h : r l = true <;> simp [h, Thread.live]

/-- Only KOP.live looks at the threads. -/
theorem kopValue_setRegion (op : Nat) (g : Group) (e a b : LaneSet) (r : Nat → Bool) (pc : Dword) :
    kopValue op { g with threads := g.threads.mapIdx fun l t => if r l then t.setRegion pc else t } e a b = kopValue op g e a b := by
  unfold kopValue
  rw [liveLanes_setRegion]

/-- The table of R107, the live lanes written out. -/
theorem kopValue_eq (op : Nat) (g : Group) (e a b : LaneSet) :
    kopValue op g e a b
      = if op = 0 then a &&& b else if op = 1 then a ||| b else if op = 2 then a ^^^ b else if op = 3 then a &&& ~~~b
        else if op = 4 then ~~~a
        else if op = 5 then laneSet ((List.range 64).filter fun l => (g.threads[l]?).any fun t => t.st != .exited)
        else e :=
  match op with
  | 0 | 1 | 2 | 3 | 4 | 5 => rfl
  | _ + 6 => rfl

/-- The lowest lane of a set is the first found in ascending order. -/
theorem head?_lanesOf (k : LaneSet) : (lanesOf k).head? = (List.range 64).find? fun l => k.getLsbD l :=
  List.head?_filter ..

theorem popCount_eq_length {w : Nat} (x : BitVec w) : popCount x = ((List.range w).filter fun l => x.getLsbD l).length :=
  List.countP_eq_length_filter

/-! ## The instructions -/

/-- A mask operation that writes one mask register, with a value that the region entries do not enter. -/
theorem maskWrite_ends {i : Instr} {s : State} {c : Sel} {d : Nat} {v : LaneSet → Group → LaneSet} (h : Issues s c i) (hl : NoLoads c i)
    (hx : exec i s = maskOp i s fun e g => g.setK d (v e g))
    (hv : ∀ e g (r : Nat → Bool), v e { g with threads := g.threads.mapIdx fun l t => if r l then t.setRegion c.issue.pc else t } = v e g) :
    BoundaryEnds i s c fun g => g.setK d (v (laneSet (c.guarded i)) g) :=
  maskOp_ends (f := fun e g => g.setK d (v e g)) h hl hx (fun e g r => by rw [hv]; rfl) fun _ _ => rfl

/-- What KMOV writes, by the three forms of R106: its B field is 0, 1 or 2. -/
def kmovWrite (o : OpR) (g : Group) : Group :=
  if o.b = 0 then g.setK o.d.toNat (g.kr o.a.toNat)
  else if o.b = 1 then g.setK o.d.toNat (g.sr (o.a.toNat + 1) ++ g.sr o.a.toNat)
  else (g.setS o.d.toNat ((g.kr o.a.toNat).setWidth 32)).setS (o.d.toNat + 1) ((g.kr o.a.toNat >>> 32).setWidth 32)

theorem exec_kmov_eq_maskOp (s : State) (o : OpR) : exec (.kmov o) s = maskOp (.kmov o) s fun _ => kmovWrite o := by
  have b_eq (n : RegNum) : o.b = n ↔ o.b.toNat = n.toNat := BitVec.toNat_inj.symm
  rw [exec_kmov, execKmov]
  congr 1
  funext _ g
  simp only [kmovWrite, b_eq]
  match o.b.toNat with
  | 0 | 1 => rfl
  | _ + 2 => rfl

theorem kmovWrite_threads (o : OpR) (g : Group) : (kmovWrite o g).threads = g.threads := by
  unfold kmovWrite
  split
  · rfl
  · split <;> rfl

/-- KMOV reads no thread. -/
theorem kmovWrite_with_threads (o : OpR) (g : Group) (ts : List Thread) :
    kmovWrite o { g with threads := ts } = { kmovWrite o g with threads := ts } := by
  unfold kmovWrite
  split
  · rfl
  · split <;> rfl

theorem kmov_ends {s : State} {c : Sel} {o : OpR} (h : Issues s c (.kmov o)) (hl : NoLoads c (.kmov o)) :
    BoundaryEnds (.kmov o) s c (kmovWrite o) :=
  maskOp_ends h hl (exec_kmov_eq_maskOp s o) (fun _ _ _ => kmovWrite_with_threads ..) fun _ => kmovWrite_threads o

theorem kop_ends {s : State} {c : Sel} {o : OpR} (h : Issues s c (.kop o)) (hl : NoLoads c (.kop o)) :
    BoundaryEnds (.kop o) s c fun g =>
      g.setK o.d.toNat (kopValue ((modsOf o.m).c.toNat % 8) g (laneSet (c.guarded (.kop o))) (g.kr o.a.toNat) (g.kr o.b.toNat)) :=
  maskWrite_ends h hl (exec_kop s o) fun _ _ _ => kopValue_setRegion ..

/-- What KPOP writes for the mask k (R108). -/
def kpopValue (b : RegNum) (k : LaneSet) : Word :=
  if b = 0 then BitVec.ofNat 32 ((List.range 64).filter fun l => k.getLsbD l).length
  else BitVec.ofNat 32 (((List.range 64).find? fun l => k.getLsbD l).getD 64)

theorem exec_kpop_eq_maskOp (s : State) (o : OpR) :
    exec (.kpop o) s = maskOp (.kpop o) s fun _ g => g.setS o.d.toNat (kpopValue o.b (g.kr o.a.toNat)) := by
  simp only [exec_kpop, execKpop, kpopValue, nat32, popCount_eq_length, head?_lanesOf, beq_iff_eq, apply_ite (BitVec.ofNat 32)]

theorem kpop_ends {s : State} {c : Sel} {o : OpR} (h : Issues s c (.kpop o)) (hl : NoLoads c (.kpop o)) :
    BoundaryEnds (.kpop o) s c fun g => g.setS o.d.toNat (kpopValue o.b (g.kr o.a.toNat)) :=
  maskOp_ends h hl (exec_kpop_eq_maskOp s o) (fun _ _ _ => rfl) fun _ _ => rfl

theorem join_ends {s : State} {c : Sel} {o : OpR} (h : Issues s c (.join o)) (hl : NoLoads c (.join o)) :
    BoundaryEnds (.join o) s c fun g => g.setK o.d.toNat (g.kr o.d.toNat ||| laneSet (c.guarded (.join o))) :=
  maskWrite_ends h hl (exec_join s o) fun _ _ _ => rfl

theorem leave_ends {s : State} {c : Sel} {o : OpR} (h : Issues s c (.leave o)) (hl : NoLoads c (.leave o)) :
    BoundaryEnds (.leave o) s c fun g => g.setK o.d.toNat (g.kr o.d.toNat &&& ~~~laneSet (c.guarded (.leave o))) :=
  maskWrite_ends h hl (exec_leave s o) fun _ _ _ => rfl

/-- Settles O18: each instruction is a mask operation, whose write does not see the boundary's own effect on the threads. -/
theorem maskInstructionsWriteTheirMask : Obligations.MaskInstructionsWriteTheirMask := by
  intro s c o
  refine ⟨fun h hl _ => kmov_ends h hl, fun h hl _ => ?_, kpop_ends, join_ends, leave_ends⟩
  simpa only [kopValue_eq] using kop_ends h hl

end Sys2Proof.Machine

/-! PROOF. Returns from handlers, last records and kills (spec 15 R454-R456). TRET and FLTRD act lane by lane. A kill takes every lane of its group or
block; what else it sets off (drains of buffers, write-backs, pages that fail, phases of barriers that end) reaches blocks and launches only in their
barrier objects and deferred images, so that the threads, the states and the statuses are those of the kill alone. -/

namespace Sys2Proof.Machine

open Sys2Proof

/-! ## Transfers of control, lane by lane -/

theorem jumpEnds_iff {i : Instr} {s : State} {c : Sel} {f : Nat → Thread → Thread} :
    JumpEnds i s c f ↔ ∃ t, exec i s = .next t ∧ OnlyThreads s t c.blk c.grp
    ∧ ∀ lane th, s.thread? c.blk c.grp lane = some th → t.thread? c.blk c.grp lane =
        some (if c.issue.lanes.getLsbD lane then (if guardOk (instrMods i) th then f lane th else th.advance (Instr.len i)) else th) := by
  unfold JumpEnds
  exact Iff.rfl

/-- A lane step outside the guard-true lanes of the set: the others of the set move on (R58). -/
theorem laneStep_unguarded {c : Sel} {i : Instr} (f : Nat → Thread → LaneOut) {lane : Nat} (h : lane ∉ c.guarded i) :
    c.laneStep i f lane (c.thread lane)
      = .done (if c.issue.lanes.getLsbD lane then (c.thread lane).advance (Instr.len i) else c.thread lane) := by
  rw [mem_guarded, not_and] at h
  unfold Sel.laneStep
  split
  · rename_i hl
    rw [if_neg (h hl)]
  · rfl

theorem laneStep_guarded {c : Sel} {i : Instr} (f : Nat → Thread → LaneOut) {lane : Nat} (h : lane ∈ c.guarded i) :
    c.laneStep i f lane (c.thread lane) = f lane (c.thread lane) := by
  obtain ⟨hl, hg⟩ := mem_guarded.mp h
  rw [Sel.laneStep, if_pos hl, if_pos hg]

/-- A transfer of control that raises nothing in the guard-true lanes of the set. -/
theorem jumpLane_ends {i : Instr} {s : State} {c : Sel} {f : Group → Nat → Thread → LaneOut} {g : Nat → Thread → Thread}
    (h : Issues s c i) (hx : exec i s = jumpLane i s f)
    (hf : ∀ lane ∈ c.guarded i, f c.g lane (c.thread lane) = .done (g lane (c.thread lane))) : JumpEnds i s c g := by
  have hfails : c.fails (c.laneStep i (f c.g)) = [] := by
    refine fails_of_done c _ fun l _ => ?_
    by_cases hl : l ∈ c.guarded i
    · rw [laneStep_guarded _ hl, hf l hl]
      rfl
    · rw [laneStep_unguarded _ hl]
      rfl
  refine jumpEnds_iff.mpr ⟨_, hx.trans (runSet_next _ h), ?_⟩
  rw [Sel.apply, hfails, raise_nil]
  refine ⟨onlyThreads_mapIdx s c.blk c.grp _, fun lane th ht => (thread?_mapIdx s c.blk c.grp _ lane).trans ?_⟩
  obtain rfl := sel_thread h.1 ht
  rw [ht, Option.map_some]
  refine congrArg some ?_
  by_cases hl : lane ∈ c.guarded i
  · obtain ⟨h1, h2⟩ := mem_guarded.mp hl
    rw [laneStep_guarded _ hl, hf lane hl, if_pos h1, if_pos h2]
    rfl
  · rw [laneStep_unguarded _ hl]
    have hn := mt mem_guarded.mpr hl
    rw [not_and] at hn
    by_cases h1 : c.issue.lanes.getLsbD lane = true
    · rw [if_pos h1, if_pos h1, if_neg (hn h1)]
      rfl
    · rw [if_neg h1, if_neg h1]
      rfl

/-- One that raises the same precise fault in every guard-true lane of the set. -/
theorem jumpLane_traps {i : Instr} {s : State} {c : Sel} {f : Group → Nat → Thread → LaneOut} {e : Fail}
    (h : Issues s c i) (hx : exec i s = jumpLane i s f) (hr : TrapReady s c (c.guarded i))
    (hf : ∀ lane ∈ c.guarded i, f c.g lane (c.thread lane) = .raise e) :
    TrapsEnd i s c (c.guarded i) e c.issue.pc true := by
  have hfails : c.fails (c.laneStep i (f c.g)) = (c.guarded i).map fun l => { lane := l, fail := e, resume := c.issue.pc } := by
    refine filterMap_if _ _ _ _ fun l hl => ?_
    have hm : l ∈ c.guarded i ↔ guardOk (instrMods i) (c.thread l) = true := mem_guarded.trans (and_iff_right (mem_lanesOf.mp hl))
    by_cases hg : guardOk (instrMods i) (c.thread l) = true
    · rw [laneStep_guarded _ (hm.mpr hg), hf l (hm.mpr hg), if_pos hg]
      rfl
    · rw [laneStep_unguarded _ (mt hm.mp hg), if_neg hg]
      rfl
  refine apply_traps (F := fun l t => (c.laneStep i (f c.g) l t).apply t) h.1 hr ?_ ?_ ?_ ?_
  · exact (List.nodup_range.filter _).filter _
  · intro l hl
    rw [laneStep_guarded _ hl, hf l hl]
    rfl
  · intro l hl th ht
    obtain rfl := sel_thread h.1 ht
    rw [laneStep_unguarded _ hl]
    rfl
  · rw [hx]
    refine (runSet_next _ h).trans ?_
    rw [Sel.apply, hfails]

/-! ## TRET and FLTRD -/

theorem tret_returns {s : State} {c : Sel} (h : Issues s c .tret) (ht : ∀ l ∈ c.guarded .tret, (c.thread l).trapped = true) :
    JumpEnds .tret s c fun _ t =>
      match t.trap with
      | some k => { t with trap := none, pc := k.resume, region := k.region, st := .runnable }
      | none => t := by
  refine jumpLane_ends h (exec_tret s) fun l hl => ?_
  obtain ⟨k, hk⟩ := Option.isSome_iff_exists.mp (ht l hl)
  simp only [Thread.leaveTrap, hk, Option.map_some]

theorem tret_traps {s : State} {c : Sel} (h : Issues s c .tret) (ht : ∀ l ∈ c.guarded .tret, (c.thread l).trapped = false)
    (hr : TrapReady s c (c.guarded .tret)) : TrapsEnd .tret s c (c.guarded .tret) ⟨0x01, 0, instrWord .tret⟩ c.issue.pc true := by
  refine jumpLane_traps h (exec_tret s) hr fun l hl => ?_
  have hn : (c.thread l).trap = none := Option.not_isSome_iff_eq_none.mp (ne_true_of_eq_false (ht l hl))
  simp only [Thread.leaveTrap, hn, Option.map_none, mkFail, nat32, cILLEGAL]
  exact congrArg (fun d => LaneOut.raise ⟨1, 0, d⟩) (BitVec.ofNat_toNat _ _)

/-- The two halves of a record, word by word (R440, R456). -/
theorem lastWords_eq (t : Thread) (hi : Bool) :
    t.lastWords hi = match t.last with
      | none => [0, 0, 0, 0]
      | some r =>
        if hi then [r.pco, r.rego, r.block, r.seql]
        else [BitVec.ofNat 32 (r.grp.toNat * 2 ^ 14 + r.lane.toNat * 2 ^ 8 + r.code.toNat), r.detail, r.addr.setWidth 32,
              (r.addr >>> 32).setWidth 32] := by
  unfold Thread.lastWords
  cases t.last with
  | none => rfl
  | some r =>
    cases hi with
    | true => rfl
    | false =>
      have low : lo32 r.low = BitVec.ofNat 32 (r.grp.toNat * 2 ^ 14 + r.lane.toNat * 2 ^ 8 + r.code.toNat) := by
        simp only [lo32, FaultRec.low, concat, BitVec.setWidth_append_eq_right, nat32]
      exact congrArg (fun w => [w, r.detail, lo32 r.addr, hi32 r.addr]) low

theorem fltrd_ends {s : State} {c : Sel} {o : OpR} (h : Issues s c (.fltrd o)) :
    LanesEnd (.fltrd o) s c fun _ t => t.setList o.d.toNat (t.lastWords (o.a.getLsbD 0)) :=
  pureLane_ends (fun _ _ t => t.setList o.d.toNat (t.lastWords (o.a.getLsbD 0))) h (exec_fltrd s o)

/-! ## What a drain leaves: the roster -/

/-- A block but for its barrier objects and the images deferred in it. -/
def Block.bare (b : Block) : Block := { b with bars := [], images := [] }
/-- A launch but for its barrier objects. -/
def Launch.bare (l : Launch) : Launch := { l with bars := [] }
/-- The blocks and launches of the package but for their barrier objects and deferred images: what no drain, no write at a home and no end of a
barrier's phase changes. -/
def State.roster (s : State) : List Block × List Launch := (s.blocks.map Block.bare, s.launches.map Launch.bare)

theorem roster_foldl {α : Type} (f : State → α → State) (h : ∀ s x, (f s x).roster = s.roster) :
    ∀ (l : List α) (s : State), (l.foldl f s).roster = s.roster
  | [], _ => rfl
  | x :: r, s => (roster_foldl f h r (f s x)).trans (h s x)

theorem countArmed_roster (s : State) (ctx line n : Nat) : (s.countArmed ctx line n).roster = s.roster := rfl

theorem log_roster (s : State) (ty : BitVec 8) (p q : Nat) (x : Word) (y : Dword) : (s.log ty p q x y).roster = s.roster := by
  rw [State.roster, log_blocks, (log_onlyLog s ty p q x y).launches]
  rfl
theorem chargeTo_roster (s : State) (p : Option Nat) (k n : Nat) : (s.chargeTo p k n).roster = s.roster := by
  cases p <;> rfl
theorem accessHbm_roster (s : State) (p : Option Nat) (a n : Nat) : (s.accessHbm p a n).roster = s.roster := by
  cases p <;> rfl
theorem frameFabric_roster (s : State) (p : Option Nat) (die a n : Nat) : (s.frameFabric p die a n).roster = s.roster := by
  unfold State.frameFabric
  split
  · rfl
  · exact chargeTo_roster ..
theorem countFabric_roster (s : State) (r : Req) (ea : Nat) (p : Place) (n : Nat) : (s.countFabric r ea p n).roster = s.roster := by
  unfold State.countFabric
  split
  · split <;> rfl
  · rfl

/-! ### Pages -/

theorem changeEntry_roster (s : State) (k : EntryKey) (f : Entry → Entry) : (s.changeEntry k f).roster = s.roster := by
  unfold State.changeEntry
  dsimp only
  split <;> rfl
theorem failEntry_roster (s : State) (e : Entry) : (s.failEntry e).roster = s.roster := by
  unfold State.failEntry
  dsimp only
  split <;> simp only [changeEntry_roster, log_roster]
theorem failPage_roster (s : State) (ctx ea : Nat) : (s.failPage ctx ea).roster = s.roster := by
  unfold State.failPage
  split
  · exact failEntry_roster ..
  · rfl
theorem failFrame_roster (s : State) (a : Nat) : (s.failFrame a).roster = s.roster := by
  unfold State.failFrame
  dsimp only
  split
  · exact failEntry_roster ..
  · rfl

/-! ### Homes and images -/

theorem l2Room_roster (p : Option Nat) (die slice n : Nat) : ∀ (fuel : Nat) (s : State), (State.l2Room fuel p die slice n s).roster = s.roster
  | 0, s => by rw [State.l2Room]
  | fuel + 1, s => by
    rw [State.l2Room]
    dsimp only
    split
    · rfl
    · split
      · rfl
      · rw [l2Room_roster p die slice n fuel]
        split
        · split
          · rfl
          · split
            · exact failFrame_roster ..
            · exact (frameFabric_roster ..).trans (accessHbm_roster ..)
        · rfl
theorem l2Use_roster (s : State) (p : Option Nat) (ea : Nat) (x : Place) (w : Bool) : (s.l2Use p ea x w).roster = s.roster := by
  unfold State.l2Use
  split
  · split
    · split <;> rfl
    · exact ((frameFabric_roster ..).trans (accessHbm_roster ..)).trans (l2Room_roster ..)
  · rfl
theorem placeWrite_roster (s : State) (p : Place) (bs : List Byte) : (s.placeWrite p bs).roster = s.roster := by
  cases p <;> rfl
theorem placeMerge_roster (s : State) (p : Place) (bs : List (Nat × Byte)) : (s.placeMerge p bs).roster = s.roster :=
  roster_foldl _ (fun _ _ => placeWrite_roster ..) bs s
theorem spillTraffic_roster (s : State) (p : Option Nat) (die n : Nat) : (s.spillTraffic p die n).roster = s.roster :=
  accessHbm_roster ..
theorem makeSlots_roster (p : Option Nat) (die slice n : Nat) : ∀ (fuel : Nat) (s : State),
    (State.makeSlots fuel p die slice n s).roster = s.roster
  | 0, s => by rw [State.makeSlots]
  | fuel + 1, s => by
    rw [State.makeSlots]
    split
    · rfl
    · split
      · rfl
      · exact (makeSlots_roster p die slice n fuel _).trans (spillTraffic_roster ..)
theorem takeSlots_roster (s : State) (p : Option Nat) (line n : Nat) : (s.takeSlots p line n).roster = s.roster :=
  (chargeTo_roster ..).trans ((l2Room_roster ..).trans (makeSlots_roster ..))
theorem reloadImage_roster (s : State) (p : Option Nat) (x : Place) : (s.reloadImage p x).roster = s.roster := by
  unfold State.reloadImage
  split
  · rfl
  · exact (spillTraffic_roster ..).trans (takeSlots_roster ..)
theorem resolveLine_roster (s : State) (p : Option Nat) (x : Place) : (s.resolveLine p x).roster = s.roster := by
  unfold State.resolveLine
  dsimp only
  split
  · exact reloadImage_roster ..
  · exact ((placeMerge_roster ..).trans (l2Use_roster ..)).trans (reloadImage_roster ..)
theorem homeWrite_roster (s : State) (r : Req) (ea : Nat) (p : Place) (bs : List (Nat × Byte)) : (s.homeWrite r ea p bs).roster = s.roster := by
  unfold State.homeWrite
  split
  · rfl
  · exact (placeMerge_roster ..).trans ((countFabric_roster ..).trans ((l2Use_roster ..).trans (resolveLine_roster ..)))
theorem addImage_roster (s : State) (p : Nat) (im : Image) : (s.addImage p im).roster = s.roster := by
  unfold State.addImage
  extract_lets ready fresh slotted added
  have hr : ready.roster = s.roster := by
    dsimp only [ready]
    split
    · split
      · exact reloadImage_roster ..
      · exact resolveLine_roster ..
    · rfl
  have ha : added.roster = ready.roster := by
    dsimp only [added]
    split
    · exact (l2Use_roster ..).trans (takeSlots_roster ..)
    · rfl
  exact (countArmed_roster ..).trans (ha.trans hr)

/-! ### What a core sends -/

theorem performOne_roster (s : State) (core : Nat) (x : Sent) : (s.performOne core x).roster = s.roster := by
  unfold State.performOne
  split
  · exact failPage_roster ..
  · exact homeWrite_roster ..
theorem performSent_roster (s : State) (core n : Nat) : (s.performSent core n).roster = s.roster :=
  roster_foldl _ (fun _ _ => performOne_roster ..) _ _
theorem performFor_roster (s : State) (core : Nat) (k : LineKey) (w : Bool) : (s.performFor core k w).roster = s.roster :=
  performSent_roster ..
theorem sendLine_roster (s : State) (core : Nat) (r : Req) (k : LineKey) : (s.sendLine core r k).roster = s.roster := by
  unfold State.sendLine
  split
  · rfl
  · split <;> rfl
theorem sendLines_roster (s : State) (core : Nat) (r : Req) (p : LineKey → Bool) : (s.sendLines core r p).roster = s.roster :=
  roster_foldl _ (fun _ _ => sendLine_roster ..) _ _
theorem settleCore_roster (s : State) (core : Nat) (r : Req) : (s.settleCore core r).roster = s.roster :=
  (performSent_roster ..).trans (sendLines_roster ..)
theorem yieldLine_roster (s : State) (core : Nat) (r : Req) (k : LineKey) : (s.yieldLine core r k).roster = s.roster :=
  (performFor_roster ..).trans (sendLine_roster ..)
theorem sendImage_roster (s : State) (core p : Nat) (im : Image) : (s.sendImage core p im).roster = s.roster :=
  (addImage_roster ..).trans ((countFabric_roster ..).trans (yieldLine_roster ..))
theorem drainEntry_roster (s : State) (core p : Nat) (e : BufferEntry) :
    (s.drainEntry State.failBuffered core p e).roster = s.roster := by
  unfold State.drainEntry
  split
  · exact failPage_roster ..
  · exact sendImage_roster ..

/-! ### Blocks and launches -/

/-- A change of one block that its bare form does not show. -/
theorem updBlock_roster (s : State) (n : Nat) (f : Block → Block) (h : ∀ b, (f b).bare = b.bare) : (s.updBlock n f).roster = s.roster := by
  refine congrArg (·, s.launches.map Launch.bare) ((List.map_map ..).trans (List.map_congr_left fun b _ => ?_))
  rw [Function.comp]
  split
  · exact h b
  · rfl
theorem updLaunch_roster (s : State) (n : Nat) (f : Launch → Launch) (h : ∀ l, (f l).bare = l.bare) : (s.updLaunch n f).roster = s.roster := by
  refine congrArg (s.blocks.map Block.bare, ·) ((List.map_map ..).trans (List.map_congr_left fun l _ => ?_))
  rw [Function.comp]
  split
  · exact h l
  · rfl

theorem drainWith_roster (s : State) (core p blk : Nat) : (s.drainWith State.failBuffered core p blk).roster = s.roster := by
  have drained (l : List BufferEntry) (t : State) : (l.foldl (fun s e => s.drainEntry State.failBuffered core p e) t).roster = t.roster :=
    roster_foldl _ (fun _ _ => drainEntry_roster ..) l t
  unfold State.drainWith
  dsimp only
  split
  · split
    · exact updBlock_roster _ _ _ fun _ => rfl
    · exact drained ..
  · exact drained ..
theorem releaseLast_roster (s : State) (core blk : Nat) (r : Req) : (s.releaseLast core blk r).roster = s.roster := by
  refine (settleCore_roster ..).trans ?_
  unfold State.releaseWith
  rw [if_neg (by decide)]
  exact (performSent_roster ..).trans ((sendLines_roster ..).trans (drainWith_roster ..))
theorem placeOne_roster (s : State) (p : Nat) : (s.placeOne p).roster = s.roster := by
  unfold State.placeOne
  split
  · rfl
  · dsimp only
    split <;> rfl
theorem placeStores_roster (s : State) (p : Nat) (es : List Store) : (s.placeStores p es).roster = s.roster :=
  roster_foldl _ (fun _ _ => roster_foldl _ (fun _ _ => placeOne_roster ..) _ _) _ _

/-! ### The end of a group at its barriers (R385) -/

theorem setBar_roster (s : State) (blk : Nat) (x : Barrier) : (s.setBar blk x).roster = s.roster := by
  unfold State.setBar
  split
  · rfl
  · split
    · exact updBlock_roster _ _ _ fun _ => rfl
    · split
      · rfl
      · exact updLaunch_roster _ _ _ fun _ => rfl
theorem testBar_roster (s : State) (blk scope num : Nat) : (s.testBar blk scope num).roster = s.roster := by
  unfold State.testBar
  split
  · rfl
  · split
    · refine (setBar_roster ..).trans (roster_foldl _ (fun s id => ?_) _ _)
      split
      · split
        · exact drainWith_roster ..
        · rfl
      · rfl
    · rfl
theorem endAt_roster (s : State) (blk grp : Nat) (x : Nat × Nat) : (State.endAt blk grp s x).roster = s.roster := by
  unfold State.endAt
  split
  · split
    · exact setBar_roster ..
    · exact (testBar_roster ..).trans (setBar_roster ..)
  · rfl
theorem endGroup_roster (s : State) (blk grp : Nat) : (s.endGroup blk grp).roster = s.roster := by
  unfold State.endGroup
  split
  · rfl
  · exact roster_foldl _ (fun _ _ => endAt_roster ..) _ _

/-! ## What states of one roster share -/

theorem find?_map_bare {α : Type} (bare : α → α) (id : α → Nat) (hid : ∀ x, id (bare x) = id x) (l : List α) (n : Nat) :
    (l.map bare).find? (fun x => id x == n) = (l.find? fun x => id x == n).map bare := by
  rw [List.find?_map]
  congr 2
  funext x
  rw [Function.comp, hid]
theorem block?_of_roster {s t : State} (h : t.roster = s.roster) (n : Nat) : (t.block? n).map Block.bare = (s.block? n).map Block.bare := by
  unfold State.block?
  rw [← find?_map_bare Block.bare Block.id (fun _ => rfl), ← find?_map_bare Block.bare Block.id (fun _ => rfl)]
  exact congrArg (fun r : List Block × List Launch => r.1.find? _) h
theorem launch?_of_roster {s t : State} (h : t.roster = s.roster) (n : Nat) :
    (t.launch? n).map Launch.bare = (s.launch? n).map Launch.bare := by
  unfold State.launch?
  rw [← find?_map_bare Launch.bare Launch.id (fun _ => rfl), ← find?_map_bare Launch.bare Launch.id (fun _ => rfl)]
  exact congrArg (fun r : List Block × List Launch => r.2.find? _) h
theorem group?_eq_bare (s : State) (blk grp : Nat) : s.group? blk grp = ((s.block? blk).map Block.bare).bind fun b => b.groups[grp]? := by
  unfold State.group?
  cases s.block? blk <;> rfl
theorem group?_of_roster {s t : State} (h : t.roster = s.roster) (blk grp : Nat) : t.group? blk grp = s.group? blk grp := by
  rw [group?_eq_bare, block?_of_roster h, ← group?_eq_bare]

/-! ## Lanes that leave (R86, R117, R385) -/

/-- What leaving does to the group itself: a group whose last thread goes gives up its arrival. -/
def Group.left (g : Group) (m : LaneSet) : Group :=
  let g := (g.dropLanes m).closeWaits
  if g.ended then { g with arrival := none } else g

theorem Group.left_threads (g : Group) (m : LaneSet) :
    (g.left m).threads = g.threads.mapIdx fun i t => if m.getLsbD i then t.leave else t := by
  unfold Group.left
  dsimp only
  split <;> rfl

/-- What lanes leave behind differs from the package with its group changed only in barrier objects and images. -/
theorem leaveLanes_roster (s : State) (blk grp : Nat) (m : LaneSet) :
    (s.leaveLanes blk grp m).roster = (s.updGroup blk grp fun g => g.left m).roster := by
  unfold State.leaveLanes
  extract_lets was clear gone doomed
  split
  · split
    · exact endGroup_roster ..
    · rfl
  · rfl

/-- A block but for its groups, too. -/
def Block.shell (b : Block) : Block := { b.bare with groups := [] }

theorem shell_of_roster {s t : State} (h : t.roster = s.roster) (n : Nat) : (t.block? n).map Block.shell = (s.block? n).map Block.shell := by
  have two : Block.shell = Block.shell ∘ Block.bare := rfl
  rw [two, ← Option.map_map, ← Option.map_map, block?_of_roster h]

theorem leaveLanes_group (s : State) (blk grp : Nat) (m : LaneSet) (b g : Nat) :
    (s.leaveLanes blk grp m).group? b g = if b = blk ∧ g = grp then (s.group? b g).map (·.left m) else s.group? b g :=
  (group?_of_roster (leaveLanes_roster s blk grp m) b g).trans (group?_updGroup ..)
theorem leaveLanes_shell (s : State) (blk grp : Nat) (m : LaneSet) (n : Nat) :
    ((s.leaveLanes blk grp m).block? n).map Block.shell = (s.block? n).map Block.shell := by
  rw [shell_of_roster (leaveLanes_roster s blk grp m), block?_updGroup, Option.map_map]
  refine congrArg (Option.map · _) (funext fun b => ?_)
  rw [Function.comp]
  split <;> rfl
theorem leaveLanes_launch (s : State) (blk grp : Nat) (m : LaneSet) (n : Nat) :
    ((s.leaveLanes blk grp m).launch? n).map Launch.bare = (s.launch? n).map Launch.bare :=
  launch?_of_roster (leaveLanes_roster s blk grp m) n

/-- Every lane of the first n groups of a block leaves. -/
def State.leaveGroups (s : State) (blk n : Nat) : State := (List.range n).foldl (fun s g => s.leaveLanes blk g (BitVec.allOnes 64)) s

theorem leaveGroups_succ (s : State) (blk n : Nat) :
    s.leaveGroups blk (n + 1) = (s.leaveGroups blk n).leaveLanes blk n (BitVec.allOnes 64) := by
  simp only [State.leaveGroups, List.range_succ, List.foldl_append, List.foldl_cons, List.foldl_nil]

theorem leaveGroups_group (s : State) (blk g : Nat) : ∀ n, (s.leaveGroups blk n).group? blk g
    = if g < n then (s.group? blk g).map (·.left (BitVec.allOnes 64)) else s.group? blk g
  | 0 => rfl
  | n + 1 => by
    rw [leaveGroups_succ, leaveLanes_group, leaveGroups_group s blk g n]
    rcases Nat.lt_trichotomy g n with h | h | h
    · rw [if_neg (fun e => Nat.ne_of_lt h e.2), if_pos h, if_pos (Nat.lt_succ_of_lt h)]
    · rw [h, if_pos ⟨rfl, rfl⟩, if_neg (Nat.lt_irrefl n), if_pos (Nat.lt_succ_self n)]
    · rw [if_neg (fun e => Nat.ne_of_gt h e.2), if_neg (Nat.not_lt_of_gt h), if_neg (Nat.not_lt_of_le h)]
theorem leaveGroups_shell (s : State) (blk m : Nat) : ∀ n, ((s.leaveGroups blk n).block? m).map Block.shell = (s.block? m).map Block.shell
  | 0 => rfl
  | n + 1 => by rw [leaveGroups_succ, leaveLanes_shell, leaveGroups_shell s blk m n]
theorem leaveGroups_launch (s : State) (blk m : Nat) : ∀ n, ((s.leaveGroups blk n).launch? m).map Launch.bare = (s.launch? m).map Launch.bare
  | 0 => rfl
  | n + 1 => by rw [leaveGroups_succ, leaveLanes_launch, leaveGroups_launch s blk m n]

/-- In a group that every lane has left, each of the 64 threads has exited, with its registers as they were. -/
theorem left_thread {g : Group} {lane : Nat} {th : Thread} (hl : lane < 64) (h : g.threads[lane]? = some th) :
    (g.left (BitVec.allOnes 64)).threads[lane]? = some th.leave := by
  rw [Group.left_threads, List.getElem?_mapIdx, h, Option.map_some, BitVec.getLsbD_allOnes, decide_eq_true hl, if_pos rfl]
theorem left_exited {g : Group} {th : Thread} (h : th ∈ (g.left (BitVec.allOnes 64)).threads.take 64) : th.st = .exited := by
  obtain ⟨lane, e⟩ := List.mem_iff_getElem?.mp h
  rw [List.getElem?_take, Option.ite_none_right_eq_some] at e
  obtain ⟨hl, e⟩ := e
  obtain ⟨old, ho⟩ : ∃ old, g.threads[lane]? = some old := by
    rw [Group.left_threads, List.getElem?_mapIdx, Option.map_eq_some_iff] at e
    exact e.imp fun _ => And.left
  rw [left_thread hl ho] at e
  exact Option.some.inj e ▸ rfl

/-! ## The end of a block (R455) -/

theorem find?_map_update {α : Type} (id : α → Nat) (f : α → α) (hf : ∀ x, id (f x) = id x) (n m : Nat) (l : List α) :
    (l.map fun x => if id x == n then f x else x).find? (fun x => id x == m)
      = (l.find? fun x => id x == m).map fun x => if id x == n then f x else x := by
  refine (List.find?_map ..).trans (congrArg (fun p => Option.map _ (l.find? p)) (funext fun x => ?_))
  rw [Function.comp]
  split
  · rw [hf]
  · rfl
theorem launch?_updLaunch (s : State) (n m : Nat) (f : Launch → Launch) (hf : ∀ l, (f l).id = l.id) :
    (s.updLaunch n f).launch? m = (s.launch? m).map fun l => if l.id == n then f l else l :=
  find?_map_update Launch.id f hf n m s.launches
theorem launch?_id {s : State} {n : Nat} {l : Launch} (h : s.launch? n = some l) : l.id = n :=
  beq_iff_eq.mp (List.find?_some (p := fun l : Launch => l.id == n) h)
theorem launch?_updLaunch_self {s : State} {n : Nat} {l : Launch} (f : Launch → Launch) (hf : ∀ l, (f l).id = l.id) (h : s.launch? n = some l) :
    (s.updLaunch n f).launch? n = some (f l) := by
  rw [launch?_updLaunch s n n f hf, h, Option.map_some, launch?_id h, if_pos (beq_self_eq_true n)]

theorem returnWeight_launch {s : State} {n : Nat} {l : Launch} (id k : Nat) (h : s.launch? n = some l) :
    ∃ r, (s.returnWeight id k).launch? n = some { l with returned := r } := by
  unfold State.returnWeight
  split
  · exact ⟨_, h⟩
  · rename_i top _
    rw [launch?_updLaunch s top.root n (fun r => { r with returned := r.returned + k }) fun _ => rfl, h, Option.map_some]
    split
    · exact ⟨_, rfl⟩
    · exact ⟨_, rfl⟩
theorem returnWeight_blocks (s : State) (id k : Nat) : (s.returnWeight id k).blocks = s.blocks := by
  unfold State.returnWeight
  split <;> rfl

theorem passTicket_id (l : Launch) (b : Nat) (void : Bool) : (l.passTicket b void).id = l.id := by
  unfold Launch.passTicket
  split <;> rfl
theorem passTicket_status (l : Launch) (b : Nat) (void : Bool) : (l.passTicket b void).status = l.status := by
  unfold Launch.passTicket
  split <;> rfl
/-- A passed ticket is among those passed (R390). -/
theorem mem_passTicket (l : Launch) (b : Nat) (void : Bool) : b ∈ (l.passTicket b void).passed.map Prod.fst := by
  unfold Launch.passTicket
  split
  · rename_i h
    obtain ⟨p, hp, e⟩ := List.any_eq_true.mp h
    exact List.mem_map.mpr ⟨p, hp, beq_iff_eq.mp e⟩
  · exact List.mem_map.mpr ⟨(b, void), List.mem_append_right _ (List.mem_singleton_self _), rfl⟩

/-- What is left of a killed block beside its groups. -/
def Block.killed (b : Block) : Block :=
  { b with st := .killed, weight := 0, deferred := [], images := [], drawn := 0, shadow := [], granules := none, savedStores := [], doomed := none }

/-- R455's list once every lane has left and the engine operations and store-fault entries are gone: the ticket passes void, the weight returns,
the status is KILLED. -/
def State.buryBlock (s : State) (blk : Nat) (b : Block) (l : Launch) : State :=
  (((s.updLaunch l.id fun l => l.passTicket b.blkidx true).returnWeight l.id b.weight).raiseStatus l.id 7).updBlock blk Block.killed

theorem buryBlock_block (s : State) (blk : Nat) (b : Block) (l : Launch) : (s.buryBlock blk b l).block? blk = (s.block? blk).map Block.killed := by
  unfold State.buryBlock
  rw [block?_updBlock _ blk Block.killed fun _ => rfl]
  unfold State.block? State.raiseStatus
  rw [State.updLaunch_blocks, returnWeight_blocks, State.updLaunch_blocks]
  refine Option.map_congr fun x hx => ?_
  rw [if_pos (List.find?_some hx)]
theorem buryBlock_group (s : State) (blk : Nat) (b : Block) (l : Launch) (g : Nat) : (s.buryBlock blk b l).group? blk g = s.group? blk g := by
  unfold State.group?
  rw [buryBlock_block]
  cases s.block? blk <;> rfl
theorem buryBlock_launch {s : State} (blk : Nat) (b : Block) {l k : Launch} (h : s.launch? l.id = some k) :
    ∃ k', (s.buryBlock blk b l).launch? l.id = some k' ∧ k'.status = max k.status 7 ∧ b.blkidx ∈ k'.passed.map Prod.fst := by
  obtain ⟨r, hr⟩ := returnWeight_launch l.id b.weight
    (launch?_updLaunch_self (fun l => l.passTicket b.blkidx true) (fun _ => passTicket_id ..) h)
  exact ⟨_, launch?_updLaunch_self _ (fun _ => rfl) hr, congrArg (max · 7) (passTicket_status ..), mem_passTicket ..⟩

/-- Only a block that goes on is killed. -/
theorem killBlock_over {s : State} {blk : Nat}
    (h : ¬∃ b l, s.block? blk = some b ∧ s.launch? b.launch = some l ∧ ¬(b.st = .ended ∨ b.st = .killed)) : s.killBlock blk = s := by
  unfold State.killBlock
  split
  · rfl
  · rename_i b hb
    split
    · rfl
    · rename_i hst
      split
      · rfl
      · rename_i l hl
        rw [Bool.or_eq_true, beq_iff_eq, beq_iff_eq] at hst
        exact absurd ⟨b, l, hb, hl, hst⟩ h
/-- The block of an attempt that has tripped loses its lanes, and its abort goes on (R353). -/
theorem killBlock_doomed {s : State} {blk : Nat} {b : Block} {l : Launch} (hb : s.block? blk = some b) (hl : s.launch? b.launch = some l)
    (hs : ¬(b.st = .ended ∨ b.st = .killed)) (hd : (b.doomed.isSome && b.onCore) = true) :
    s.killBlock blk = s.leaveGroups blk b.groups.length := by
  have hst : (b.st == .ended || b.st == .killed) = false := by
    rwa [Bool.or_eq_false_iff, beq_eq_false_iff_ne, beq_eq_false_iff_ne, ← not_or]
  simp only [State.killBlock, hb, hl, hst, hd, State.leaveGroups, Bool.false_eq_true, if_false, if_true]
/-- Every other block is killed (R455). -/
theorem killBlock_kills {s : State} {blk : Nat} {b : Block} {l : Launch} (hb : s.block? blk = some b) (hl : s.launch? b.launch = some l)
    (hs : ¬(b.st = .ended ∨ b.st = .killed)) (hd : (b.doomed.isSome && b.onCore) = false) :
    ∃ u v : State, u.roster = s.roster ∧ v.roster = (u.leaveGroups blk b.groups.length).roster ∧ s.killBlock blk = v.buryBlock blk b l := by
  have hst : (b.st == .ended || b.st == .killed) = false := by
    rwa [Bool.or_eq_false_iff, beq_eq_false_iff_ne, beq_eq_false_iff_ne, ← not_or]
  let u := if b.onCore then s.releaseLast b.core blk (reqOf l b.core) else s
  refine ⟨u, ((u.leaveGroups blk b.groups.length).cancelOps b false).placeStores l.part b.savedStores, ?_, placeStores_roster .., ?_⟩
  · dsimp only [u]
    split
    · exact releaseLast_roster ..
    · rfl
  · simp only [State.killBlock, hb, hl, hst, hd, Bool.false_eq_true, if_false]
    rfl

/-- Every lane of a killed block has left its group. -/
theorem killBlock_left {s : State} {blk : Nat} {b : Block} {l : Launch} (hb : s.block? blk = some b) (hl : s.launch? b.launch = some l)
    (hs : ¬(b.st = .ended ∨ b.st = .killed)) (g : Nat) :
    (s.killBlock blk).group? blk g = (s.group? blk g).map (·.left (BitVec.allOnes 64)) := by
  have all (u : State) (hu : u.roster = s.roster) :
      (u.leaveGroups blk b.groups.length).group? blk g = (s.group? blk g).map (·.left (BitVec.allOnes 64)) := by
    have hg : s.group? blk g = b.groups[g]? := by rw [State.group?, hb, Option.bind_some]
    rw [leaveGroups_group, group?_of_roster hu, hg]
    split
    · rfl
    · rename_i h
      rw [List.getElem?_eq_none (Nat.le_of_not_lt h), Option.map_none]
  cases hd : b.doomed.isSome && b.onCore with
  | true => rw [killBlock_doomed hb hl hs hd, all s rfl]
  | false =>
    obtain ⟨u, v, hu, hv, e⟩ := killBlock_kills hb hl hs hd
    rw [e, buryBlock_group, group?_of_roster hv, all u hu]

/-- Whatever becomes of its block, a group stays as it is or is left by every lane. -/
theorem killBlock_group (s : State) (blk g : Nat) : (s.killBlock blk).group? blk g = s.group? blk g
    ∨ (s.killBlock blk).group? blk g = (s.group? blk g).map (·.left (BitVec.allOnes 64)) := by
  by_cases h : ∃ b l, s.block? blk = some b ∧ s.launch? b.launch = some l ∧ ¬(b.st = .ended ∨ b.st = .killed)
  · obtain ⟨b, l, hb, hl, hs⟩ := h
    exact .inr (killBlock_left hb hl hs g)
  · rw [killBlock_over h]
    exact .inl rfl

/-! ## KILLG -/

/-- While another group lives, nothing but the killed group's lanes leaves (R455). -/
theorem killGroup_alive {s : State} {blk grp : Nat} {b : Block} {g : Group} {n : Nat} (hb : s.block? blk = some b) (hg : b.groups[n]? = some g)
    (hn : n ≠ grp) (he : g.ended = false) : s.killGroup blk grp = s.leaveLanes blk grp (BitVec.allOnes 64) := by
  have kept : (s.leaveLanes blk grp (BitVec.allOnes 64)).group? blk n = some g := by
    rw [leaveLanes_group, if_neg (fun h => hn h.2), State.group?, hb, Option.bind_some, hg]
  unfold State.killGroup
  dsimp only
  split
  · rename_i b' hb'
    rw [State.group?, hb', Option.bind_some] at kept
    have alive : b'.allEnded = false := List.all_eq_false.mpr ⟨g, List.mem_of_getElem? kept, by rw [he]; exact Bool.false_ne_true⟩
    rw [alive, if_neg Bool.false_ne_true]
  · rfl

/-- The killed group is left by every lane, once or, where its block is killed with it, twice. -/
theorem killGroup_left (s : State) (blk grp : Nat) : (s.killGroup blk grp).group? blk grp = (s.group? blk grp).map (·.left (BitVec.allOnes 64))
    ∨ (s.killGroup blk grp).group? blk grp = ((s.group? blk grp).map (·.left (BitVec.allOnes 64))).map (·.left (BitVec.allOnes 64)) := by
  have first : (s.leaveLanes blk grp (BitVec.allOnes 64)).group? blk grp = (s.group? blk grp).map (·.left (BitVec.allOnes 64)) := by
    rw [leaveLanes_group, if_pos ⟨rfl, rfl⟩]
  rw [← first]
  unfold State.killGroup
  dsimp only
  split
  · split
    · exact killBlock_group ..
    · exact .inl rfl
  · exact .inl rfl

theorem killGroup_thread {s : State} {blk grp lane : Nat} {th : Thread} (hl : lane < 64) (h : s.thread? blk grp lane = some th) :
    ∃ th', (s.killGroup blk grp).thread? blk grp lane = some th' ∧ th'.st = .exited ∧ th'.v = th.v := by
  obtain ⟨g, hg, ht⟩ := Option.bind_eq_some_iff.mp h
  unfold State.thread?
  rcases killGroup_left s blk grp with e | e
  · rw [e, hg]
    exact ⟨_, left_thread hl ht, rfl, rfl⟩
  · rw [e, hg]
    exact ⟨_, left_thread hl (left_thread hl ht), rfl, rfl⟩

theorem killg_next {s : State} {c : Sel} {o : OpZ} (h : Issues s c (.killg o)) (hg : c.guarded (.killg o) ≠ []) :
    exec (.killg o) s = .next { s.killGroup c.blk c.grp with toPlat := s.toPlat } := by
  rw [exec_killg, execKillg, runSet_next _ h, if_neg (mt List.isEmpty_iff.mp hg)]

theorem killg_ends {s : State} {c : Sel} {o : OpZ} (h : Issues s c (.killg o)) (hg : c.guarded (.killg o) ≠ []) :
    ∃ t, exec (.killg o) s = .next t
      ∧ (∀ lane < 64, ∀ th, s.thread? c.blk c.grp lane = some th →
          ∃ th', t.thread? c.blk c.grp lane = some th' ∧ th'.st = .exited ∧ th'.v = th.v)
      ∧ ((∃ g ∈ c.b.groups.zipIdx, g.2 ≠ c.grp ∧ g.1.ended = false) → ∀ g, g ≠ c.grp → t.group? c.blk g = s.group? c.blk g) := by
  refine ⟨_, killg_next h hg, fun _ hl _ ht => killGroup_thread hl ht, fun ⟨x, hx, hn, he⟩ g hne => ?_⟩
  have kept : (s.killGroup c.blk c.grp).group? c.blk g = s.group? c.blk g := by
    rw [killGroup_alive (sel_parts h.1).2.1 (List.mem_zipIdx_iff_getElem?.mp hx) hn he, leaveLanes_group, if_neg fun e => hne e.2]
  exact kept

/-! ## KILLB -/

/-- Leaving the groups of a block takes neither its state nor its weight nor its launch's status. -/
theorem leaveGroups_keeps {s u : State} {blk : Nat} {b : Block} {l : Launch} (hu : u.roster = s.roster) (hb : s.block? blk = some b)
    (hl : s.launch? b.launch = some l) (n : Nat) : ∃ b' l', (u.leaveGroups blk n).block? blk = some b'
      ∧ (u.leaveGroups blk n).launch? b.launch = some l' ∧ b'.st = b.st ∧ b'.weight = b.weight ∧ l'.status = l.status := by
  have eb := (leaveGroups_shell u blk blk n).trans (shell_of_roster hu blk)
  have el := (leaveGroups_launch u blk b.launch n).trans (launch?_of_roster hu b.launch)
  rw [hb, Option.map_some, Option.map_eq_some_iff] at eb
  rw [hl, Option.map_some, Option.map_eq_some_iff] at el
  obtain ⟨b', hb', eb⟩ := eb
  obtain ⟨l', hl', el⟩ := el
  exact ⟨b', l', hb', hl', (congrArg Block.st eb :), (congrArg Block.weight eb :), (congrArg Launch.status el :)⟩

/-- The fate of a resident block that is killed: it is KILLED, and its launch with it, unless its attempt has tripped already (R353, R455). -/
theorem killBlock_fate {s : State} {blk : Nat} {b : Block} {l : Launch} (hb : s.block? blk = some b) (hl : s.launch? b.launch = some l)
    (hs : b.st = .resident) : ∃ b' l', (s.killBlock blk).block? blk = some b' ∧ (s.killBlock blk).launch? b.launch = some l'
      ∧ (b.doomed = none → b'.st = .killed ∧ b'.weight = 0 ∧ l'.status = max l.status 7 ∧ b.blkidx ∈ l'.passed.map Prod.fst)
      ∧ (b.doomed ≠ none → b'.st = .resident ∧ b'.weight = b.weight ∧ l'.status = l.status) := by
  have goes : ¬(b.st = .ended ∨ b.st = .killed) := by simp only [hs, reduceCtorEq, or_self, not_false_eq_true]
  cases hd : b.doomed with
  | some cause =>
    have on : b.onCore = true := by rw [Block.onCore, hs]; rfl
    rw [killBlock_doomed hb hl goes (by rw [hd, on]; rfl)]
    obtain ⟨b', l', hb', hl', st, kept⟩ := leaveGroups_keeps rfl hb hl b.groups.length
    exact ⟨b', l', hb', hl', fun h => absurd h (Option.some_ne_none cause), fun _ => ⟨st.trans hs, kept⟩⟩
  | none =>
    obtain ⟨u, v, hu, hv, e⟩ := killBlock_kills hb hl goes (by rw [hd]; rfl)
    obtain ⟨b', l', hb', hl', -, -, same⟩ := leaveGroups_keeps hu hb hl b.groups.length
    have fb := shell_of_roster hv blk
    have fl := launch?_of_roster hv b.launch
    rw [hb', Option.map_some, Option.map_eq_some_iff] at fb
    rw [hl', Option.map_some, Option.map_eq_some_iff, ← launch?_id hl] at fl
    obtain ⟨bv, hbv, -⟩ := fb
    obtain ⟨lv, hlv, flv⟩ := fl
    obtain ⟨k, hk, status, passed⟩ := buryBlock_launch blk b hlv
    have sv : lv.status = l.status := (congrArg Launch.status flv :).trans same
    rw [launch?_id hl] at hk
    rw [e]
    refine ⟨bv.killed, k, by rw [buryBlock_block, hbv, Option.map_some], hk, fun _ => ⟨rfl, rfl, ?_, passed⟩, fun h => absurd rfl h⟩
    rw [status, sv]

theorem killBlock_exited {s : State} {blk : Nat} {b b' : Block} {l : Launch} (hb : s.block? blk = some b) (hl : s.launch? b.launch = some l)
    (hs : b.st = .resident) (hb' : (s.killBlock blk).block? blk = some b') {g : Group} (hg : g ∈ b'.groups) {th : Thread}
    (ht : th ∈ g.threads.take 64) : th.st = .exited := by
  obtain ⟨n, hn⟩ := List.mem_iff_getElem?.mp hg
  have e := killBlock_left hb hl (by simp only [hs, reduceCtorEq, or_self, not_false_eq_true]) n
  rw [State.group?, hb', Option.bind_some, hn] at e
  obtain ⟨old, -, rfl⟩ := Option.map_eq_some_iff.mp e.symm
  exact left_exited ht

theorem killb_next {s : State} {c : Sel} {o : OpZ} (h : Issues s c (.killb o)) (hg : c.guarded (.killb o) ≠ []) :
    exec (.killb o) s = .next { s.killBlock c.blk with toPlat := s.toPlat } := by
  rw [exec_killb, execKillb, runSet_next _ h, if_neg (mt List.isEmpty_iff.mp hg)]

theorem killb_ends {s : State} {c : Sel} {o : OpZ} (h : Issues s c (.killb o)) (hg : c.guarded (.killb o) ≠ []) (hs : c.b.st = .resident) :
    ∃ t b l, exec (.killb o) s = .next t
      ∧ t.block? c.blk = some b ∧ t.launch? c.b.launch = some l ∧ (∀ g ∈ b.groups, ∀ th ∈ g.threads.take 64, th.st = .exited)
      ∧ (c.b.doomed = none → b.st = .killed ∧ b.weight = 0 ∧ l.status = max c.l.status 7 ∧ c.b.blkidx ∈ l.passed.map Prod.fst)
      ∧ (c.b.doomed ≠ none → b.st = .resident ∧ b.weight = c.b.weight ∧ l.status = c.l.status) := by
  obtain ⟨-, hb, -, -, hl⟩ := sel_parts h.1
  obtain ⟨b, l, hb', hl', fate⟩ := killBlock_fate hb hl hs
  exact ⟨_, b, l, killb_next h hg, hb', hl', fun _ hg _ ht => killBlock_exited hb hl hs hb' hg ht, fate⟩

/-- Settles O27: the transfers of control lane by lane, the last record word by word, and for the kills what every drain on the way leaves of
the blocks and launches. -/
theorem tretFltrdAndKills : Obligations.TretFltrdAndKills := by
  intro s c
  refine ⟨tret_returns, tret_traps, fun o h => ?_, fun o => killg_ends, fun o => killb_ends⟩
  exact (fltrd_ends h).congr fun _ t => congrArg (t.setList o.d.toNat) (lastWords_eq t _)

end Sys2Proof.Machine
